-- ==== Sys2Proof/Word.lean ====
section
/-! DEFINITION. Word types of the model and their plainest arithmetic. -/

namespace Sys2Proof

/-- A byte of a memory (R7: multi-byte fields are little-endian sequences of these). -/
abbrev Byte := BitVec 8
/-- A 32-bit word. -/
abbrev W32 := BitVec 32
/-- A 64-bit word: the width of every BAR0 register (R443). -/
abbrev W64 := BitVec 64
/-- A 64-byte line or memory word, byte 0 in bits [7:0] (R7, R26, R28). -/
abbrev Line := BitVec 512
/-- A tile-op record of 32 bytes (R96). -/
abbrev Rec := BitVec 256
/-- Core ID (R19): tier, row and column in bits [10:8], [7:4] and [3:0]. -/
abbrev CoreId := Fin 2048
/-- NBU and bank number within a home region (R13). -/
abbrev NbuId := Fin 16
/-- Tier number (R6). -/
abbrev TierId := Fin 8
/-- Muold port p of R286 is `val + 1`. -/
abbrev PortId := Fin 24
/-- Partition ID (R147). -/
abbrev PartId := Fin 64
/-- Channel index (R259). -/
abbrev ChanId := Fin 262144
/-- Quadrant number of a compute layer (R18). -/
abbrev QuadId := Fin 4

/-- Field [hi:lo] of a word, as a number (R7). -/
def bits {n : Nat} (w : BitVec n) (hi lo : Nat) : Nat := (w.toNat >>> lo) % 2 ^ (hi + 1 - lo)
/-- Bit i of a word. -/
def bit {n : Nat} (w : BitVec n) (i : Nat) : Bool := w.getLsbD i
/-- A field [hi:lo] read as a signed number. -/
def sbits {n : Nat} (w : BitVec n) (hi lo : Nat) : Int :=
  let v := bits w hi lo
  if v ≥ 2 ^ (hi - lo) then (v : Int) - 2 ^ (hi + 1 - lo) else v
/-- The number of a Boolean field. -/
def b2n (b : Bool) : Nat := if b then 1 else 0
/-- Quotient rounded up. -/
def cdiv (a b : Nat) : Nat := (a + b - 1) / b

/-- A sparse table: pairs of a key and a value, keys strictly rising, no entry equal to the table's default. -/
abbrev SMap (α : Type) := List (Nat × α)
/-- A memory: the bytes that differ from zero, addresses strictly rising. -/
abbrev Mem := List Host.Cell

end Sys2Proof
end

