-- ==== Sys2Proof/Syntax.lean ====
section
/-! DEFINITION. The commands of the device: one constructor per row of spec/opcode_table.json, in its order.
An operand is what the row's event names (a core, a channel, a port) or what the environment supplies at it
(a reading, a received flit, a byte of a write). -/

namespace Sys2Proof

/-- The unit of a core that carries an op out (R127). Array ops name the set of arrays they hold, bit a − 1 for array a;
SND, RCV and the streams of RED name a port (R101). A barrier is one that the core has joined with NOWAIT (R120). -/
inductive OpUnit where
  | arrays (set : Fin 16)
  | vfu
  | qu
  | snd (port : Fin 6)
  | rcv (port : Fin 6)
  | router
  | chimney
  | chk
  | sequencer
  | barrier (id : Fin 16)
  deriving DecidableEq, Repr

/-- Whose TIMEOUT expires at a core (R97): the next record's, or that of the record on which the sequencer waits; that of the oldest op
that a unit runs, of the signal slot (unit `sequencer`) or of a barrier joined with NOWAIT; or that of an op in a place of a unit's
queue of 4, the oldest in place 0. -/
inductive TimedOp where
  | next
  | running (u : OpUnit)
  | queued (u : OpUnit) (place : Fin 4)
  deriving DecidableEq, Repr

/-- A transfer over the chimney whose CRC-8 failed in a group, and how often in a row: it is repeated at most 3 times (R180). -/
structure CrcFail where
  group : Fin 8
  times : Fin 5
  deriving DecidableEq, Repr

/-- What the hardware met while an op ran: nothing, a residue mismatch (R64) on an array (1 to 4) or on the VFU (0),
an MMAP residue mismatch in one problem (R78), or transfers over the chimney whose CRC-8 failed (R180). -/
inductive OpHw where
  | clean
  | residue (array : Fin 5) (expected observed : Fin 7)
  | residueProblem (array : Fin 5) (problem : Fin 64) (expected observed : Fin 7)
  | chimneyCrc (fails : List CrcFail)
  deriving DecidableEq, Repr

/-- How a line arrived over a link (R139), in two transfers of 32 B: clean, with one or both transfers corrected by the link code,
or passed on with the given bits flipped, the other transfer clean or corrected. -/
inductive LinkErr where
  | clean
  | corrected
  | correctedBoth
  | flipped (mask : Line)
  | correctedFlipped (mask : Line)
  deriving DecidableEq, Repr

/-- The path a window access took (R31, R202, R217): the core's chimney or a service path. -/
inductive Path where
  | chimney
  | service
  deriving DecidableEq, Repr

/-- Who asks for a region mode (R200): the plan of the core by NBC MODE, or a REGION_MODE descriptor of a channel. -/
inductive ModeSrc where
  | nbc (c : CoreId)
  | desc (ch : ChanId)
  deriving DecidableEq, Repr

/-- The error-correcting code of a flit unit as a port receives it (R288). -/
inductive FlitCode where
  /-- on an SR link: the 8 parity bytes that follow header and payload on the wire -/
  | sr (parity : BitVec 64)
  /-- on an LR link: the RS(544,514) codeword in which the unit begins, the data bit at which it does, and the next codeword. Header and
  payload are the unit's bits as they came, and stand for those places of the codewords (log entry 78) -/
  | lr (offset : Fin 5140) (first second : BitVec 5440)
  deriving DecidableEq, Repr

/-- How a reference input gains: its edges are back, or it has qualified over 1.024 ms (R318). -/
inductive RefGain where
  | edges
  | qualified
  deriving DecidableEq, Repr

/-- How a reference input falls: 8 edges are missing, or it has left ±300 ppm (R318). -/
inductive RefDrop where
  | edges
  | tolerance
  deriving DecidableEq, Repr

/-- An input buffer of a router whose parity fails (R388). -/
structure RouterSite where
  core : CoreId
  port : Fin 6
  stream : Fin 16
  deriving DecidableEq, Repr

/-- What a read of host memory was for (R256). -/
inductive HostRead where
  /-- a read of the doorbell area, after this many reads of the same scan -/
  | doorbell (before : Nat)
  | fetch (ch : ChanId)
  /-- a read of a descriptor's data: of the group member that arrives, or of one that has arrived -/
  | data (ch : ChanId) (arriving : Bool)
  deriving DecidableEq, Repr

/-- What the host may change in configuration space (R252, R254; log entry 75). -/
inductive CfgReg where
  /-- AtomicOp Requester Enable -/
  | atomicEnable
  /-- Max_Payload_Size and Max_Read_Request_Size codes: 128 bytes · 2^code -/
  | maxPayload
  | maxRead
  /-- log2 of the BAR2 size -/
  | bar2Size
  /-- bit 0: D3hot -/
  | powerState
  /-- MSI-X Message Control: bit 0 MSI-X Enable, bit 1 Function Mask -/
  | msixControl
  /-- Advanced Error Reporting: status (write 1 to clear), mask and severity of uncorrectable errors, status and mask of correctable ones -/
  | aerUncStatus
  | aerUncMask
  | aerUncSeverity
  | aerCorStatus
  | aerCorMask
  deriving DecidableEq, Repr

/-- Where a register write of the host goes: BAR0, BAR4 (R254), or configuration space (log entry 75). -/
inductive RegPlace where
  | bar0 (off : BitVec 24)
  | bar4 (off : BitVec 16)
  | config (reg : CfgReg)
  deriving DecidableEq, Repr

/-- How a read of host memory failed without a timeout (R256). -/
inductive ReadErr where
  | unsupportedRequest
  | completerAbort
  deriving DecidableEq, Repr

/-- The regulator groups of a tier (R332). -/
inductive Rail where
  | vct
  | vdl
  | vda
  deriving DecidableEq, Repr

/-- Which admission of a tier (R339, R340): of a compute quadrant or of an NBU region. -/
inductive AdmitKind where
  | compute
  | nbu
  deriving DecidableEq, Repr

/-- The two reference inputs (R313). -/
inductive Ref where
  | a
  | b
  deriving DecidableEq, Repr

/-- A reference input that gains. -/
structure RefRise where
  ref : Ref
  what : RefGain
  deriving DecidableEq, Repr

/-- A reference input that falls. -/
structure RefFall where
  ref : Ref
  what : RefDrop
  deriving DecidableEq, Repr

/-- An IDENT control flit (R290): unit address of the sending port, licences (bit 0 PORTS24, 1 POD, 2 TRAIN) and the
first 8 bytes of the certificate hash. -/
structure Ident where
  unit : W32
  licences : BitVec 3
  cert : W64
  deriving DecidableEq, Repr

/-- A BARRIER control flit (R290). -/
structure BarToken where
  scope : Fin 4
  barId : Fin 16
  job : W32
  unit : W32
  deriving DecidableEq, Repr

/-- A SLACK control flit's payload (R347). -/
structure Slack where
  unit : W32
  slack : BitVec 16
  budget : BitVec 16
  power : BitVec 16
  job : W32
  period : W32
  deriving DecidableEq, Repr

/-- Outcome of the first part of the analogue self-test, or of the second (R409, R410). -/
inductive AnalogueResult where
  | firstPass
  | pllJitter (timebase : Bool)
  | ivrReference (t : TierId)
  /-- second part: lanes that fail loop-back or PLL lock (bit per lane), and the reading of every sensor in 0.1 °C, by layer, zone
  and the sensors of a zone -/
  | secondPass (badLanes : BitVec 96) (dc : List Int)
  deriving DecidableEq, Repr

/-- A checker of R186 by its FAIL_KIND code of R193 and its unit address. -/
structure CheckerFail where
  unit : W32
  kind : Fin 8
  deriving DecidableEq, Repr

/-- Causes of a warm device reset (R415, R450). -/
inductive WarmCause where
  | devReset
  | snapshotArea
  | watchdog
  | perst
  | debugUnlock
  | badStatus
  deriving DecidableEq, Repr

/-- What a restore met (R395): nothing, an unreadable or mismatching snapshot area, or transfers over a core's chimney whose CRC-8
failed (R180). -/
inductive RestoreHw where
  | clean
  | areaFault (c : CoreId)
  | chimneyCrc (c : CoreId) (fails : List CrcFail)
  deriving DecidableEq, Repr

inductive Instr where
  -- tile ops (R95 to R134): the record at the core's program counter issues
  | mma (c : CoreId)
  | mmap (c : CoreId)
  | ewa (c : CoreId)
  | vfn (c : CoreId)
  | red (c : CoreId)
  | qscan (c : CoreId)
  | qconv (c : CoreId)
  | dq (c : CoreId)
  | smx (c : CoreId)
  | smxm (c : CoreId)
  | snd (c : CoreId)
  | rcv (c : CoreId)
  | xfwdInstall (c : CoreId)
  | xfwdRelease (c : CoreId)
  | chrd (c : CoreId)
  | chwr (c : CoreId)
  | nbcCmd (c : CoreId)
  | nbcResult (c : CoreId)
  | wait (c : CoreId)
  | waitConditionMet (c : CoreId)
  | bar (c : CoreId)
  | barrierComplete (p : PartId) (barId : Fin 16)
  | snapshotTaken (p : PartId)
  | chk (c : CoreId)
  | idle (c : CoreId)
  | idleSlotEnd (c : CoreId)
  | loop (c : CoreId)
  | sig (c : CoreId)
  | optu (c : CoreId)
  | opComplete (c : CoreId) (u : OpUnit) (hw : OpHw)
  | opTimeout (c : CoreId) (u : TimedOp)
  | quiesceComplete (p : PartId)
  -- mesh and SRAM events
  | lineArrival (c : CoreId) (port : Fin 6) (stream : Fin 16) (err : LinkErr)
  | checkWordArrival (c : CoreId) (port : Fin 6) (stream : Fin 16)
  | creditReturn (c : CoreId) (port : Fin 6) (stream : Fin 16)
  | transitForward (c : CoreId) (port : Fin 6) (stream : Fin 16)
  | portStarvationGrant (c : CoreId) (bank : Fin 32) (row : Fin 7)
  | sramScrub (c : CoreId) (bank : Fin 32)
  | sramScrubForced (c : CoreId) (bank : Fin 32)
  -- partitions
  | partCreate (ch : ChanId)
  | partLoad (ch : ChanId)
  | partStart (ch : ChanId)
  | partQuiesce (ch : ChanId)
  | partResume (ch : ChanId)
  | partReset (ch : ChanId)
  | partUnload (ch : ChanId)
  | partDestroy (ch : ChanId)
  | partQuery (ch : ChanId)
  | partSnapshot (ch : ChanId)
  | routerReset (ch : ChanId)
  -- tier memory
  | refreshCommand (c : CoreId) (n : NbuId)
  | refreshIntervalRelax (t : TierId)
  | dramScrubPage (c : CoreId) (n : NbuId)
  | scrubLapAlarm (c : CoreId)
  | chimneyLineTest (c : CoreId) (group : Fin 8) (faulty : List (Fin 134))
  | bar2Read (dpa : BitVec 40) (len : Nat)
  | bar2Write (dpa : BitVec 40) (data : List Byte)
  -- near-bank units
  | nbuCommandWrite (c : CoreId) (n : NbuId) (line : Fin 256) (data : Line) (via : Path)
  | nbuQueueFullTimeout (c : CoreId) (n : NbuId)
  | queryWrite (c : CoreId) (n : NbuId) (slot : Fin 4) (line : Fin 18) (data : Line) (via : Path)
  | queryAllWrite (c : CoreId) (slot : Fin 4) (line : Fin 18) (data : Line) (via : Path)
  | regionParamWrite (c : CoreId) (data : Line) (via : Path)
  | popRead (c : CoreId) (n : NbuId)
  | groupLine0Read (c : CoreId) (g : Fin 4)
  | groupFold (c : CoreId) (g : Fin 4)
  | nbuCommandStart (c : CoreId) (n : NbuId)
  | attp (c : CoreId) (n : NbuId)
  | attqk (c : CoreId) (n : NbuId)
  | attav (c : CoreId) (n : NbuId)
  | kvapp (c : CoreId) (n : NbuId)
  | kvdecay (c : CoreId) (n : NbuId)
  | fill (c : CoreId) (n : NbuId)
  | copy (c : CoreId) (n : NbuId)
  | gather (c : CoreId) (n : NbuId)
  | scatter (c : CoreId) (n : NbuId)
  | rsum (c : CoreId) (n : NbuId)
  | bchk (c : CoreId) (n : NbuId)
  | nbuCommandComplete (c : CoreId) (n : NbuId)
  | nbuRowBoundary (c : CoreId) (n : NbuId)
  | evictionSelection
  | regionModeNormal (src : ModeSrc)
  | regionModeCompute (src : ModeSrc)
  | regionModeDrain (src : ModeSrc)
  | nbuAdmission (t : TierId) (amps : Nat)
  | batchDecode (p : PartId)
  | batchPrefill (p : PartId)
  | batchDone (p : PartId)
  -- host attachment
  | scanEnSet (probeOk : Bool)
  | scanEnClear
  | doorbellScan
  | descriptorArrival (ch : ChanId)
  | groupAdmission (ch : ChanId)
  | groupTimeout (ch : ChanId)
  | completionTimeout (what : HostRead)
  | completionError (what : HostRead) (err : ReadErr)
  | busMasterDisable
  | busMasterEnable
  | interruptHoldoffExpiry (ch : ChanId)
  | nop (ch : ChanId)
  | chCreate (ch : ChanId)
  | chDestroy (ch : ChanId)
  | channelCloseComplete (ch : ChanId)
  | chResume (ch : ChanId)
  | chQuery (ch : ChanId)
  | chimneyQuery (ch : ChanId)
  | licInstall (ch : ChanId) (flashOk : Bool)
  | fwUpdate (ch : ChanId) (failedUnit : Option W32)
  | pwrCap (ch : ChanId)
  | telemetry (ch : ChanId)
  | attest (ch : ChanId)
  | devReset (ch : ChanId)
  | cpCopy (ch : ChanId)
  | cpFill (ch : ChanId)
  | kvSetup (ch : ChanId)
  | kvRelease (ch : ChanId)
  | kvPte (ch : ChanId)
  | kvSeqRegister (ch : ChanId)
  | kvSeqPause (ch : ChanId)
  | kvSeqResume (ch : ChanId)
  | kvSeqRemove (ch : ChanId)
  | kvResult (ch : ChanId)
  | cpPut (ch : ChanId)
  | cpGet (ch : ChanId)
  -- Muold links
  | portDetect (p : PortId) (lanes : BitVec 4)
  | portEq (p : PortId) (good fine : BitVec 4)
  | portAlign (p : PortId) (peerGood peerFine : BitVec 4) (peerMode : Fin 4) (peer : Ident)
  | portTrainingTimeout (p : PortId)
  | portDetectRetry (p : PortId)
  | portRetrain (p : PortId)
  | lnkRetrain (value : W64)
  | laneLockLoss (p : PortId) (lane : Fin 4)
  | flitReceived (p : PortId) (header : BitVec 64) (payload : BitVec 2048) (code : FlitCode)
  | nakReceived (p : PortId) (ack : Byte)
  | ackTimeout (p : PortId)
  | ident (p : PortId) (peer : Ident)
  | barrierArrive (p : PortId) (tok : BarToken)
  | barrierRelease (p : PortId) (tok : BarToken)
  | timeExchangeTimer
  | timeReq (p : PortId) (t1 : W64)
  | timeResp (p : PortId) (t1 t2 t3 : W64)
  | treeTimer
  | tree (p : PortId) (up : BitVec 3) (unit : W32)
  | slackReport (shares : List (BitVec 16))
  | slackReportReceived (p : PortId) (rep : Slack)
  | balancePeriod (job : W32)
  | slackAssign (p : PortId) (asg : Slack)
  | assignTimeout
  | trayLock (value : W64)
  -- clocks and time
  | referenceLoss (e : RefFall)
  | referenceReady (e : RefRise)
  | referenceSwitchRequest (r : Ref)
  | referenceSwitchComplete
  | holdoverExpiry
  | timebaseLockLoss
  | freqStepRequest (t : TierId) (step : Fin 5)
  | freqStepStop (t : TierId)
  | freqStepWithdraw (t : TierId)
  | fireflyPulse (reached : BitVec 8)
  | fireflyMiss (t : TierId)
  | clkStepCapWrite (value : W64)
  | timeAdjStep (value : W64)
  | timeAdjSlew (value : W64)
  -- power
  | ivrPhaseFailure (t : TierId) (r : Rail) (phase : Fin 48)
  | tierOvercurrentTimeout (t : TierId)
  | admissionStage (t : TierId) (amps : Nat)
  | admissionWaitTimeout (t : TierId) (k : AdmitKind)
  | powerRegionOff (t : TierId) (q : QuadId)
  | droopTrip (t : TierId) (mv : Nat)
  | droopRelax (t : TierId)
  | droopFailure (t : TierId)
  | damperUpdate (p1us : Nat) (amps : List Nat) (activity : List Nat)
  | capLoop (p1ms p10ms vinMv restW : Nat)
  | vinLow
  | vinUndervoltage
  | pwrOkFall
  | vbypOutOfRange
  | vsdOutOfRange
  | vheVauxOutOfRange
  -- cooling, temperature and ageing
  | coolantReport (value : W64) (auxW : Nat)
  | coolantReportTimeout
  | sensorSample (dc : List Int)
  | thermalModelRun
  | ceRateWindow (t : TierId)
  | thermtrip
  | ageingMeasurement (t : TierId) (guard : List Int) (ratios : List Nat)
  | poweredHoursUpdate
  -- checking and recovery
  | correctedMergeExpiry (unit : W32) (status : Byte) (detail : BitVec 16)
  | logEnable (value : W64)
  | signatureEnable (value : W64)
  | weevilSlice
  | weevilSliceComplete (observed : W64)
  | weevilVisitTimeout
  | weevilDisable
  | routerParityFailure (at_ : RouterSite)
  | recoveryRestoreComplete (p : PartId) (hw : RestoreHw)
  | recoveryEpisodeEnd (p : PartId)
  | firmwareWatchdog
  | snapReleaseTimeout (p : PartId)
  -- start-up and trust
  | pwrOkRise
  | rootPllRelease
  | rootPllLock
  | rootPllLockTimeout
  | flashDiscoveryTimeout
  | privilegedImageVerify
  | analogueSelftest (r : AnalogueResult)
  | tierPowerUp (t : TierId) (badVct badVdl badVda : Nat)
  | logicBist (mismatch : List W32)
  | checkerSelftest (fail : Option CheckerFail)
  | memoryFill
  | fuseRepair
  | microcodeDelivery (failedTwice : Option W32)
  | trainingWaitEnd
  | deviceReady
  | svnAdvance
  | mailboxPush (value : W64)
  | mailboxLast (value : W64)
  | mailboxTimeout
  | warmReset (cause : WarmCause)
  | perstAssert
  | dbgChallenge
  | dbgResponse (data : List Byte)
  -- test access port
  | idcode
  | samplePreload (lands preload : BitVec 27)
  | extest
  | clamp
  | highz
  | bypass
  | flashWriteRetry (ok : Bool)
  | registerWrite (place : RegPlace) (data : List Byte)
  | descriptorCompletion (ch : ChanId)
  | rotationComplete (p : PartId) (set : Fin 16)
  | perstDeassertion
  | pcieLinkTrained (rate : Fin 8) (width : Fin 5)
  | peRefclkLoss
  deriving DecidableEq, Repr

end Sys2Proof
end

