-- ==== Sys2Proof/Decode.lean ====
section
/-! DEFINITION. The commands that a word spells: the table of spec/opcode_table.json gives bits to no row. -/

namespace Sys2Proof

/-- The command that a word spells by the table's bits: none, as no row of the table has any. -/
def decodeTableWord (_nbits _w : Nat) : Option Instr := none

end Sys2Proof
end

