-- ==== Sys2Proof/Config.lean ====
section
/-! DEFINITION. What the spec leaves open: free values that nothing in Lean can evaluate. Each takes the counter
`State.free` (or the operands) and is named in a log entry. -/

namespace Sys2Proof.Config

/-- Bytes that the spec calls undefined, drawn by the counter (R149, R222). -/
opaque freeByte : Nat → Byte
/-- Bytes of a line that its layout leaves unnamed (R111, R207, R208), drawn by the counter; by position. -/
opaque fillByte : Nat → Nat → Byte
/-- A 64-bit value that the spec leaves open, drawn by the counter. -/
opaque freeWord : Nat → W64
/-- Check field of a DRAM word whose data are not zero, as stored (R165): the spec gives no matrix of the word code. -/
opaque wordCheck : BitVec 512 → BitVec 16
/-- How the word code reads a stored word, by its data and its bits in error, where R165 fixes no outcome: it is detected, or passes with
the bit that the decoder turns over, if any. -/
opaque wordRead : BitVec 512 → BitVec 528 → Option (Option (Fin 528))
/-- The identity key that the security engine unwraps from the fuse banks, under the hardware key that fuses give it (R419). -/
opaque unwrapKey : List Byte → Nat
/-- The 97-byte public point in an X.509 certificate (R419). -/
opaque certKey : List Byte → List Byte
/-- The public point with a hash that a vendor slot holds: a debug response carries no key of its own (R403, R423). -/
opaque slotKey : List Byte → List Byte
/-- The zone of L0 in which a hearth unit stands, by its sub-unit (R356, R374): the spec gives no place. -/
opaque hearthZone : Nat → Nat
/-- Reading of a rail of a tier, mV: 0 VCT, 1 VDL, at a time (R374). -/
opaque railMv : Nat → Nat → W64 → Nat
/-- Word syndrome of an SRAM word with bits in error, by its number and the time (R84, R376). -/
opaque sramSyndrome : Nat → W64 → BitVec 16
/-- SHA-384 of the kindling ROM (R420). -/
opaque kindlingHash : List Byte
/-- A tier controller's copy of global time, by tier and hearth counter (R326); where the copy follows the pulse, its
distance from the counter is this value reduced to the bound of R326. -/
opaque tierCopy : Nat → W64 → Nat
/-- Output of the random number generator of the security engine, by draw and byte (R423). -/
opaque random : Nat → Nat → Byte
/-- The signature that the kindling ROM holds for a Weevil slice of a grade (R385). -/
opaque weevilSignature : Nat → Nat → W64
/-- Leakage of a core and its home region, mW, at the temperatures of their zones in the compute and the DRAM layer (R343): the spec gives
no coefficient. -/
opaque leakage : Nat → Int → Int → Nat
/-- The RC network of R357: layer, zone, the run, powers by tier and zone in mW (R343), coolant inlet (0.01 °C) and flow (mL/min),
and the sensor temperatures give the estimate, in 0.1 °C. -/
opaque thermalEstimate : Nat → Nat → Nat → List Nat → Int → Nat → List Int → Int
/-- As above, the forecast 8 ms ahead. -/
opaque thermalForecast : Nat → Nat → Nat → List Nat → Int → Nat → List Int → Int

/-- INT32 code to which the VFU converts a NaN, by the code of the NaN: R41 names no result for this target. -/
opaque nanToInt32 : Nat → W32
/-- DROPPED of the canonical NaN triple, by the counts of the two parts: R243 names none. -/
opaque nanDropped : W32 → W32 → W32

end Sys2Proof.Config
end

