-- ==== Sys2Proof/Machine/Flags.lean ====
section
/-! DEFINITION. The arithmetic flags byte of R50, and how flags of parts combine (sticky OR, R95). -/

namespace Sys2Proof.Machine

/-- The arithmetic flags byte (R50). -/
abbrev Flags := BitVec 8

namespace Flag
/-- No flag. -/
def none : Flags := 0x00#8
/-- [0] a NaN input or NaN result occurred (R50). -/
def nanSeen : Flags := 0x01#8
/-- [1] an infinite input occurred (R50). -/
def infSeen : Flags := 0x02#8
/-- [2] a finite value or infinity was saturated to a limit (R50, R41). -/
def sat : Flags := 0x04#8
/-- [3] a product was rounded into the accumulator window (R46). -/
def inexact : Flags := 0x08#8
/-- [4] a product was clamped at the top of the window (R46). -/
def range : Flags := 0x10#8
/-- [5] a computed scale rounded to zero (R56). -/
def scaleUnderflow : Flags := 0x20#8
/-- [6] a scale was substituted (R56). -/
def zeroRange : Flags := 0x40#8
/-- [7] a negative non-zero K4 scale was read (R38). -/
def scaleSign : Flags := 0x80#8
end Flag

/-- A flag that is raised when the condition holds. -/
def flagIf (b : Bool) (f : Flags) : Flags := if b then f else Flag.none

end Sys2Proof.Machine
end

