-- ==== Sys2Proof/Machine/Operands.lean ====
section
/-! DEFINITION. The number formats of R34 to R42, exact values, the one rounding rule (R40), conversions (R41),
the VFU functions rounded once (R86 to R88) and the element reads that every tile op and NBU command shares. -/

namespace Sys2Proof.Machine

/-- Format codes of R100. -/
inductive Fmt where
  | fp32 | bf16 | e4m3 | e5m2 | mxfp4 | int8s | int8u | int4s | int4u | k4 | int32
  deriving DecidableEq, Repr

/-- R100: the format a code names; 0xB to 0xF are reserved. -/
def Fmt.ofCode : Nat → Option Fmt
  | 0 => some .fp32 | 1 => some .bf16 | 2 => some .e4m3 | 3 => some .e5m2 | 4 => some .mxfp4
  | 5 => some .int8s | 6 => some .int8u | 7 => some .int4s | 8 => some .int4u | 9 => some .k4
  | 10 => some .int32 | _ => none

/-- Bits per element (R34, R37). -/
def Fmt.width : Fmt → Nat
  | .fp32 => 32 | .bf16 => 16 | .e4m3 => 8 | .e5m2 => 8 | .mxfp4 => 4 | .int8s => 8 | .int8u => 8
  | .int4s => 4 | .int4u => 4 | .k4 => 4 | .int32 => 32

/-- Lines of 64 B that n packed elements fill (R102). -/
def Fmt.lines (f : Fmt) (n : Nat) : Nat := cdiv (n * f.width) 512

/-- An exact value: NaN, an infinity, or a signed rational num/den (the sign of zero is kept, R43). -/
inductive Val where
  | nan
  | inf (neg : Bool)
  | fin (neg : Bool) (num den : Nat)
  deriving DecidableEq, Repr

/-- The value num/den of a signed integer quotient; an exact zero is +0. -/
def Val.ofRat (n : Int) (d : Nat) : Val := .fin (n < 0) n.natAbs d
/-- An integer value. -/
def Val.ofInt (n : Int) : Val := Val.ofRat n 1
/-- n · 2^e. -/
def Val.scaled (n : Int) (e : Int) : Val :=
  if e ≥ 0 then Val.ofRat (n * 2 ^ e.toNat) 1 else Val.ofRat n (2 ^ (-e).toNat)
/-- Positive zero. -/
def Val.zero : Val := .fin false 0 1
/-- One. -/
def Val.one : Val := .fin false 1 1

/-- A finite value is a zero of either sign. -/
def Val.isZero : Val → Bool
  | .fin _ n _ => n == 0
  | _ => false
/-- The value is NaN. -/
def Val.isNan : Val → Bool
  | .nan => true
  | _ => false
/-- The value is an infinity. -/
def Val.isInf : Val → Bool
  | .inf _ => true
  | _ => false
/-- The value is finite. -/
def Val.isFin : Val → Bool
  | .fin .. => true
  | _ => false
/-- The sign bit (NaN is canonical and positive, R42). -/
def Val.isNeg : Val → Bool
  | .nan => false
  | .inf n => n
  | .fin n _ _ => n
/-- Signed numerator of a finite value; 0 otherwise. -/
def Val.snum : Val → Int
  | .fin neg n _ => if neg then -(n : Int) else n
  | _ => 0
/-- Denominator of a finite value; 1 otherwise. -/
def Val.den : Val → Nat
  | .fin _ _ d => d
  | _ => 1
/-- Magnitude. -/
def Val.abs : Val → Val
  | .nan => .nan
  | .inf _ => .inf false
  | .fin _ n d => .fin false n d
/-- Negation. -/
def Val.neg : Val → Val
  | .nan => .nan
  | .inf s => .inf (!s)
  | .fin s n d => .fin (!s) n d

/-- x < y on the extended reals (false when either is NaN). -/
def Val.lt : Val → Val → Bool
  | .nan, _ => false
  | _, .nan => false
  | .inf a, .inf b => a && !b
  | .inf a, .fin .. => a
  | .fin .., .inf b => !b
  | x@(.fin ..), y@(.fin ..) => decide (x.snum * y.den < y.snum * x.den)
/-- x = y as numbers (zeros of both signs are equal; false when either is NaN). -/
def Val.eq : Val → Val → Bool
  | .nan, _ => false
  | _, .nan => false
  | .inf a, .inf b => a == b
  | .inf _, .fin .. => false
  | .fin .., .inf _ => false
  | x@(.fin ..), y@(.fin ..) => decide (x.snum * y.den = y.snum * x.den)

/-- Exact sum (IEEE 754 signs: a sum of zeros is −0 only when both are, and an exact cancellation is +0);
+∞ + (−∞) is NaN (R88). -/
def Val.add : Val → Val → Val
  | .nan, _ => .nan
  | _, .nan => .nan
  | .inf a, .inf b => if a = b then .inf a else .nan
  | .inf a, .fin .. => .inf a
  | .fin .., .inf b => .inf b
  | x@(.fin sx nx _), y@(.fin sy ny _) =>
    if nx = 0 ∧ ny = 0 then .fin (sx && sy) 0 1
    else Val.ofRat (x.snum * y.den + y.snum * x.den) (x.den * y.den)
/-- Exact product; ∞ × 0 is NaN. -/
def Val.mul : Val → Val → Val
  | .nan, _ => .nan
  | _, .nan => .nan
  | .inf a, .inf b => .inf (a != b)
  | .inf a, .fin s n _ => if n = 0 then .nan else .inf (a != s)
  | .fin s n _, .inf a => if n = 0 then .nan else .inf (a != s)
  | .fin sx nx dx, .fin sy ny dy => .fin (sx != sy) (nx * ny) (dx * dy)
/-- Exact quotient by a finite non-zero divisor; a zero divisor gives an infinity (R88, reciprocal), 0 ÷ 0 NaN. -/
def Val.div : Val → Val → Val
  | .nan, _ => .nan
  | _, .nan => .nan
  | .inf _, .inf _ => .nan
  | .inf a, .fin s _ _ => .inf (a != s)
  | .fin s _ _, .inf a => .fin (s != a) 0 1
  | .fin sx nx dx, .fin sy ny dy =>
    if ny = 0 then (if nx = 0 then .nan else .inf (sx != sy)) else .fin (sx != sy) (nx * dy) (dx * ny)
/-- Larger of two values (R88: NaN wins; max of zeros of both signs is +0). -/
def Val.max (x y : Val) : Val :=
  if x.isNan || y.isNan then .nan
  else if x.isZero && y.isZero then .fin (x.isNeg && y.isNeg) 0 1
  else if x.lt y then y else x
/-- Smaller of two values (R88: NaN wins; min of zeros of both signs is −0). -/
def Val.min (x y : Val) : Val :=
  if x.isNan || y.isNan then .nan
  else if x.isZero && y.isZero then .fin (x.isNeg || y.isNeg) 0 1
  else if y.lt x then y else x

/-- Layout of a binary floating-point format (R35, R36). -/
structure FloatFmt where
  ebits : Nat
  mbits : Nat
  bias : Nat
  /-- largest finite magnitude code -/
  maxCode : Nat
  /-- magnitude code of infinity, if the format has one -/
  infCode : Option Nat
  /-- canonical NaN (R42) -/
  nanCode : Nat
  deriving DecidableEq, Repr

/-- R36, R42. -/
def fFP32 : FloatFmt := ⟨8, 23, 127, 0x7F7FFFFF, some 0x7F800000, 0x7FC00000⟩
/-- R36, R42. -/
def fBF16 : FloatFmt := ⟨8, 7, 127, 0x7F7F, some 0x7F80, 0x7FC0⟩
/-- R35, R42. -/
def fE4M3 : FloatFmt := ⟨4, 3, 7, 0x7E, none, 0x7F⟩
/-- R35, R42. -/
def fE5M2 : FloatFmt := ⟨5, 2, 15, 0x7B, some 0x7C, 0x7F⟩
/-- R35: an FP4 element has no infinity and no NaN of its own. -/
def fE2M1 : FloatFmt := ⟨2, 1, 1, 0x7, none, 0x0⟩

/-- Bits of a code without its sign. -/
def FloatFmt.magBits (f : FloatFmt) : Nat := f.ebits + f.mbits

/-- The exact value of a code (R35, R36). Codes above the largest finite are infinity where the format has one,
otherwise NaN. -/
def FloatFmt.decode (f : FloatFmt) (code : Nat) : Val :=
  let neg := code.testBit f.magBits
  let mag := code % 2 ^ f.magBits
  if mag > f.maxCode then (if f.infCode = some mag then .inf neg else .nan)
  else
    let e := mag >>> f.mbits
    let m := mag % 2 ^ f.mbits
    let sig := if e = 0 then m else 2 ^ f.mbits + m
    let sh : Int := (if e = 0 then 1 else (e : Int)) - f.bias - f.mbits
    if sh ≥ 0 then .fin neg (sig * 2 ^ sh.toNat) 1 else .fin neg sig (2 ^ (-sh).toNat)

/-- ⌊log2 (n/d)⌋ for n, d > 0. -/
def floorLog2 (n d : Nat) : Int :=
  let l : Int := (n.log2 : Int) - d.log2
  -- 2^(l-1) < n/d < 2^(l+1)
  let ge : Bool := if l ≥ 0 then decide (d * 2 ^ l.toNat ≤ n) else decide (d ≤ n * 2 ^ (-l).toNat)
  if ge then l else l - 1

/-- n/d rounded to the nearest integer, a half to the larger (R40 on magnitudes). -/
def roundHalf (n d : Nat) : Nat := (2 * n + d) / (2 * d)

/-- R40 on a signed quotient: half away from zero. -/
def roundInt (n : Int) (d : Nat) : Int := if n < 0 then -(roundHalf n.natAbs d : Int) else roundHalf n.natAbs d

/-- R40: the magnitude code nearest to n/d, ties to the larger magnitude; it may exceed `maxCode`. -/
def FloatFmt.roundMag (f : FloatFmt) (n d : Nat) : Nat :=
  if n = 0 then 0 else
  let emin : Int := 1 - (f.bias : Int)
  let e := floorLog2 n d
  let eq := if e < emin then emin else e
  let q : Int := eq - f.mbits
  let m := if q ≥ 0 then roundHalf n (d * 2 ^ q.toNat) else roundHalf (n * 2 ^ (-q).toNat) d
  if e < emin then m else ((e - emin).toNat + 1) * 2 ^ f.mbits + (m - 2 ^ f.mbits)

/-- A code with its sign. -/
def FloatFmt.withSign (f : FloatFmt) (neg : Bool) (mag : Nat) : Nat :=
  if neg then mag + 2 ^ f.magBits else mag

/-- What happens to a finite result beyond the range: IEEE 754 infinity (VFU arithmetic, R87) or R41's saturation,
with SAT_INF of the op. -/
structure OvMode where
  arith : Bool
  satInf : Bool
  deriving DecidableEq, Repr

/-- R41, R87: a finite magnitude that rounds beyond the largest finite. -/
def FloatFmt.overflow (f : FloatFmt) (md : OvMode) : Nat × Flags :=
  match f.infCode with
  | some i =>
    if f.mbits = 2 then (if md.satInf then (i, Flag.none) else (f.maxCode, Flag.sat))
    else if md.arith then (i, Flag.none) else (f.maxCode, Flag.sat)
  | none => (f.maxCode, Flag.sat)

/-- R41 and R87 for FP32, BF16, E4M3, E5M2 (and an FP4 element): the code of an exact value rounded once, and the
flags of the conversion. -/
def FloatFmt.encode (f : FloatFmt) (md : OvMode) (v : Val) : Nat × Flags :=
  match v with
  | .nan => (f.nanCode, Flag.nanSeen)
  | .inf neg =>
    match f.infCode with
    | some i =>
      if f.mbits = 2 && !md.satInf then (f.withSign neg f.maxCode, Flag.infSeen ||| Flag.sat)
      else (f.withSign neg i, Flag.none)
    | none => (f.withSign neg f.maxCode, Flag.infSeen ||| Flag.sat)
  | .fin neg n d =>
    let m := f.roundMag n d
    if m > f.maxCode then
      let r := f.overflow md
      (f.withSign neg r.1, r.2)
    else (f.withSign neg m, Flag.none)

/-- The floating-point layout behind a format code, for the four that the VFU and readout write (R86, R49). -/
def Fmt.float? : Fmt → Option FloatFmt
  | .fp32 => some fFP32 | .bf16 => some fBF16 | .e4m3 => some fE4M3 | .e5m2 => some fE5M2 | _ => none

/-- A w-bit two's-complement code as a number. -/
def sext (w code : Nat) : Int :=
  let c := code % 2 ^ w
  if c ≥ 2 ^ (w - 1) then (c : Int) - 2 ^ w else c
/-- A number as a w-bit two's-complement code. -/
def toCode (w : Nat) (x : Int) : Nat := (x % 2 ^ w).toNat
/-- Clamp to an inclusive range. -/
def clampInt (lo hi x : Int) : Int := if x < lo then lo else if x > hi then hi else x

/-- The exact value of one element that carries no scale (R34 to R36); `zp` is its zero point (R53), used for
unsigned formats only; of the byte that holds it only the bits of the element's width count (DESIGN CHOICE, log entry 84). -/
def Fmt.elem (f : Fmt) (code zp : Nat) : Val :=
  match f with
  | .fp32 => fFP32.decode code
  | .bf16 => fBF16.decode code
  | .e4m3 => fE4M3.decode code
  | .e5m2 => fE5M2.decode code
  | .mxfp4 => fE2M1.decode code
  | .int8s => Val.ofInt (sext 8 code)
  | .int8u => Val.ofInt ((code % 256 : Nat) - (zp % 256 : Nat))
  | .int4s => Val.ofInt (sext 4 code)
  | .int4u => Val.ofInt ((code % 16 : Nat) - (zp % 16 : Nat))
  | .k4 => Val.ofInt (sext 4 code)
  | .int32 => Val.ofInt (sext 32 code)

/-- R41 for an integer target of width w: rounded half away, saturated to lo…hi; NaN gives `nanTo`. -/
def toIntCode (w : Nat) (lo hi nanTo : Int) (v : Val) : Nat × Flags :=
  match v with
  | .nan => (toCode w nanTo, Flag.nanSeen)
  | .inf neg => (toCode w (if neg then lo else hi), Flag.infSeen ||| Flag.sat)
  | .fin _ _ _ =>
    let r := roundInt v.snum v.den
    (toCode w (clampInt lo hi r), flagIf (decide (r < lo ∨ r > hi)) Flag.sat)

/-- FP32 value of a 32-bit code. -/
def f32 (code : Nat) : Val := fFP32.decode (code % 2 ^ 32)
/-- FP32 arithmetic result rounded once (R87). -/
def rnd32 (v : Val) : Nat × Flags := fFP32.encode ⟨true, false⟩ v
/-- The value of an FP32 arithmetic result. -/
def r32 (v : Val) : Val := fFP32.decode (rnd32 v).1

-- The four transcendental or algebraic functions of the VFU, rounded once (R87).

/-- One Newton step of the integer square root. -/
def isqrtStep (n x : Nat) : Nat := (x + n / x) / 2
/-- Newton iteration downward from a start above the root. -/
def isqrtLoop (n : Nat) : Nat → Nat → Nat
  | 0, x => x
  | k + 1, x => let y := isqrtStep n x; if y < x then isqrtLoop n k y else x
/-- ⌊√n⌋. -/
def isqrt (n : Nat) : Nat := if n = 0 then 0 else isqrtLoop n (n.log2 + 4) (2 ^ (n.log2 / 2 + 1))

/-- Lower end, in units of 2^-p, of 2^(0.b₁b₂…) for the bits of `f` (most significant of `k` bits first): the product of
the roots 2^(2^-i) over the set bits, each truncated. -/
def exp2Frac (p f : Nat) : Nat → Nat → Nat → Nat
  | 0, _, acc => acc
  | k + 1, root, acc =>
    let root' := isqrt (root * 2 ^ p)
    exp2Frac p f k root' (if f.testBit k then acc * root' / 2 ^ p else acc)

/-- Rounds a positive irrational between two bounds when both round alike. -/
def FloatFmt.agree (f : FloatFmt) (n1 n2 d : Nat) : Option Nat :=
  let a := f.roundMag n1 d
  if a = f.roundMag n2 d then some a else none

/-- Magnitude code of 2^(n + frac/2^k), tried at growing precision until both bounds round alike. -/
def exp2Try (f : FloatFmt) (n : Int) (frac k : Nat) : List Nat → Nat
  | [] => 0
  | p :: ps =>
    let lo := exp2Frac p frac k (2 ^ (p + 1)) (2 ^ p)
    let hi := lo + 8 * k + 8
    let sc := fun m => if n ≥ 0 then (m * 2 ^ n.toNat, 2 ^ p) else (m, 2 ^ (p + (-n).toNat))
    match f.agree (sc lo).1 (sc hi).1 (sc lo).2 with
    | some c => c
    | none => if ps.isEmpty then f.roundMag (sc lo).1 (sc lo).2 else exp2Try f n frac k ps

/-- The finite result of exp2 as a magnitude code of the destination (R87); the argument lies in [−150, 128). -/
def exp2Mag (f : FloatFmt) (x : Val) : Nat :=
  let n := x.snum / (x.den : Int)
  let fr := x.snum - n * x.den
  if fr = 0 then (if n ≥ 0 then f.roundMag (2 ^ n.toNat) 1 else f.roundMag 1 (2 ^ (-n).toNat))
  else exp2Try f n fr.toNat x.den.log2 [96, 192, 384]

/-- exp2 (R88): +0 for −∞ and below −150, +∞ for +∞ and from 128 up. -/
def vExp2 (f : FloatFmt) (md : OvMode) (x : Val) : Nat × Flags :=
  match x with
  | .nan => f.encode md .nan
  | .inf true => (0, Flag.none)
  | .inf false => f.encode md (.inf false)
  | .fin _ _ _ =>
    if decide (x.snum < -150 * (x.den : Int)) then (0, Flag.none)
    else if decide (x.snum ≥ 128 * (x.den : Int)) then f.encode md (.inf false)
    else
      let m := exp2Mag f x
      if m > f.maxCode then f.overflow md else (m, Flag.none)

/-- Digits of log2 of a mantissa in [1, 2), both bounds squared along; stops where they disagree.
Answers the digits and how many there are. -/
def log2Digits (p : Nat) : Nat → Nat → Nat → Nat → Nat → Nat × Nat
  | 0, _, _, acc, cnt => (acc, cnt)
  | k + 1, lo, hi, acc, cnt =>
    let lo2 := lo * lo / 2 ^ p
    let hi2 := (hi * hi + (2 ^ p - 1)) / 2 ^ p
    let two := 2 ^ (p + 1)
    if lo2 ≥ two then log2Digits p k (lo2 / 2) ((hi2 + 1) / 2) (2 * acc + 1) (cnt + 1)
    else if hi2 < two then log2Digits p k lo2 hi2 (2 * acc) (cnt + 1)
    else (acc, cnt)

/-- Code of e + log2 m for an irrational logarithm, at growing precision. -/
def log2Try (f : FloatFmt) (e : Int) (m k : Nat) : List Nat → Bool × Nat
  | [] => (false, 0)
  | d :: ds =>
    let p := 2 * d + 64
    let z := if k ≤ p then m * 2 ^ (p - k) else m
    let r := log2Digits p d z z 0 0
    let lo : Int := e * 2 ^ r.2 + r.1
    let neg := decide (lo < 0)
    -- the value lies strictly between lo and lo + 1 in units of 2^-cnt
    let a := if neg then (lo + 1).natAbs else lo.natAbs
    let b := if neg then lo.natAbs else (lo + 1).natAbs
    match f.agree a b (2 ^ r.2) with
    | some c => (neg, c)
    | none => if ds.isEmpty then (neg, f.roundMag b (2 ^ r.2)) else log2Try f e m k ds

/-- log2 (R88): −∞ at ±0, NaN below zero, +∞ at +∞; exact at powers of two. -/
def vLog2 (f : FloatFmt) (md : OvMode) (x : Val) : Nat × Flags :=
  match x with
  | .nan => f.encode md .nan
  | .inf false => f.encode md (.inf false)
  | .inf true => f.encode md .nan
  | .fin neg n d =>
    if n = 0 then f.encode md (.inf true)
    else if neg then f.encode md .nan
    else
      let e := floorLog2 n d
      -- x = 2^e · m/2^k with d a power of two
      let k := n.log2
      if n = 2 ^ k then f.encode md (Val.ofInt e)
      else
        let r := log2Try f e n k [96, 192, 384]
        if r.2 > f.maxCode then (f.withSign r.1 (f.overflow md).1, (f.overflow md).2)
        else (f.withSign r.1 r.2, Flag.none)

/-- reciprocal (R88): ±∞ at ±0, ±0 at ±∞. -/
def vRcp (f : FloatFmt) (md : OvMode) (x : Val) : Nat × Flags := f.encode md (Val.div Val.one x)

/-- reciprocal square root (R88). 1/√(n/d) = √(d·4^j/n) / 2^j, with one sticky bit for an inexact root. -/
def vRsq (f : FloatFmt) (md : OvMode) (x : Val) : Nat × Flags :=
  match x with
  | .nan => f.encode md .nan
  | .inf false => f.encode md Val.zero
  | .inf true => f.encode md .nan
  | .fin neg n d =>
    if n = 0 then f.encode md (.inf neg)
    else if neg then f.encode md .nan
    else
      let j := 64 + n.log2
      let q := d * 4 ^ j / n
      let r := isqrt q
      let exact := r * r * n = d * 4 ^ j
      -- doubling makes room for the sticky bit, which keeps an inexact root off every tie
      f.encode md (.fin false (2 * r + (if exact then 0 else 1)) (2 ^ (j + 1)))

-- Element access in little-endian packed storage (R7, R37), through a byte read.

/-- A little-endian number of n bytes at address a. -/
def leNat (rd : Nat → Byte) (a : Nat) : Nat → Nat
  | 0 => 0
  | k + 1 => (rd a).toNat + 256 * leNat rd (a + 1) k

/-- Element i of a packed tensor of the given element width that starts at byte a (R37). -/
def elemAt (rd : Nat → Byte) (a width i : Nat) : Nat :=
  if width = 4 then ((rd (a + i / 2)).toNat >>> (4 * (i % 2))) % 16 else leNat rd (a + i * (width / 8)) (width / 8)

/-- The n little-endian bytes of a number. -/
def leBytes (v : Nat) : Nat → List Byte
  | 0 => []
  | k + 1 => BitVec.ofNat 8 v :: leBytes (v / 256) k

/-- Packed bytes of a list of element codes (R37): two 4-bit elements to a byte, the even one low. DESIGN CHOICE (log entry 63): behind
an odd number of elements the high half of the last byte is written 0. -/
def packElems (width : Nat) (codes : List Nat) : List Byte :=
  if width = 4 then
    go4 codes
  else codes.flatMap fun c => leBytes c (width / 8)
where
  /-- Pairs of 4-bit codes. -/
  go4 : List Nat → List Byte
    | [] => []
    | [x] => [BitVec.ofNat 8 (x % 16)]
    | x :: y :: r => BitVec.ofNat 8 (x % 16 + 16 * (y % 16)) :: go4 r

/-- A line from its bytes, byte 0 in bits [7:0]. -/
def lineOfBytes (bs : List Byte) : Line := BitVec.ofNat 512 (bs.foldr (fun b acc => b.toNat + 256 * acc) 0)
/-- The n bytes of a word, lowest first. -/
def bytesOf {w : Nat} (x : BitVec w) (n : Nat) : List Byte := leBytes x.toNat n
/-- Byte i of a word. -/
def byteAt {w : Nat} (x : BitVec w) (i : Nat) : Byte := BitVec.ofNat 8 (x.toNat >>> (8 * i))

end Sys2Proof.Machine
end

