-- ==== Sys2Proof/Machine/State.lean ====
section
/-! DEFINITION. The state of the device, as plain data: every register, buffer, counter, mode and pin the spec names,
and the queue of commands. INVENTORY.md lists each piece with its rule and its reset value. -/

namespace Sys2Proof.Machine

/-- Status codes (R9). -/
inductive Status where
  | ok | stateConflict | badHandle | badDescriptor | noFit | licenceDenied | groupAborted | operandBusy | addrFault
  | uncorrectable | checkMismatch | residueFault | linkDown | timeout | resetAborted | srcNotReady | powerDenied
  | transitBusy | quarantined
  deriving DecidableEq, Repr

/-- Error classes (R373). -/
inductive ErrClass where
  | corrected | contained | partitionFatal | deviceFatal
  deriving DecidableEq, Repr

/-- Device states (R397). -/
inductive DevState where
  | off | resetHold | boot | selftest | ready | degraded | safe
  deriving DecidableEq, Repr

/-- Grades (R3, R32): four or three arrays in every core. -/
inductive Grade where
  | a4 | a3
  deriving DecidableEq, Repr

-- Cores

/-- One output accumulator (R48, R51, R62, R69): the 88-bit A, its window exponent W, the sticky bits, the residue, and
the FP32 value of a BF16 chain. -/
structure Acc where
  a : BitVec 88
  w : Int
  nan : Bool
  posInf : Bool
  negInf : Bool
  res : Fin 7
  f32 : W32
  deriving DecidableEq, Repr

/-- An accumulator that holds nothing. -/
def Acc.empty : Acc := ⟨0#88, 0, false, false, false, 0, 0#32⟩

/-- Sequencer states (R95). -/
inductive SeqState where
  | stopped | running | waiting | halted | faulted
  deriving DecidableEq, Repr

/-- A loop-stack entry (R95): the LOOP record's index and the iteration number. -/
structure LoopEntry where
  index : Nat
  iter : Nat
  deriving DecidableEq, Repr

/-- What a core whose sequencer is WAITING waits for (R119, R120, R122). -/
inductive Waiting where
  /-- WAIT with its fields, and the counter's value at issue (DATAPATH, DELAY). -/
  | wait (src index : Nat) (value : BitVec 48) (base : BitVec 48)
  /-- BAR without NOWAIT. -/
  | bar (barId : Fin 16) (snap : Bool)
  /-- IDLE: its slot length and, once the core has drained, the cycle at which the slot began. -/
  | idle (cycles : Nat) (start : Option (BitVec 48))
  deriving DecidableEq, Repr

/-- An op that has started on its unit (R97). Its results stand in `writes` and `dwrites` until OP_COMPLETE. -/
structure OpRun where
  unit : OpUnit
  index : Nat
  /-- the record with its address fields advanced (R123) -/
  rcd : Rec
  status : Status
  flags : Flags
  /-- result bytes by slot offset in the core's SRAM -/
  writes : List (Nat × List Byte)
  /-- result bytes by slot offset in the core's DRAM slot -/
  dwrites : List (Nat × List Byte)
  /-- accumulators the op leaves (R69), as key and value -/
  accs : List (Nat × Acc)
  /-- datapath counters that the op advances when it ends: index of R119 and amount -/
  ctrs : List (Nat × Nat)
  /-- gated MAC operations by array, 0 to 3 (R80, R93) -/
  gated : List (Nat × Nat)
  /-- tier cycle at which the op started -/
  began : BitVec 48
  /-- lines a streaming op has moved -/
  pos : Nat
  /-- a streaming op has not yet moved all its lines -/
  busy : Bool
  /-- sub-unit and detail of the residue fault after which the op was started again (R130) -/
  retried : Option (Nat × BitVec 192)
  /-- sub-unit that its error record names (R129, R84, R170) -/
  sub : Nat
  /-- DETAIL of its error record (R376) -/
  detail : BitVec 192
  deriving DecidableEq, Repr

/-- An op that has issued and not started (R97). -/
structure OpQueued where
  unit : OpUnit
  index : Nat
  rcd : Rec
  deriving DecidableEq, Repr

/-- The signal slot of a core (R124): the handle, value, interrupt request and flags it carries. -/
structure SigSlot where
  handle : W32
  value : W32
  irq : Bool
  flags : Flags
  index : Nat
  doneEn : Bool
  doneCtr : Nat
  deriving DecidableEq, Repr

/-- A core's sequencer and datapath state (R93, R95, R97). -/
structure Core where
  seq : SeqState
  pc : Nat
  loops : List LoopEntry
  cnt : SMap (BitVec 24)
  /-- datapath counters by the index of R119 -/
  ctr : SMap (BitVec 48)
  gatedRem : SMap (Fin 64)
  cycBase : BitVec 48
  /-- raw count at which the counter stopped (quarantine, R278) -/
  frozen : Option (BitVec 48)
  offset : BitVec 48
  flags : Flags
  faultTime : Option W64
  inflight : List OpRun
  queued : List OpQueued
  wait : Option Waiting
  sig : Option SigSlot
  acc : SMap Acc
  /-- NOWAIT barriers whose DONE is pending: barrier and record index -/
  nowait : List (Fin 16 × Nat)
  /-- lines that the SRAM scrubber has read of each bank since the lap began, and when it began (R85) -/
  scrubLine : SMap Nat
  scrubStart : W64
  deriving DecidableEq, Repr

/-- A core as cold start and partition reset leave it (R95, R98, R156). -/
def Core.empty : Core :=
  { seq := .stopped, pc := 0, loops := [], cnt := [], ctr := [], gatedRem := [], cycBase := 0, frozen := none, offset := 0, flags := 0,
    faultTime := none, inflight := [], queued := [], wait := none, sig := none, acc := [], nowait := [], scrubLine := [],
    scrubStart := 0 }

/-- What travels on a link (R114, R115): a line, or the check word beside the line it follows; behind the items of a flit
that came over a Muold port, the end of that flit with its virtual channel, whose buffer is then free (R292). -/
inductive WireItem where
  | line (l : Line)
  | check (w : W32)
  | flitEnd (vc : Nat)
  deriving DecidableEq, Repr

/-- A line in a receive buffer with the check word that travels beside it, once that has come, and whether it failed here
(R115, R139). -/
structure BufLine where
  line : Line
  check : Option (W32 × Bool)
  deriving DecidableEq, Repr

/-- One stream of one port of a router (R95, R115, R137), keyed by core, port and stream. -/
structure Stream where
  /-- receive buffer, head first -/
  buf : List BufLine
  /-- items on the incoming link, head first -/
  wire : List WireItem
  recvPos : Nat
  sendPos : Nat
  /-- credits of the sending side for this output stream -/
  credits : Nat
  /-- credits on their way back -/
  creditsBack : Nat
  /-- CRC-32C state over lines since the last check word, sent and received -/
  sendCrc : W32
  recvCrc : W32
  /-- lines received since the last check word -/
  recvSince : Nat
  sendSince : Nat
  /-- output port and stream to which a route has passed the last line received, whose check word has not come yet (R115) -/
  passed : Option (Nat × Nat)
  deriving DecidableEq, Repr

/-- A stream after partition reset: empty, with the 8 credits of R137. -/
def Stream.empty : Stream :=
  { buf := [], wire := [], recvPos := 0, sendPos := 0, credits := 8, creditsBack := 0,
    sendCrc := 0xFFFFFFFF#32, recvCrc := 0xFFFFFFFF#32, recvSince := 0, sendSince := 0, passed := none }

/-- A transit route (R116, R142, R144). -/
structure Route where
  core : Nat
  inPort : Nat
  inStream : Nat
  outPort : Nat
  outStream : Nat
  owner : Nat
  declared : Bool
  /-- lines left before self-release; 0 = until released -/
  left : Nat
  deriving DecidableEq, Repr

-- Near-bank units and regions

/-- An access that a service path has accepted behind a write that waits at the same region (R185, R202). -/
inductive PathReq where
  | read (dpa len : Nat)
  | write (dpa : Nat) (data : List Byte)
  | window (n line : Nat) (l : Line)
  deriving DecidableEq, Repr

/-- A queued NBU command (R202, R205) and how it came. -/
structure NbuCmd where
  cmd : Line
  via : Path
  deriving DecidableEq, Repr

/-- A partial softmax triple (R111, R242), FP32 codes. -/
structure Triple where
  m : W32
  l : W32
  o : List W32
  dropped : W32
  deriving DecidableEq, Repr

/-- The empty triple of R243 with no o. -/
def Triple.empty : Triple := ⟨0xFF800000#32, 0#32, [], 0#32⟩

/-- The running command of an NBU. -/
structure NbuRun where
  cmd : NbuCmd
  /-- the command's op has computed its results -/
  computed : Bool
  status : Status
  flags : Flags
  detail : W32
  data : List Line
  writes : List (Nat × List Byte)
  /-- partials this command merges, by head (R207) -/
  partials : List Triple
  /-- the query slot as read at start (R203) -/
  slot : List Line
  /-- the fold of this group waits for the command (R216) -/
  inRound : Bool
  /-- slot offset of the word that failed the command (R170, R376) -/
  loc : Option Nat
  /-- blocks whose table words are still to be rewritten: the command's writes stand, and it waits for its row tasks (R211) -/
  recomp : List Nat
  deriving DecidableEq, Repr

/-- One near-bank unit (R202 to R218). -/
structure Nbu where
  queue : List NbuCmd
  running : Option NbuRun
  results : List Line
  /-- query slot lines, keyed by 18·slot + line -/
  slots : SMap Line
  arms : SMap (Fin 16)
  lastTag : BitVec 16
  lastStatus : Byte
  completed : BitVec 48
  yields : BitVec 48
  discarded : BitVec 16
  /-- merge partials, keyed by 8·group + head -/
  partials : SMap Triple
  /-- a service-path write that waits for a free entry (R202) -/
  waitWrite : Option NbuCmd
  /-- the channel whose descriptor's write waits for a free entry (R202) -/
  waitDesc : Option Nat
  deriving DecidableEq, Repr

/-- An idle NBU. -/
def Nbu.empty : Nbu :=
  { queue := [], running := none, results := [], slots := [], arms := [], lastTag := 0, lastStatus := 0, completed := 0,
    yields := 0, discarded := 0, partials := [], waitWrite := none, waitDesc := none }

/-- Region modes (R199). -/
inductive RMode where
  | normal | compute | drain
  deriving DecidableEq, Repr

/-- A merge group of a region (R216). -/
structure MGroup where
  buffer : List Line
  pendingFold : Bool
  failed : W32
  deriving DecidableEq, Repr

/-- A group that has not folded since the region entered COMPUTE: its buffer reads as an empty fold (R216). -/
def MGroup.empty : MGroup := ⟨[], false, 0⟩

/-- A request of a region mode (R200): by a descriptor of a channel, or by the plan's NBC MODE, and the mode's code. -/
structure ModeReq where
  chan : Option Nat
  mode : Nat
  /-- asked for by a commit group, which enters the mode at its instant (R281) -/
  grp : Bool
  deriving DecidableEq, Repr

/-- A home region's controller (R13, R167 to R175, R199 to R204, R229, R230). -/
structure Region where
  mode : RMode
  /-- mode requests not yet decided, the oldest first; its admission waits (R200, R340) -/
  modeReqs : List ModeReq
  nbus : SMap Nbu
  /-- accesses that the service path completes after a write that waits, in the order accepted (R185, R202) -/
  behind : List PathReq
  chkBase : W32
  groups : SMap MGroup
  /-- page table entries by index -/
  table : SMap (BitVec 128)
  gen : W32
  /-- slot offset of the mirror, when one exists -/
  mirror : Option Nat
  repairQ : List Nat
  dropped : Nat
  /-- next page of each bank in the scrub lap -/
  scrubPage : SMap Nat
  /-- next row of each bank to refresh -/
  refreshRow : SMap Nat
  lapStart : W64
  /-- laps completed since the last device-wide lap, and the longest of them -/
  lapDone : Nat
  lapMs : Nat
  alarmed : Bool
  /-- pages that the scrubber could not repair: laps in which each was found, and those of the present lap (R172) -/
  ueCount : SMap Nat
  ueSeen : List Nat
  deriving DecidableEq, Repr

/-- A region after power-on fill (R187, R204). -/
def Region.empty : Region :=
  { mode := .normal, modeReqs := [], nbus := [], behind := [], chkBase := 0xFFFFFFFF#32, groups := [], table := [], gen := 0,
    mirror := none,
    repairQ := [], dropped := 0, scrubPage := [], refreshRow := [], lapStart := 0, lapDone := 0, lapMs := 0,
    alarmed := false, ueCount := [], ueSeen := [] }

/-- A chimney (R176 to R183, R195). -/
structure Chimney where
  spares : SMap Nat
  disabled : List Nat
  failed : Bool
  /-- times of each group's check failures within the last 1 ms (R180) -/
  fails : SMap (List W64)
  paused : List Nat
  deriving DecidableEq, Repr

/-- A chimney with every line good. -/
def Chimney.empty : Chimney := { spares := [], disabled := [], failed := false, fails := [], paused := [] }

-- Partitions

/-- Partition states (R148); an ID not in use is not in the table. -/
inductive PState where
  | free | loading | loaded | running | quiesced | recovering | failed
  deriving DecidableEq, Repr

/-- A mailbox of a plan (R153 type 5). -/
structure Mailbox where
  index : Nat
  out : Bool
  core : Nat
  la : Nat
  lines : Nat
  ctr : Nat
  deriving DecidableEq, Repr

/-- A link-table entry of a plan (R153 type 6). -/
structure LinkUse where
  port : Nat
  width : Nat
  mode : Nat
  vcs : Nat
  peerTray : Nat
  peerSlot : Nat
  peerPort : Nat
  deriving DecidableEq, Repr

/-- Snapshot areas of one core (R153 type 7). -/
structure SnapArea where
  core : Nat
  area0 : Nat
  area1 : Nat
  bytes : Nat
  deriving DecidableEq, Repr

/-- A rotation set (R153 type 8, R363). -/
structure RotSet where
  set : Nat
  barId : Nat
  exStream : Nat
  members : List Nat
  deriving DecidableEq, Repr

/-- The batch mailbox of a plan (R153 type 9, R248). -/
structure BatchBox where
  core : Nat
  la : Nat
  ctr : Nat
  batchMax : Nat
  chunkMax : Nat
  deriving DecidableEq, Repr

/-- A loaded plan's declarations (R155). -/
structure Plan where
  /-- RECORDS of each core -/
  records : SMap Nat
  routes : List Route
  /-- reserved input streams (declared routes and XFWD places): core·96 + port·16 + stream -/
  reservedIn : List Nat
  reservedOut : List Nat
  mailboxes : List Mailbox
  links : List LinkUse
  snaps : List SnapArea
  rots : List RotSet
  batch : Option BatchBox
  job : W32
  timeout : Nat
  features : Nat
  hasSnap : Bool
  imgDpa : Bool
  imgAddr : W64
  imgLen : Nat
  deriving DecidableEq, Repr

/-- An exchange under way (R364): its set, and the two cores that hold issue for it. -/
structure Rotation where
  set : Nat
  hot : Nat
  cool : Nat
  deriving DecidableEq, Repr

/-- A formed batch (R247, R248): its contexts and the tokens that each takes. -/
structure Batch where
  id : Nat
  ctxs : List Nat
  tokens : Nat
  deriving DecidableEq, Repr

/-- A partition (R147 to R150, R392 to R394). -/
structure Partition where
  state : PState
  cores : List Nat
  plan : Option Plan
  epoch : Byte
  capW : Nat
  /-- a quiesce has been requested, by the descriptor of this channel -/
  quiesce : Option Nat
  /-- a snapshot has been requested, by the descriptor of this channel -/
  snapReq : Option Nat
  /-- faults of the present recovery episode; 0 outside an episode -/
  faults : Nat
  nextSnap : Nat
  lastSnap : Option Nat
  /-- time at which the partition last entered RUNNING -/
  runSince : W64
  /-- rotation exchanges since the plan was loaded -/
  rotations : Nat
  /-- sets whose exchange is requested or running -/
  rotWanted : List Nat
  /-- exchanges under way -/
  rotating : List Rotation
  batches : List Batch
  nextBatch : Nat
  /-- the restore of the present recovery has ended; the cores meet at the snapshot's barrier (R392) -/
  restored : Bool
  deriving DecidableEq, Repr

/-- A partition just created (R149). -/
def Partition.fresh (cores : List Nat) : Partition :=
  { state := .free, cores := cores, plan := none, epoch := 0, capW := 0, quiesce := none, snapReq := none, faults := 0,
    nextSnap := 1, lastSnap := none, runSince := 0, rotations := 0, rotWanted := [], rotating := [],
    batches := [], nextBatch := 0, restored := false }

/-- A snapshot held in the areas of a partition's cores (R132, R390). -/
structure Snapshot where
  part : Nat
  number : Nat
  area : Nat
  /-- 1 writing, 2 complete, 3 taken -/
  state : Nat
  scope : Nat
  epoch : Byte
  /-- TIME of the header, by tier (R326) -/
  time : SMap W64
  /-- taken for a quiesce: nothing of the partition was on its way when the copy began (R158) -/
  quiet : Bool
  cores : SMap Core
  streams : SMap Stream
  /-- the partition's routes in its own routers (R95) -/
  routes : List Route
  regions : SMap Region
  offsets : List (Nat × Nat)
  deriving DecidableEq, Repr

/-- Arrivals at a barrier of one partition (R120, R307). -/
structure Barrier where
  part : Nat
  barId : Nat
  scope : Nat
  snap : Bool
  timeSync : Bool
  arrived : List Nat
  /-- slot of each ARRIVE that has come from a device of this tray: its own, then those it hands on (R307) -/
  members : List Nat
  /-- child trays whose ARRIVE has come over a tree edge of this device -/
  children : List Nat
  /-- this device has sent its ARRIVE to its tray, and up the tree -/
  sentArrive : Bool
  sentUp : Bool
  /-- released from the tree (pod scope), or complete and waiting for a snapshot copy to end -/
  released : Bool
  deriving DecidableEq, Repr

-- Host attachment

/-- Channel states (R261). -/
inductive ChState where
  | open | stalledCq | stalledSeq | stalledProducer | closing | closed
  deriving DecidableEq, Repr

/-- Where a fetched descriptor stands. -/
inductive DPhase where
  | ready
  | running
  /-- a member of a commit group that has taken effect, and completes with the members that still run -/
  | held (detail : BitVec 128)
  | done (status : Status) (detail : BitVec 128) (time : W64)
  deriving DecidableEq, Repr

/-- A checked descriptor of a channel, in SEQ order. -/
structure DescEntry where
  desc : Line
  phase : DPhase
  inGroup : Bool
  /-- bytes or lines that its work has moved -/
  pos : Nat
  deriving DecidableEq, Repr

/-- The failed member of a group, as R283 reports it. -/
structure GroupFail where
  unit : W32
  seq : W32
  status : Status
  pos : Nat
  deriving DecidableEq, Repr

/-- The open commit group of a channel (R280 to R282). -/
structure Group where
  tag : BitVec 16
  members : List Line
  payload : Nat
  fail : Option GroupFail
  /-- the group waits for one of the 16 staging places -/
  waiting : Bool
  /-- GROUP_END has arrived: the group's place in the order in which groups take effect (R281) -/
  ending : Option Nat
  /-- the member for which power regions have been requested -/
  asked : Option Nat
  /-- members whose preparation has been done: an admission, a delivery or a flash write -/
  ready : List Nat
  deriving DecidableEq, Repr

/-- A channel's context (R259 to R276). -/
structure Channel where
  state : ChState
  kind : Nat
  part : Nat
  gen : Nat
  sqBase : W64
  cqBase : W64
  sqLog2 : Nat
  cqLog2 : Nat
  vector : Nat
  holdoff : Nat
  nextSeq : W32
  producer : W32
  cqSeq : W32
  fetchPos : W32
  /-- a fetch has failed, and the channel waits for its next doorbell (R256) -/
  fetchHeld : Bool
  completed : W32
  written : W32
  signals : W32
  /-- fetched, not yet checked -/
  raw : List Line
  q : List DescEntry
  group : Option Group
  /-- an interrupt waits for the end of the hold-off -/
  irqHeld : Bool
  inHoldoff : Bool
  /-- the channel whose CH_DESTROY closes this one -/
  closer : Option Nat
  deriving DecidableEq, Repr

/-- A closed channel of generation 0 (R258, R260). -/
def Channel.closed0 : Channel :=
  { state := .closed, kind := 0, part := 0, gen := 0, sqBase := 0, cqBase := 0, sqLog2 := 0, cqLog2 := 0, vector := 0,
    holdoff := 0, nextSeq := 0, producer := 0, cqSeq := 0, fetchPos := 0, fetchHeld := false, completed := 0, written := 0, signals := 0,
    raw := [], q := [], group := none, irqHeld := false, inHoldoff := false, closer := none }

/-- The registers of Advanced Error Reporting (R252): status, mask and severity of uncorrectable errors, status and mask of correctable
ones. PRESUMED (PCI Express): their bits and reset values (log entry 75). -/
structure Aer where
  uncStatus : W32
  uncMask : W32
  uncSeverity : W32
  corStatus : W32
  corMask : W32
  deriving DecidableEq, Repr
/-- At reset. -/
def Aer.fresh : Aer := ⟨0, 0, 0x00462030, 0, 0x2000⟩

/-- The host attachment: HST registers, PCIe state, channels (R252 to R285). -/
structure Hst where
  scanEn : Bool
  scanning : Bool
  scanResult : Status
  ignored : Nat
  dbBase : W64
  dbPoll : Nat
  ch0Sq : W64
  ch0Cq : W64
  ch0Cfg : W64
  linkUp : Bool
  linkRate : Nat
  linkWidth : Nat
  busMaster : Bool
  atomicEn : Bool
  /-- codes of Max_Payload_Size and Max_Read_Request_Size (R252) -/
  maxPayload : Nat
  maxRead : Nat
  bar2Log2 : Nat
  /-- the function is in D3hot (R252) -/
  d3hot : Bool
  /-- Advanced Error Reporting (R252; log entry 75) -/
  aer : Aer
  /-- MSI-X Enable and Function Mask, the entries of the table by vector, and the pending bits (R254, R273) -/
  msixEn : Bool
  msixMask : Bool
  msix : SMap (BitVec 128)
  pendingIrq : List Nat
  chans : SMap Channel
  /-- writes to host memory held while Bus Master Enable is 0 (R256), oldest first -/
  held : List (Nat × List Byte)
  heldIrq : List Nat
  /-- interrupts raised, per vector -/
  irqs : SMap Nat
  /-- bits that the host sets in words of the doorbell area between the next scan's read of a word and its CAS operations, as offset
  and bits (R266; the environment's, log entry 44) -/
  late : List (BitVec 22 × BitVec 64)
  deriving DecidableEq, Repr

-- Clocks, time, power, thermal

/-- A reference input (R318). -/
structure RefIn where
  present : Bool
  ready : Bool
  losses : Nat
  deriving DecidableEq, Repr

/-- A tier's clock (R323, R324, R329). -/
structure TierClk where
  cur : Nat
  floorAge : Nat
  floorBypass : Nat
  /-- a step is pending or stopping, to this code -/
  target : Option Nat
  /-- the pending step moves the tier to bypass and is never withdrawn (R336) -/
  toBypass : Bool
  /-- the layer's clock is stopped (R322, R335, R341) -/
  stopped : Bool
  /-- fortieths of root cycles since the last core cycle (R316, R341) -/
  phase : Nat
  cycles : BitVec 48
  /-- cycles for which each quadrant's clock has been gated (R18, R325, R339) -/
  gated : SMap (BitVec 48)
  /-- a thermal request forbids steps faster than this code -/
  thermal : Nat
  deriving DecidableEq, Repr

/-- A tier clock at its fastest step. -/
def TierClk.empty : TierClk :=
  { cur := 0, floorAge := 0, floorBypass := 0, target := none, toBypass := false, stopped := false, phase := 0, cycles := 0,
    gated := [], thermal := 0 }

/-- The CLK block (R313 to R325, R329). -/
structure Clk where
  refA : RefIn
  refB : RefIn
  active : Ref
  rootReleased : Bool
  rootLocked : Bool
  triedOther : Bool
  holdover : Bool
  switchTo : Option Ref
  switchResult : Status
  timebaseLocked : Bool
  autoFailover : Bool
  stepCap : BitVec 24
  tiers : SMap TierClk
  steps : BitVec 48
  deferred : Nat
  deriving DecidableEq, Repr

/-- The TIME block and the exchange with the master (R310, R311, R326, R329). -/
structure Time where
  now : W64
  held : Bool
  tierSync : Byte
  missed : Nat
  missRun : SMap Nat
  slew : BitVec 18
  adjIgnored : Bool
  offset : Int
  timeSync : Bool
  synced : Bool
  failRun : Nat
  sentT1 : Option W64
  /-- accumulated parts per 10^9 of the slew -/
  slewAcc : Int
  /-- nanoseconds that a follower has yet to gain or lose by steering (R310, R311) -/
  owe : Int
  deriving DecidableEq, Repr

/-- Quadrant power states (R338). -/
inductive QState where
  | off | admitting | powering (stage : Nat) | on
  deriving DecidableEq, Repr

/-- An admission request (R339, R340). -/
structure Admit where
  kind : AdmitKind
  /-- quadrant, or core of the region -/
  target : Nat
  /-- 0 waiting, 1 damping -/
  phase : Nat
  waited : Bool
  /-- the limit fell during POWERING: 40 A is needed again (R339) -/
  again : Bool
  bubbles : Nat
  deriving DecidableEq, Repr

/-- A tier's regulator groups and power regions (R332 to R342, R351). -/
structure TierPwr where
  badVct : List Nat
  badVdl : List Nat
  badVda : List Nat
  bypass : Bool
  failed : Bool
  /-- thermal current limit, A -/
  thermalLim : Nat
  amps : Nat
  bubbles : Nat
  setpoint : Nat
  quads : SMap QState
  droopTrips : BitVec 16
  stretch : Nat
  queue : List Admit
  deriving DecidableEq, Repr

/-- A tier before its rails come up (R409). -/
def TierPwr.empty : TierPwr :=
  { badVct := [], badVdl := [], badVda := [], bypass := false, failed := false, thermalLim := 480, amps := 0, bubbles := 0,
    setpoint := 0, quads := [], droopTrips := 0, stretch := 0, queue := [] }

/-- A job's budget table at its tray master, by slot (R348). -/
structure JobBal where
  job : W32
  trayBudget : Nat
  budgets : SMap Nat
  reports : SMap Slack
  missing : SMap Nat
  deriving DecidableEq, Repr

/-- The PWR block (R331 to R352). -/
structure Pwr where
  tiers : SMap TierPwr
  vbypOk : Bool
  /-- VBYP has left its range since power rose: it counts as lost until the next cold start (R331, R436) -/
  vbypLost : Bool
  vinLow : Bool
  balanced : Bool
  dramRailFailed : Bool
  devCap : Nat
  budget : Nat
  p1us : Nat
  p1ms : Nat
  p10ms : Nat
  vinMv : Nat
  gain : Nat
  droopMv : Nat
  deepMv : Nat
  /-- the droop thresholds in force in the present 1 µs period (R352) -/
  droopNow : Nat
  deepNow : Nat
  admitted : BitVec 16
  waited : BitVec 16
  damped : BitVec 16
  denied : BitVec 16
  /-- integrals of the cap loop by which targets lie below their caps, W: device, and partitions by ID -/
  devInt : Nat
  partInt : SMap Nat
  coreBubbles : SMap Nat
  /-- estimates of the cores with their home regions in the last 1 µs period, mW before the scaling of R343 -/
  coreMw : SMap Nat
  /-- by partition: its estimates summed over the periods of the present ms, and the number of periods -/
  estSum : SMap Nat
  estN : Nat
  /-- the scale of the estimates, as a fraction (R343) -/
  scale : Nat × Nat
  /-- by tier: bubble counts summed in the present ms and their number, and the same of the last 64 ms, newest first -/
  bubbleSum : SMap (Nat × Nat)
  bubbleMs : SMap (List (Nat × Nat))
  jobs : List JobBal
  /-- jobs that ran here at the last slack report (R349) -/
  jobsRun : List W32
  period : W32
  deriving DecidableEq, Repr

/-- A layer's temperatures (R356 to R361), 0.1 °C by zone. -/
structure Layer where
  sensor : SMap Int
  estimate : SMap Int
  forecast : SMap Int
  suspect : Bool
  /-- consecutive model runs: by zone with a gap above 6 K; with every gap within 3 K; by zone with a control temperature at
  throttle; by zone at 105 °C; with every forecast below throttle − 5 K -/
  gapHi : SMap Nat
  gapLo : Nat
  hot : SMap Nat
  overTemp : SMap Nat
  cool : Nat
  /-- least control temperature taken from the error rate (R362) -/
  proxy : Option Int
  deriving DecidableEq, Repr

/-- A layer never read. -/
def Layer.empty : Layer :=
  { sensor := [], estimate := [], forecast := [], suspect := false, gapHi := [], gapLo := 0, hot := [], overTemp := [], cool := 0,
    proxy := none }

/-- A tier's ageing results (R365 to R367). -/
structure Ageing where
  /-- guard band by step at the last measurement, behind the refit, 0.1 % -/
  guards : SMap Nat
  raise : SMap Nat
  floor : Nat
  hours : BitVec 16
  lost : Bool
  deriving DecidableEq, Repr

/-- No measurement yet. -/
def Ageing.empty : Ageing := ⟨[], [], 0, 0, false⟩

/-- The THM block (R353 to R368). -/
structure Thm where
  report : BitVec 48
  reportSeq : Byte
  lastSeq : Option Byte
  coolantValid : Bool
  coolantRange : Bool
  inExcursion : Bool
  heatMismatch : Bool
  mismatchRun : Nat
  thermtrip : Bool
  heatW : Int
  elecW : Nat
  /-- time at which the last report was accepted (R354) -/
  acceptedAt : Option W64
  /-- the record of R354 has been written since the last accepted report -/
  coolantLost : Bool
  computeThrottle : Nat
  dramThrottle : Nat
  layers : SMap Layer
  /-- sensors excluded by the cross-check of the start, by number (R410) -/
  badSensors : List Nat
  ageing : SMap Ageing
  /-- by tier: MEM_CE_LAYERt at the last 1 s window, and the counts of the windows of the last 24 h in which the layer was
  not suspect, newest first (R362) -/
  ceLast : SMap (BitVec 48)
  ceHist : SMap (List Nat)
  poweredHours : Nat
  modelRuns : Nat
  /-- percent by which the hearth's temperature lowers the device budget (R359) -/
  hearthCut : Nat
  deriving DecidableEq, Repr

-- Checking, memory control, start-up, trust, links

/-- An open merge window of CORRECTED events (R378): the key, the number of further events, the last record body. -/
structure MergeWin where
  unit : W32
  status : Byte
  detail : BitVec 16
  count : Nat
  last : Line
  deriving DecidableEq, Repr

/-- A core on the quarantine list (R388, R389). -/
structure Quar where
  core : Nat
  /-- quarantined for a router fault (R143) -/
  router : Bool
  deriving DecidableEq, Repr

/-- What the device keeps in flash besides the licences (R381, R402): signatures, the quarantine list, the repair log, powered hours and
the ageing results. -/
structure FlashLog where
  sigs : List (List Byte)
  quar : List Quar
  faultyLines : List (Nat × Nat × Nat)
  disabledLog : List (Nat × Nat)
  poweredHours : Nat
  ageing : SMap Ageing
  deriving DecidableEq, Repr
/-- Nothing written yet. -/
def FlashLog.empty : FlashLog := ⟨[], [], [], [], 0, []⟩

/-- The RAS block and the record buffers (R369 to R400). -/
structure Ras where
  buf : List Line
  /-- LOG_SEQ of the first record not yet written to the host ring -/
  nextOut : Nat
  /-- records written since cold start; LOG_SEQ of the next one modulo 2^32 -/
  nextSeq : Nat
  lost : Nat
  logBase : W64
  logLog2 : Nat
  eventClass : Nat
  logEnable : Bool
  sigBase : W64
  sigLog2 : Nat
  sigEnable : Bool
  sigCount : Nat
  sigs : List (List Byte)
  /-- records whose signature is due at the next start (R381) -/
  sigDue : List Line
  windows : List MergeWin
  heldEvents : List (BitVec 256)
  quar : List Quar
  /-- repair log: faulty chimney lines by core, group and line; disabled groups by core and group (R183) -/
  faultyLines : List (Nat × Nat × Nat)
  disabledLog : List (Nat × Nat)
  /-- time of the last router parity fault and of the last SRAM bank UNCORRECTABLE, by core and by core·32 + bank -/
  parityAt : SMap W64
  bankAt : SMap W64
  /-- cores to quarantine at the next plan-load check (R388) -/
  bankQuar : List Nat
  flashPending : Bool
  /-- what flash holds while a write of it has failed: the values before the change that could not be written (R427) -/
  stored : FlashLog
  /-- fold input, unit and time of the recent PARTITION_FATAL records (R384) -/
  folds : List (Nat × W32 × W64)
  /-- routers to be reset once the partitions that a fault of theirs stopped are quiesced or reset (R159) -/
  routerDue : List (Nat × List Nat)
  deriving DecidableEq, Repr

/-- Weevil (R385 to R387). -/
structure Weevil where
  enable : Bool
  core : Nat
  slice : Nat
  running : Bool
  skipped : Nat
  skippedLap : Nat
  visitStart : W64
  lapStart : W64
  lapS : Nat
  /-- start of the last IDLE slot of the visited core in which a slice has run -/
  slot : Option (BitVec 48)
  deriving DecidableEq, Repr

/-- Marks of stored SRAM words that their code would correct, or could not (R84). -/
inductive WordErr where
  | corrected
  | uncorrectable
  deriving DecidableEq, Repr

/-- Stored-data errors by word number (DPA ÷ 8 in SRAM, DPA ÷ 64 in DRAM), and the page code's state by page number
(core · 49,152 + page; R166, R167, R172). -/
structure Errs where
  sram : SMap WordErr
  /-- stored bits of a DRAM word that are in error: bits 0–511 its data, bits 512–527 its check field (R162, R165) -/
  dram : SMap (BitVec 528)
  /-- pages whose PAGE_CODE_STALE bit is set -/
  stale : List Nat
  /-- the two syndromes of every byte column of a page whose stored words and parity words do not form codewords, by page number:
  the stored parity words are those of the stored data moved by these (R166; log entry 12) -/
  synd : SMap (Line × Line)
  deriving DecidableEq, Repr

/-- The MEM block (R173, R174, R189 to R194). -/
structure MemCtl where
  selftestDone : Bool
  selftestPass : Bool
  fillDone : Bool
  scrubAlarm : Bool
  alarmS : Nat
  dramLapMs : Nat
  sramLapMs : Nat
  laps : BitVec 16
  /-- refresh interval code per tier without the halving of a suspect layer -/
  interval : SMap Nat
  failUnit : W32
  failKind : Nat
  failValid : Bool
  ce : SMap (BitVec 48)
  ue : BitVec 48
  /-- tiers whose DRAM rails have been opened since the last fill: their words cannot be read (R337, R360) -/
  lost : List Nat
  /-- end of the fill, from which the first scrub laps count -/
  fillTime : W64
  deriving DecidableEq, Repr

/-- Fuses (R16, R67, R68, R403, R414, R419, R333). -/
structure Fuses where
  grade : Grade
  /-- failed physical column + 1, by 16·tier + row -/
  failedCol : SMap Nat
  /-- failed physical brick column + 1, by 4·core + array -/
  brickCol : SMap Nat
  /-- physical arrays with two or more failed brick columns, by core (R68) -/
  arrayBad : SMap (BitVec 4)
  svn : Nat
  /-- SHA-384 of the vendor key of each slot -/
  slotHash : SMap (List Byte)
  slotUsage : SMap (BitVec 3)
  revoked : BitVec 4
  /-- the identity key, wrapped (R419) -/
  wrappedKey : List Byte
  certificate : List Byte
  /-- ratio of each core's ring oscillators at manufacture, in parts per million (R365, R366) -/
  ringRatio : SMap Nat
  /-- set-point by 5·tier + step, mV -/
  vf : SMap Nat
  chimLines : List (Nat × Nat × Nat)
  deriving DecidableEq, Repr

/-- What fuse repair has taken out of service and holds until power is removed (R17, R68). -/
structure Repair where
  /-- physical column + 1 of the site held without power and clock, by 16·tier + row: the failed one, or the unused spare -/
  site : SMap Nat
  /-- physical arrays held without clock, by core -/
  arrays : SMap (BitVec 4)
  deriving DecidableEq, Repr

/-- Straps (R432). -/
structure Straps where
  refSettle : BitVec 3
  refSel : Bool
  bootSrc : BitVec 2
  traySlot : BitVec 3
  deriving DecidableEq, Repr

/-- An image's entry in the running manifest (R405). -/
structure Image where
  kind : Nat
  offset : Nat
  length : Nat
  crc : W32
  hash : List Byte
  deriving DecidableEq, Repr

/-- The running manifest (R404). -/
structure Manifest where
  bundleVer : Nat
  svn : Nat
  advance : Bool
  revoke : BitVec 4
  keySlot : Nat
  signer : List Byte
  entries : List Image
  hash : List Byte
  deriving DecidableEq, Repr

/-- The BOOT block and the start (R401 to R418, R425). -/
structure Boot where
  stage : Nat
  cause : Nat
  fault : Bool
  bank : Bool
  fallback : Bool
  mbox : Bool
  failUnit : W32
  cold : Bool
  waiting : Bool
  ack : Bool
  result : Status
  received : Nat
  mboxLen : BitVec 16
  mboxSeq : BitVec 16
  nextChunk : Nat
  bundle : List Byte
  window : Mem
  manifest : Option Manifest
  /-- eight measurements (R420) -/
  measures : SMap (List Byte)
  boardBad : Bool
  tiersUp : List Nat
  /-- stage at which a bank failed, to which the start returns with the other bank (R406) -/
  resume : Nat
  /-- microcode stands in every unit; the wait for port training has ended (R409) -/
  ucode : Bool
  /-- microcode that a core's sequencer and its region controller hold: the hash of its image, by core (R413, R417) -/
  seqCode : SMap (List Byte)
  regionCode : SMap (List Byte)
  trainEnd : Bool
  deriving DecidableEq, Repr

/-- The SEC block (R419 to R426). -/
structure Sec where
  /-- the unwrapped identity key in the security engine (R419, R423) -/
  key : Option Nat
  /-- scan chains and debug access are open (R423, R439) -/
  scanOpen : Bool
  features : BitVec 3
  cleared : Bool
  identityOk : Bool
  debugUnlocked : Bool
  dbgLocked : Bool
  dbgFails : Nat
  challenge : List Byte
  reports : Nat
  licences : List (List Byte)
  badLicences : Nat
  deriving DecidableEq, Repr

/-- Port states by the code of R300. -/
inductive PortState where
  | down | detect | eq | align | up | unlicensed | miswired | heldDown
  deriving DecidableEq, Repr

/-- A flit in a replay buffer (R289, R291). -/
structure Flit where
  header : W64
  payload : BitVec 2048
  deriving DecidableEq, Repr

/-- A Muold port (R286 to R302). -/
structure Port where
  state : PortState
  /-- R300 code: 0 none, 1, 2, 3 for ×1, ×2, ×4 -/
  width : Nat
  lr : Bool
  lanesGood : BitVec 4
  lanesSeen : BitVec 4
  lanesFine : BitVec 4
  /-- lanes excluded by loop-back (R410) -/
  lanesBad : BitVec 4
  peer : Option Ident
  changes : BitVec 16
  fecCorrected : Nat
  retries : Nat
  retrains : Nat
  /-- board setting (R294, R408): 0 AUTO, 1 SR, 2 LR, 3 OFF -/
  setting : Nat
  reverse : Bool
  /-- replay buffer, oldest first -/
  replay : List Flit
  /-- control flits waiting to be sent: virtual channel and payload -/
  ctl : List (Nat × BitVec 2048)
  /-- stream served last on DATA and on COLL (R138, R292) -/
  turnData : Nat
  turnColl : Nat
  nextSeq : Byte
  /-- SEQ of the last flit received in order -/
  lastSeq : Byte
  nakSent : Bool
  /-- the NAK of the present error episode has not left yet (R291) -/
  nakDue : Bool
  nakRun : Nat
  /-- the training in progress is a retrain in service (R302) -/
  retraining : Bool
  /-- times of the last departures from UP -/
  departures : List W64
  trained : Bool
  /-- flits that the sending side may still send, and flits of receive buffer freed and not yet returned, by virtual channel
  (R292) -/
  credits : SMap Nat
  freed : SMap Nat
  deriving DecidableEq, Repr

/-- A port never trained. -/
def Port.empty : Port :=
  { state := .down, width := 0, lr := false, lanesGood := 0, lanesSeen := 0, lanesFine := 0, lanesBad := 0, peer := none,
    changes := 0, fecCorrected := 0, retries := 0, retrains := 0, setting := 0, reverse := false, replay := [], ctl := [], turnData := 11, turnColl := 15,
    nextSeq := 0, lastSeq := 0xFF#8, nakSent := false, nakDue := false, nakRun := 0, retraining := false, departures := [], trained := false, credits := [],
    freed := [] }

/-- The LNK block (R297 to R306). -/
structure Lnk where
  ports : SMap Port
  invGen : BitVec 16
  retrainRefused : Bool
  tray : BitVec 9
  lock : Bool
  nTrays : Nat
  /-- ports 22 to 24 UP at each device of the tray, by slot (R306) -/
  tree : SMap (BitVec 3)
  deriving DecidableEq, Repr

/-- What drives the 1.8 V lands (R439): the device, the values preloaded into the boundary register, or nothing. -/
inductive LandDrive where
  | device
  | preload (v : BitVec 27)
  | released
  deriving DecidableEq, Repr

/-- The test access port (R439). -/
structure Tap where
  drive : LandDrive
  ir : Byte
  /-- bits last placed on the data register for TDO, lowest first out -/
  tdo : List Byte
  /-- boundary register: captured and preloaded values -/
  boundary : BitVec 27
  preload : BitVec 27
  deriving DecidableEq, Repr

-- Cache and batch former

/-- A cache context (R225). -/
structure Ctx where
  part : Nat
  layers : Nat
  budget : Nat
  initScore : W32
  shards : Nat
  shard : Nat
  mirrorOff : Nat
  deriving DecidableEq, Repr

/-- A registered sequence (R246, R247, R279). -/
structure KvSeq where
  ctx : Nat
  length : Nat
  /-- tokens processed by finished batches -/
  done : Nat
  paused : Bool
  formed : Bool
  /-- order of waiting: lower has waited longer -/
  since : Nat
  /-- a PAUSE or REMOVE waiting for the batch to finish, with its channel -/
  wantPause : Option Nat
  wantRemove : Option Nat
  deriving DecidableEq, Repr

/-- An opening the batch former has yet to serve (R236). -/
structure Opening where
  core : Nat
  index : Nat
  ctx : Nat
  layer : Nat
  deriving DecidableEq, Repr

/-- The cache (R225, R236, R247). -/
structure Kv where
  ctxs : SMap Ctx
  seqs : List KvSeq
  openings : List Opening
  clock : Nat
  deriving DecidableEq, Repr

/-- Answers to outside parties that the spec gives no register for (outputs). -/
structure Out where
  /-- last BAR2 read: data, or none for Unsupported Request -/
  bar2 : Option (List Byte)
  bar2Fail : Option Status
  /-- last window line read by a consuming read -/
  win : List Line
  /-- outcome of the last request to switch a power region off (R157, R338) -/
  regionOff : Option Status
  deriving DecidableEq, Repr

/-- Device-level state (R33, R397, R449, R450). -/
structure Dev where
  state : DevState
  ready : Bool
  scratch : W64
  resetCause : Nat
  fromSafe : Bool
  warmResets : BitVec 16
  resetTime : W64
  qAtLoad : Nat
  /-- the watchdog has stopped the firmware, which no longer writes records (R395, R410) -/
  fwDead : Bool
  /-- a warm reset has been requested and not yet begun (R277) -/
  resetWanted : Option WarmCause
  deriving DecidableEq, Repr

/-- Lands (R431, R436). -/
structure Pins where
  pwrOk : Bool
  /-- PERST# asserted -/
  perst : Bool
  /-- FAULT# asserted -/
  fault : Bool
  /-- OFF until PWR_OK falls and rises (R436) -/
  offHold : Bool
  deriving DecidableEq, Repr

/-- The whole device. -/
structure State where
  pending : List Instr
  /-- counter of the free values drawn so far (the model's own) -/
  free : Nat
  mem : Mem
  hostMem : Mem
  flash : Mem
  err : Errs
  fuse : Fuses
  repair : Repair
  strap : Straps
  land : Straps
  pins : Pins
  dev : Dev
  boot : Boot
  hst : Hst
  clk : Clk
  time : Time
  pwr : Pwr
  thm : Thm
  ras : Ras
  sec : Sec
  lnk : Lnk
  memc : MemCtl
  weevil : Weevil
  tap : Tap
  core : SMap Core
  stream : SMap Stream
  /-- LINK_CORRECTED by 6·core + port (R139) -/
  linkCorr : SMap (BitVec 48)
  /-- the stream to serve next on each output port, by 6·core + port (R138) -/
  turn : SMap Nat
  routes : List Route
  region : SMap Region
  chim : SMap Chimney
  part : SMap Partition
  bars : List Barrier
  snaps : List Snapshot
  kv : Kv
  out : Out
  deriving DecidableEq, Repr

/-- A reference input never seen. -/
def RefIn.empty : RefIn := ⟨false, false, 0⟩

/-- The machine right after reset: the state RESET_HOLD (R397, R424) with every register at the reset value of its table,
and every register without one at the value that log entries 1, 2, 5, 6, 7 and 75 name. -/
def State.reset : State where
  pending := []
  free := 0
  mem := []
  hostMem := []
  flash := []
  err := { sram := [], dram := [], stale := [], synd := [] }
  fuse :=
    { grade := .a4, failedCol := [], brickCol := [], arrayBad := [], svn := 0, slotHash := [], slotUsage := [], revoked := 0,
      wrappedKey := [], certificate := [], ringRatio := [], vf := [], chimLines := [] }
  repair := { site := [], arrays := [] }
  strap := { refSettle := 0, refSel := false, bootSrc := 0, traySlot := 0 }
  land := { refSettle := 0, refSel := false, bootSrc := 0, traySlot := 0 }
  pins := { pwrOk := true, perst := false, fault := false, offHold := false }
  dev :=
    { state := .resetHold, ready := false, scratch := 0, resetCause := 0, fromSafe := false, warmResets := 0, resetTime := 0,
      qAtLoad := 0, fwDead := false, resetWanted := none }
  boot :=
    { stage := 0, cause := 0, fault := false, bank := false, fallback := false, mbox := false, failUnit := 0, cold := true,
      waiting := false, ack := false, result := .ok, received := 0, mboxLen := 0, mboxSeq := 0, nextChunk := 0, bundle := [],
      window := [], manifest := none, measures := [], boardBad := false, tiersUp := [],
      resume := 0, ucode := false, seqCode := [], regionCode := [], trainEnd := false }
  hst :=
    { scanEn := false, scanning := false, scanResult := .ok, ignored := 0, dbBase := 0, dbPoll := 0x1F4, ch0Sq := 0, ch0Cq := 0,
      ch0Cfg := 0x0606, linkUp := false, linkRate := 0, linkWidth := 0, busMaster := false, atomicEn := false,
      maxPayload := 0, maxRead := 2, bar2Log2 := 39, d3hot := false, aer := Aer.fresh, msixEn := false, msixMask := false, msix := [], pendingIrq := [], chans := [], held := [], heldIrq := [], irqs := [], late := [] }
  clk :=
    { refA := RefIn.empty, refB := RefIn.empty, active := .a, rootReleased := false, rootLocked := false, triedOther := false,
      holdover := false, switchTo := none, switchResult := .ok, timebaseLocked := false, autoFailover := true, stepCap := 0,
      tiers := [], steps := 0, deferred := 0 }
  time :=
    { now := 0, held := false, tierSync := 0, missed := 0, missRun := [], slew := 0, adjIgnored := false, offset := 0,
      timeSync := false, synced := false, failRun := 0, sentT1 := none, slewAcc := 0, owe := 0 }
  pwr :=
    { tiers := [], vbypOk := false, vbypLost := false, vinLow := false, balanced := false, dramRailFailed := false, devCap := 0xCE4, budget := 0xCE4,
      p1us := 0, p1ms := 0, p10ms := 0, vinMv := 0, gain := 0x40, droopMv := 0x2D, deepMv := 0x41, droopNow := 0x2D, deepNow := 0x41, admitted := 0, waited := 0,
      damped := 0, denied := 0, devInt := 0, partInt := [], coreBubbles := [], coreMw := [], estSum := [], estN := 0, scale := (1, 1), bubbleSum := [], bubbleMs := [], jobs := [], jobsRun := [], period := 0 }
  thm :=
    { badSensors := [], report := 0, reportSeq := 0, lastSeq := none, coolantValid := false, coolantRange := false, inExcursion := false,
      heatMismatch := false, mismatchRun := 0, thermtrip := false, heatW := 0, elecW := 0, acceptedAt := none, coolantLost := false,
      computeThrottle := 0x64,
      dramThrottle := 0x5F, layers := [], ageing := [], ceLast := [], ceHist := [],
      poweredHours := 0, modelRuns := 0, hearthCut := 0 }
  ras :=
    { buf := [], nextOut := 0, nextSeq := 0, lost := 0, logBase := 0, logLog2 := 0x0C, eventClass := 1, logEnable := false,
      sigBase := 0, sigLog2 := 8, sigEnable := false, sigCount := 0, sigs := [], sigDue := [], windows := [], heldEvents := [], quar := [],
      faultyLines := [], disabledLog := [], parityAt := [], bankAt := [], bankQuar := [], flashPending := false, stored := FlashLog.empty, folds := [], routerDue := [] }
  sec :=
    { key := none, scanOpen := false, features := 0, cleared := false, identityOk := false, debugUnlocked := false, dbgLocked := false, dbgFails := 0,
      challenge := [], reports := 0, licences := [], badLicences := 0 }
  lnk :=
    { ports := [], invGen := 0, retrainRefused := false, tray := 0, lock := false, nTrays := 1, tree := [] }
  memc :=
    { selftestDone := false, selftestPass := false, fillDone := false, scrubAlarm := false, alarmS := 0x258, dramLapMs := 0,
      sramLapMs := 0, laps := 0, interval := [], failUnit := 0, failKind := 0, failValid := false, ce := [], ue := 0, lost := [], fillTime := 0 }
  weevil :=
    { enable := true, core := 0, slice := 0, running := false, skipped := 0, skippedLap := 0, visitStart := 0, lapStart := 0,
      lapS := 0, slot := none }
  tap := { drive := .device, ir := 0, tdo := [], boundary := 0, preload := 0 }
  core := []
  stream := []
  linkCorr := []
  turn := []
  routes := []
  region := []
  chim := []
  part := []
  bars := []
  snaps := []
  kv := { ctxs := [], seqs := [], openings := [], clock := 0 }
  out := { bar2 := none, bar2Fail := none, win := [], regionOff := none }

/-- Why a step stops the machine. -/
inductive Fault where
  /-- Raised by a command whose payload has not the length its kind has (a BAR2 write of no bytes or of more than a PCIe
  payload, a debug response not of 104 bytes, a sample without one reading per zone). Safe: the device never sees such
  an event. -/
  | malformedCommand
  deriving DecidableEq, Repr

/-- Why a step has no meaning. -/
inductive Refusal where
  /-- Raised by a Dispatch arm whose command has no meaning in the model. Safe: it stops. -/
  | notModelled (mnemonic : String)
  deriving DecidableEq, Repr

/-- Outcome of a meaning. -/
abbrev Res := Host.Outcome State Fault Refusal

end Sys2Proof.Machine
end

