-- ==== Sys2Proof/Machine/Ops.lean ====
section
/-! DEFINITION. The operations that every command shares: sparse tables, memory in its canonical form, places of units and
addresses, accessors of the state's tables, and saturating counters. -/

namespace Sys2Proof.Machine

-- Sparse tables: keys rising, no entry equal to the default.

/-- The entry of a key, if listed. -/
def mget? {α : Type} : SMap α → Nat → Option α
  | [], _ => none
  | (a, v) :: t, k => if a = k then some v else mget? t k
/-- The entry of a key, or the default. -/
def mget {α : Type} (m : SMap α) (k : Nat) (d : α) : α := (mget? m k).getD d
/-- Lists an entry in its place. -/
def mput {α : Type} : SMap α → Nat → α → SMap α
  | [], k, v => [(k, v)]
  | (a, w) :: t, k, v => if k < a then (k, v) :: (a, w) :: t else if k = a then (k, v) :: t else (a, w) :: mput t k v
/-- Removes an entry. -/
def mdel {α : Type} : SMap α → Nat → SMap α
  | [], _ => []
  | (a, w) :: t, k => if a = k then mdel t k else (a, w) :: mdel t k
/-- Writes an entry; writing the default removes it. -/
def mset {α : Type} [DecidableEq α] (m : SMap α) (k : Nat) (v d : α) : SMap α := if v = d then mdel m k else mput m k v
/-- Changes an entry. -/
def mmod {α : Type} [DecidableEq α] (m : SMap α) (k : Nat) (d : α) (f : α → α) : SMap α := mset m k (f (mget m k d)) d

/-- Changes every listed entry; one that becomes the default is removed. -/
def mall {α : Type} [DecidableEq α] (m : SMap α) (d : α) (f : α → α) : SMap α :=
  m.filterMap fun e => if f e.2 = d then none else some (e.1, f e.2)

/-- Keys strictly rising from a lower bound. -/
def risingFrom {α : Type} : Nat → SMap α → Bool
  | _, [] => true
  | lo, (a, _) :: t => decide (lo ≤ a) && risingFrom (a + 1) t
/-- The canonical form of a table with a default. -/
def SMap.wf {α : Type} [DecidableEq α] (m : SMap α) (d : α) : Bool := risingFrom 0 m && m.all fun e => decide (e.2 ≠ d)

-- Memory (R24 to R28): an unlisted byte reads 0 (R187; before the fill, log entry 7).

/-- The canonical form of a memory: addresses strictly rising, no byte that is 0. -/
def Mem.wf (m : Mem) : Bool := SMap.wf (α := Byte) m 0#8
/-- Reads one byte. -/
def rdByte (m : Mem) (a : Nat) : Byte := mget m a 0#8
/-- Writes one byte. -/
def wrByte (m : Mem) (a : Nat) (b : Byte) : Mem := mset m a b 0#8
/-- Reads n bytes. -/
def rdBytes (m : Mem) (a : Nat) : Nat → List Byte
  | 0 => []
  | n + 1 => rdByte m a :: rdBytes m (a + 1) n
/-- Writes bytes at rising addresses. -/
def wrBytes (m : Mem) (a : Nat) : List Byte → Mem
  | [] => m
  | b :: bs => wrBytes (wrByte m a b) (a + 1) bs
/-- Reads a little-endian number of n bytes. -/
def rdNat (m : Mem) (a n : Nat) : Nat := leNat (rdByte m) a n
/-- Writes a little-endian number of n bytes. -/
def wrNat (m : Mem) (a n v : Nat) : Mem := wrBytes m a (leBytes v n)
/-- Reads a 64-byte line. -/
def rdLine (m : Mem) (a : Nat) : Line := BitVec.ofNat 512 (rdNat m a 64)
/-- Writes a 64-byte line. -/
def wrLine (m : Mem) (a : Nat) (l : Line) : Mem := wrNat m a 64 l.toNat
/-- Clears every byte of a range. -/
def clearMem (m : Mem) (lo n : Nat) : Mem := m.filter fun c => !(decide (lo ≤ c.1) && decide (c.1 < lo + n))
/-- The listed bytes of a range. -/
def sliceMem (m : Mem) (lo n : Nat) : Mem := m.filter fun c => decide (lo ≤ c.1) && decide (c.1 < lo + n)
/-- Copies the listed bytes of a range to another place. -/
def copyMem (m : Mem) (src dst n : Nat) : Mem :=
  (sliceMem m src n).foldl (fun a e => wrByte a (e.1 - src + dst) e.2) (clearMem m dst n)
/-- Bytes cut into lines of 64, the last filled with zeros. -/
def linesOf : Nat → List Byte → List Line
  | 0, _ => []
  | n + 1, bs => lineOfBytes (bs.take 64) :: linesOf n (bs.drop 64)
/-- Writes lines at rising addresses. -/
def wrLines (m : Mem) (a : Nat) : List Line → Mem
  | [] => m
  | l :: ls => wrLines (wrLine m a l) (a + 64) ls
/-- Reads n lines. -/
def rdLines (m : Mem) (a : Nat) : Nat → List Line
  | 0 => []
  | n + 1 => rdLine m a :: rdLines m (a + 64) n

-- Counters

/-- Adds to a saturating counter of n bits held as a number. -/
def satAdd (n x k : Nat) : Nat := min (2 ^ n - 1) (x + k)
/-- n distinct naturals from a start. -/
def natsFrom (a : Nat) : Nat → List Nat
  | 0 => []
  | n + 1 => a :: natsFrom (a + 1) n
/-- Adds to a list without repeating. -/
def addOnce {α : Type} [DecidableEq α] (l : List α) (x : α) : List α := if x ∈ l then l else l ++ [x]
/-- Inserts into a rising list without repeating. -/
def insertNat (x : Nat) : List Nat → List Nat
  | [] => [x]
  | y :: t => if x < y then x :: y :: t else if x = y then y :: t else y :: insertNat x t

-- Times, ns
/-- One second. -/
def oneS : Nat := 1000000000
/-- Twenty-four hours. -/
def dayNs : Nat := 86400 * oneS
/-- a is at most n ns before the present time of the state. -/
def State.nowNat (s : State) : Nat := s.time.now.toNat
/-- The time t lies within the last n ns. -/
def State.within (s : State) (t : W64) (n : Nat) : Bool := decide (s.nowNat ≤ t.toNat + n)

/-- A tier's copy of global time: within 3 ns of the hearth counter, or 60 ns during a switch or holdover, while the tier
follows the pulse; otherwise on its own rate word (R326). -/
def State.tierTime (s : State) (t : Nat) : W64 :=
  let raw := Config.tierCopy t s.time.now
  if bit s.time.tierSync t then
    let b := if s.clk.holdover || s.clk.switchTo.isSome then 60 else 3
    BitVec.ofNat 64 (s.nowNat + raw % (2 * b + 1) - b)
  else BitVec.ofNat 64 raw

-- Places (R6, R18 to R22)

/-- Tier of a core ID (R19). -/
def tierOf (c : Nat) : Nat := c / 256
/-- Row of a core ID. -/
def rowOf (c : Nat) : Nat := c / 16 % 16
/-- Column of a core ID. -/
def colOf (c : Nat) : Nat := c % 16
/-- Core ID of a place. -/
def coreIdOf (t y x : Nat) : Nat := 256 * t + 16 * y + x
/-- Quadrant (R18). -/
def quadOf (c : Nat) : Nat := 2 * (rowOf c / 8) + colOf c / 8
/-- Sensor zone (R356). -/
def zoneOf (c : Nat) : Nat := 4 * (rowOf c / 4) + colOf c / 4

/-- A unit address (R20) with the device's own TRAY and SLOT. -/
def unitAddr (s : State) (t y x sub : Nat) : W32 :=
  BitVec.ofNat 32 (s.lnk.tray.toNat * 2 ^ 23 + s.strap.traySlot.toNat * 2 ^ 20 + t * 2 ^ 17 + y * 2 ^ 13 + x * 2 ^ 9 + sub)
/-- Sub-unit of a core (R21). -/
def coreUnit (s : State) (c sub : Nat) : W32 := unitAddr s (tierOf c) (rowOf c) (colOf c) sub
/-- Hearth unit (R22). -/
def hearthUnit (s : State) (sub : Nat) : W32 := unitAddr s 7 15 15 sub
/-- Tier controller (R21). -/
def tierUnit (s : State) (t : Nat) : W32 := unitAddr s t 0 0 128
/-- The unit address of no unit in completion details (R271). -/
def noUnit : W32 := 0xFFFFFFFF#32

/-- DPA of a slot offset of a core's DRAM slot (R24). -/
def dramDpa (c off : Nat) : Nat := c * 2 ^ 27 + off
/-- DPA of a slot offset of a core's SRAM slot (R24). -/
def sramDpa (c off : Nat) : Nat := 0x4000000000 + c * 2 ^ 22 + off
/-- Populated bytes of a core's SRAM (R28). -/
def sramBytes : Nat := 0x300000
/-- Data bytes of a home region (R25). -/
def dramBytes : Nat := 0x6000000
/-- SRAM lines of a core (R102). -/
def sramLines : Nat := 49152
/-- Bank of a home-region offset (R26). -/
def bankOf (off : Nat) : Nat := off / 2048 % 16
/-- Page of a home-region offset. -/
def pageOf (off : Nat) : Nat := off / 2048

-- Tables of the state

/-- A core. -/
def State.coreAt (s : State) (c : Nat) : Core := mget s.core c Core.empty
/-- Replaces a core. -/
def State.setCore (s : State) (c : Nat) (v : Core) : State := { s with core := mset s.core c v Core.empty }
/-- Changes a core. -/
def State.modCore (s : State) (c : Nat) (f : Core → Core) : State := s.setCore c (f (s.coreAt c))
/-- Key of a stream. -/
def streamKey (c port st : Nat) : Nat := c * 96 + port * 16 + st
/-- A stream. -/
def State.streamAt (s : State) (k : Nat) : Stream := mget s.stream k Stream.empty
/-- Replaces a stream. -/
def State.setStream (s : State) (k : Nat) (v : Stream) : State := { s with stream := mset s.stream k v Stream.empty }
/-- Changes a stream. -/
def State.modStream (s : State) (k : Nat) (f : Stream → Stream) : State := s.setStream k (f (s.streamAt k))
/-- A home region. -/
def State.regionAt (s : State) (c : Nat) : Region := mget s.region c Region.empty
/-- Replaces a home region. -/
def State.setRegion (s : State) (c : Nat) (v : Region) : State := { s with region := mset s.region c v Region.empty }
/-- Changes a home region. -/
def State.modRegion (s : State) (c : Nat) (f : Region → Region) : State := s.setRegion c (f (s.regionAt c))
/-- An NBU. -/
def State.nbuAt (s : State) (c n : Nat) : Nbu := mget (s.regionAt c).nbus n Nbu.empty
/-- Replaces an NBU. -/
def State.setNbu (s : State) (c n : Nat) (v : Nbu) : State :=
  s.modRegion c fun r => { r with nbus := mset r.nbus n v Nbu.empty }
/-- Changes an NBU. -/
def State.modNbu (s : State) (c n : Nat) (f : Nbu → Nbu) : State := s.setNbu c n (f (s.nbuAt c n))
/-- A chimney. -/
def State.chimAt (s : State) (c : Nat) : Chimney := mget s.chim c Chimney.empty
/-- Replaces a chimney. -/
def State.setChim (s : State) (c : Nat) (v : Chimney) : State := { s with chim := mset s.chim c v Chimney.empty }
/-- A partition in use. -/
def State.part? (s : State) (p : Nat) : Option Partition := mget? s.part p
/-- Replaces a partition. -/
def State.setPart (s : State) (p : Nat) (v : Partition) : State := { s with part := mput s.part p v }
/-- Changes a partition in use. -/
def State.modPart (s : State) (p : Nat) (f : Partition → Partition) : State :=
  match s.part? p with
  | some v => s.setPart p (f v)
  | none => s
/-- The partition that owns a core. -/
def State.ownerOf (s : State) (c : Nat) : Option Nat := (s.part.find? fun e => e.2.cores.contains c).map Prod.fst
/-- The state of the partition of a core; a core in none counts as FREE (R151). -/
def State.ownerState (s : State) (c : Nat) : PState :=
  match s.ownerOf c with
  | some p => match s.part? p with
    | some v => v.state
    | none => .free
  | none => .free
/-- A channel. -/
def State.chanAt (s : State) (ch : Nat) : Channel := mget s.hst.chans ch Channel.closed0
/-- Replaces a channel. -/
def State.setChan (s : State) (ch : Nat) (v : Channel) : State :=
  { s with hst := { s.hst with chans := mset s.hst.chans ch v Channel.closed0 } }
/-- Changes a channel. -/
def State.modChan (s : State) (ch : Nat) (f : Channel → Channel) : State := s.setChan ch (f (s.chanAt ch))
/-- A tier's clock. -/
def State.clkAt (s : State) (t : Nat) : TierClk := mget s.clk.tiers t TierClk.empty
/-- Changes a tier's clock. -/
def State.modClk (s : State) (t : Nat) (f : TierClk → TierClk) : State :=
  { s with clk := { s.clk with tiers := mset s.clk.tiers t (f (s.clkAt t)) TierClk.empty } }
/-- A tier's power state. -/
def State.pwrAt (s : State) (t : Nat) : TierPwr := mget s.pwr.tiers t TierPwr.empty
/-- Changes a tier's power state. -/
def State.modPwr (s : State) (t : Nat) (f : TierPwr → TierPwr) : State :=
  { s with pwr := { s.pwr with tiers := mset s.pwr.tiers t (f (s.pwrAt t)) TierPwr.empty } }
/-- A layer's temperatures. -/
def State.layerAt (s : State) (l : Nat) : Layer := mget s.thm.layers l Layer.empty
/-- Changes a layer's temperatures. -/
def State.modLayer (s : State) (l : Nat) (f : Layer → Layer) : State :=
  { s with thm := { s.thm with layers := mset s.thm.layers l (f (s.layerAt l)) Layer.empty } }
/-- A tier's ageing results. -/
def State.ageAt (s : State) (t : Nat) : Ageing := mget s.thm.ageing t Ageing.empty
/-- A Muold port, by the number 1 to 24. -/
def State.portAt (s : State) (p : Nat) : Port := mget s.lnk.ports p Port.empty
/-- Replaces a Muold port. -/
def State.setPort (s : State) (p : Nat) (v : Port) : State :=
  { s with lnk := { s.lnk with ports := mset s.lnk.ports p v Port.empty } }
/-- Changes a Muold port. -/
def State.modPort (s : State) (p : Nat) (f : Port → Port) : State := s.setPort p (f (s.portAt p))
/-- The next free value's index, and the state that has drawn it. -/
def State.draw (s : State) : State := { s with free := s.free + 1 }

/-- Codes of R9. -/
def Status.code : Status → Nat
  | .ok => 0x00 | .stateConflict => 0x01 | .badHandle => 0x02 | .badDescriptor => 0x03 | .noFit => 0x04
  | .licenceDenied => 0x05 | .groupAborted => 0x06 | .operandBusy => 0x07 | .addrFault => 0x08 | .uncorrectable => 0x09
  | .checkMismatch => 0x0A | .residueFault => 0x0B | .linkDown => 0x0C | .timeout => 0x0D | .resetAborted => 0x0E
  | .srcNotReady => 0x0F | .powerDenied => 0x10 | .transitBusy => 0x11 | .quarantined => 0x12
/-- Codes of R373. -/
def ErrClass.code : ErrClass → Nat
  | .corrected => 0 | .contained => 1 | .partitionFatal => 2 | .deviceFatal => 3
/-- Codes of R397. -/
def DevState.code : DevState → Nat
  | .off => 0 | .resetHold => 1 | .boot => 2 | .selftest => 3 | .ready => 4 | .degraded => 5 | .safe => 6
/-- Codes of R148. -/
def PState.code : PState → Nat
  | .free => 0 | .loading => 1 | .loaded => 2 | .running => 3 | .quiesced => 4 | .recovering => 5 | .failed => 6
/-- Arrays of each core (R32). -/
def Grade.arrays : Grade → Nat
  | .a4 => 4 | .a3 => 3

/-- Physical place of a logical column, in a row of sites or of brick columns, whose failed place, if any, is f − 1 (R16, R67). -/
def hostedAt (f x : Nat) : Nat := if f = 0 ∨ x + 1 < f then x else x + 1
/-- Physical column of a logical core's site (R16). -/
def Fuses.siteColumn (f : Fuses) (c : Nat) : Nat := hostedAt (mget f.failedCol (c / 16) 0) (c % 16)
/-- Physical brick column of a logical one in a physical array (R67). -/
def Fuses.brickColumn (f : Fuses) (c a j : Nat) : Nat := hostedAt (mget f.brickCol (4 * c + a) 0) j
/-- Physical arrays of a core that are usable, in ascending order (R32, R68). -/
def Fuses.usable (f : Fuses) (c : Nat) : List Nat := (natsFrom 0 4).filter fun a => !(mget f.arrayBad c 0).getLsbD a
/-- Physical arrays that host a core's logical arrays 1, 2, ..., in order; on -A3 the highest usable one of four is fused off (R32). -/
def Fuses.arraysOf (f : Fuses) (c : Nat) : List Nat := (f.usable c).take f.grade.arrays
/-- Physical arrays of a core that host no logical array: disabled (R68) or fused off (R32). -/
def Fuses.arraysOff (f : Fuses) (c : Nat) : List Nat := (natsFrom 0 4).filter fun a => !(f.arraysOf c).contains a
/-- The grade that the usable arrays give a device: -A4 only when every core has four (R68). -/
def Fuses.graded (f : Fuses) : Grade := if f.arrayBad.all fun e => decide (e.2 = 0) then .a4 else .a3
/-- Core clock of a step code in MHz · 20: 6.8 GHz divided by 4 to 8 (R316). -/
def stepDiv (code : Nat) : Nat := 4 + min code 4
/-- The whole register map is decoded (R446): from READY on, and in SAFE. -/
def wholeMap (s : State) : Bool := s.dev.ready || decide (s.dev.state = .safe)
/-- The core is quarantined (R389). -/
def State.isQuar (s : State) (c : Nat) : Bool := s.ras.quar.any fun q => decide (q.core = c)
/-- The core is quarantined for a router fault (R143). -/
def State.isRouterQuar (s : State) (c : Nat) : Bool := s.ras.quar.any fun q => decide (q.core = c) && q.router

/-- Cycles of the clock of a core's quadrant, which is gated while the quadrant is not ON (R18, R325, R339). -/
def State.quadCycles (s : State) (c : Nat) : BitVec 48 :=
  (s.clkAt (tierOf c)).cycles - mget (s.clkAt (tierOf c)).gated (quadOf c) 0
/-- Raw local cycle counter (R95): cycles of the core's clock since its counter started. -/
def State.rawCycles (s : State) (c : Nat) : BitVec 48 := (s.coreAt c).frozen.getD (s.quadCycles c - (s.coreAt c).cycBase)
/-- Corrected local cycle counter (R328). -/
def State.corrCycles (s : State) (c : Nat) : BitVec 48 := s.rawCycles c + (s.coreAt c).offset

-- Facing links (R135): N 0, S 1, E 2, W 3, U 4, D 5.

/-- The neighbour of a core over a port, and the facing port. -/
def neighbour (c port : Nat) : Option (Nat × Nat) :=
  match port with
  | 0 => if rowOf c = 0 then none else some (c - 16, 1)
  | 1 => if rowOf c = 15 then none else some (c + 16, 0)
  | 2 => if colOf c = 15 then none else some (c + 1, 3)
  | 3 => if colOf c = 0 then none else some (c - 1, 2)
  | 4 => if tierOf c = 7 then none else some (c + 256, 5)
  | 5 => if tierOf c = 0 then none else some (c - 256, 4)
  | _ => none
/-- Position along an edge of port group k (R160). -/
def portPos : Nat → Nat
  | 0 => 2 | 1 => 13 | 2 => 4 | 3 => 11 | 4 => 6 | _ => 9
/-- Port core of Muold port p, 1 to 24 (R160). -/
def portCore (p : Nat) : Nat :=
  let k := (p - 1) / 4
  match (p - 1) % 4 with
  | 0 => coreIdOf 0 0 (portPos k)
  | 1 => coreIdOf 0 (portPos k) 15
  | 2 => coreIdOf 0 15 (portPos k)
  | _ => coreIdOf 0 (portPos k) 0
/-- The Muold port of a port core. -/
def portOfCore (c : Nat) : Option Nat := (natsFrom 1 24).find? fun p => decide (portCore p = c)

end Sys2Proof.Machine
end

