-- ==== Sys2Proof/Machine/Fec.lean ====
section
/-! DEFINITION. Arithmetic in GF(2⁸) with the polynomial x⁸ + x⁴ + x³ + x² + 1 (R166), the RS(136,132) code of a flit unit in SR
mode, and the RS(544,514) code of LR mode (R288). -/

namespace Sys2Proof.Machine

-- GF(2⁸) (R166)

/-- A byte times α. -/
def gfStep (b : Byte) : Byte := (b <<< 1) ^^^ (if b.msb then 0x1D#8 else 0#8)
/-- A byte times a power of α. -/
def gfPow : Nat → Byte → Byte
  | 0, b => b
  | k + 1, b => gfPow k (gfStep b)
/-- A product, by the bits of the second factor from the top. -/
def gfMul (a b : Byte) : Byte := (natsFrom 0 8).foldl (fun x i => gfStep x ^^^ (if bit b (7 - i) then a else 0#8)) 0#8
/-- The inverse of a non-zero byte: its power 254. -/
def gfInv (a : Byte) : Byte :=
  let sq := (natsFrom 0 7).foldl (fun (x : Byte × Byte) _ => let q := gfMul x.1 x.1; (q, gfMul x.2 q)) (a, 1#8)
  sq.2

-- RS(136,132) (R288; log entry 78)

/-- A syndrome of a codeword, whose first byte is the coefficient of the highest power. -/
def rsSyndrome (w : List Byte) (j : Nat) : Byte := w.foldl (fun a b => gfPow j a ^^^ b) 0#8
/-- A byte of a word replaced by its sum with another. -/
def addAt (w : List Byte) (k : Nat) (e : Byte) : List Byte := w.set k (w.getD k 0#8 ^^^ e)
/-- Positions of a word of 136 bytes, with the power of α that locates each. -/
def rsPlaces : List (Nat × Byte) := (natsFrom 0 136).map fun k => (k, gfPow (135 - k) 1#8)
/-- Corrects at most two bytes of a codeword: the word and whether a byte was corrected. A word that cannot be corrected is left as it
is. -/
def rsDecode (w : List Byte) : List Byte × Bool :=
  let s0 := rsSyndrome w 0
  let s1 := rsSyndrome w 1
  let s2 := rsSyndrome w 2
  let s3 := rsSyndrome w 3
  let det := gfMul s1 s1 ^^^ gfMul s0 s2
  if s0 = 0#8 ∧ s1 = 0#8 ∧ s2 = 0#8 ∧ s3 = 0#8 then (w, false)
  else if det = 0#8 then
    match rsPlaces.find? fun p => decide (s0 ≠ 0#8 ∧ gfMul s0 p.2 = s1 ∧ gfMul s1 p.2 = s2 ∧ gfMul s2 p.2 = s3) with
    | some p => (addAt w p.1 s0, true)
    | none => (w, false)
  else
    let i := gfInv det
    let a := gfMul i (gfMul s0 s3 ^^^ gfMul s1 s2)
    let b := gfMul i (gfMul s1 s3 ^^^ gfMul s2 s2)
    match rsPlaces.filter fun p => decide (gfMul p.2 p.2 ^^^ gfMul a p.2 ^^^ b = 0#8) with
    | [p, q] =>
      let y := gfMul (gfInv (p.2 ^^^ q.2)) (s1 ^^^ gfMul s0 q.2)
      (addAt (addAt w p.1 y) q.1 (s0 ^^^ y), true)
    | _ => (w, false)
/-- Bytes of a flit unit on an SR link: header, payload and parity (R288). -/
def unitBytes : Nat := 272
/-- The bytes of codeword c of a unit: byte i belongs to codeword ⌊i ÷ 4⌋ mod 2 (R288). -/
def codeword (u : List Byte) (c : Nat) : List Byte := ((natsFrom 0 unitBytes).filter fun i => decide (i / 4 % 2 = c)).map fun i => u.getD i 0#8
/-- Place of byte i of a unit in its codeword. -/
def inCodeword (i : Nat) : Nat := i / 8 * 4 + i % 4
/-- A unit behind the decoder of an SR port: its header, its payload, and whether a byte was corrected. -/
def srDecode (header : W64) (payload : BitVec 2048) (parity : BitVec 64) : W64 × BitVec 2048 × Bool :=
  let unit := parity ++ payload ++ header
  let u := (natsFrom 0 unitBytes).map fun i => unit.extractLsb' (8 * i) 8
  let c0 := rsDecode (codeword u 0)
  let c1 := rsDecode (codeword u 1)
  let at_ := fun (i : Nat) => (if i / 4 % 2 = 0 then c0.1 else c1.1).getD (inCodeword i) 0#8
  (BitVec.ofNat 64 (leNat at_ 0 8), BitVec.ofNat 2048 (leNat at_ 8 256), c0.2 || c1.2)
/-- The parity bytes of 132 data bytes: the remainder by the generator with the roots α⁰ to α³. -/
def rsParity (w : List Byte) : List Byte :=
  let g := [1#8, 2#8, 4#8, 8#8].foldl (fun (p : List Byte) r =>
    ((0#8 :: p).zip (p ++ [0#8])).map fun e => e.2 ^^^ gfMul r e.1) [1#8]
  (w.foldl (fun (r : List Byte) b =>
    let f := r.headD 0#8 ^^^ b
    ((r.drop 1 ++ [0#8]).zip (g.drop 1)).map fun e => e.1 ^^^ gfMul f e.2) [0#8, 0#8, 0#8, 0#8])
/-- A flit unit as an SR port sends it (R288). -/
def srEncode (header : W64) (payload : BitVec 2048) : List Byte :=
  let u := bytesOf header 8 ++ bytesOf payload 256
  u ++ rsParity ((codeword u 0).take 132) ++ rsParity ((codeword u 1).take 132)

-- RS(544,514) of IEEE 802.3, over GF(2¹⁰) with x¹⁰ + x³ + 1 and generator roots α⁰ to α²⁹ (R288; log entry 78)

/-- A symbol of 10 bits. -/
abbrev Sym := BitVec 10
/-- A symbol times α. -/
def symStep (b : Sym) : Sym := (b <<< 1) ^^^ (if b.msb then 0x009#10 else 0#10)
/-- A product of symbols. -/
def symMul (a b : Sym) : Sym := (natsFrom 0 10).foldl (fun x i => symStep x ^^^ (if bit b (9 - i) then a else 0#10)) 0#10
/-- The inverse of a non-zero symbol: its power 1,022. -/
def symInv (a : Sym) : Sym :=
  ((natsFrom 0 9).foldl (fun (x : Sym × Sym) _ => let q := symMul x.1 x.1; (q, symMul x.2 q)) (a, 1#10)).2
/-- A symbol and n − 1 further ones, each the one before times α. -/
def symPowers : Nat → Sym → List Sym
  | 0, _ => []
  | n + 1, b => b :: symPowers n (symStep b)
/-- The value of a polynomial, its constant term first. -/
def symEval (p : List Sym) (x : Sym) : Sym := p.foldr (fun c a => c ^^^ symMul a x) 0#10
/-- The sum of two polynomials. -/
def symAdd : List Sym → List Sym → List Sym
  | [], q => q
  | p, [] => p
  | a :: p, b :: q => (a ^^^ b) :: symAdd p q
/-- Coefficient i of the product of two polynomials. -/
def symCoeff (p q : List Sym) (i : Nat) : Sym :=
  (natsFrom 0 (i + 1)).foldl (fun a j => a ^^^ symMul (p.getD j 0#10) (q.getD (i - j) 0#10)) 0#10
/-- Progress towards the error locator: the locator, the one before its last change of length, the length, and the discrepancy of that
change. -/
structure LocatorRun where
  cur : List Sym
  old : List Sym
  len : Nat
  disc : Sym
/-- One syndrome more. -/
def LocatorRun.step (synd : List Sym) (r : LocatorRun) (n : Nat) : LocatorRun :=
  let d := symCoeff r.cur synd n
  let old := 0#10 :: r.old
  let cur := symAdd r.cur (old.map (symMul (symMul d (symInv r.disc))))
  if d = 0#10 then { r with old := old }
  else if 2 * r.len ≤ n then { cur := cur, old := r.cur, len := n + 1 - r.len, disc := d }
  else { r with cur := cur, old := old }
/-- The error locator of 30 syndromes. -/
def locator (synd : List Sym) : LocatorRun := (natsFrom 0 30).foldl (LocatorRun.step synd) ⟨[1#10], [1#10], 0, 1#10⟩
/-- The error at the inverse of a root's locator. -/
def symError (synd loc : List Sym) (y : Sym) : Sym :=
  let omega := (natsFrom 0 30).map (symCoeff loc synd)
  let slope := (natsFrom 0 15).map fun i => if i % 2 = 0 then loc.getD (i + 1) 0#10 else 0#10
  symMul (symInv y) (symMul (symEval omega y) (symInv (symEval slope y)))
/-- Corrects at most 15 of the 544 symbols of a codeword, the first of which is the coefficient of the highest power: the word and whether
a symbol was corrected. A word that cannot be corrected is left as it is. -/
def symDecode (w : List Sym) : List Sym × Bool :=
  let synd := (symPowers 30 1#10).map fun x => w.foldl (fun a b => symMul a x ^^^ b) 0#10
  if synd.all fun x => decide (x = 0#10) then (w, false)
  else
    let r := locator synd
    let bad := ((natsFrom 0 544).zip (symPowers 544 ((natsFrom 0 480).foldl (fun a _ => symStep a) 1#10))).filter fun e => decide (symEval r.cur e.2 = 0#10)
    if r.len > 15 ∨ bad.length ≠ r.len then (w, false)
    else (bad.foldl (fun v e => v.set e.1 (v.getD e.1 0#10 ^^^ symError synd r.cur e.2)) w, true)
/-- A codeword of LR mode, whose first bit is bit 0 of its first symbol, behind the decoder: its 5,140 data bits. -/
def lrWord (w : BitVec 5440) : BitVec 5140 × Bool :=
  let d := symDecode ((natsFrom 0 544).map fun i => w.extractLsb' (10 * i) 10)
  (BitVec.ofNat 5140 ((d.1.take 514).foldr (fun x a => x.toNat + 1024 * a) 0), d.2)
/-- A unit behind the decoder of an LR port: it begins at a data bit of one codeword and may run on into the next one. Answers header,
payload, and whether a symbol was corrected. -/
def lrDecode (header : W64) (payload : BitVec 2048) (offset : Nat) (first second : BitVec 5440) : W64 × BitVec 2048 × Bool :=
  let unit := (payload ++ header).setWidth 10280
  let hole := (BitVec.allOnes 2112).setWidth 10280
  let data := ((second.setWidth 5140 ++ first.setWidth 5140) &&& ~~~(hole <<< offset)) ||| (unit <<< offset)
  let a := lrWord ((first >>> 5140).setWidth 300 ++ data.setWidth 5140)
  let b := if offset + 2112 ≤ 5140 then ((data >>> 5140).setWidth 5140, false)
    else lrWord ((second >>> 5140).setWidth 300 ++ (data >>> 5140).setWidth 5140)
  let u := (b.1 ++ a.1) >>> offset
  (u.setWidth 64, (u >>> 64).setWidth 2048, a.2 || b.2)

end Sys2Proof.Machine
end

