-- ==== Sys2Proof/Machine/Crypto.lean ====
section
/-! DEFINITION. The block check CRC-32C of R369, the SHA-384 of FIPS 180-4 that the manual names (PRESUMED, log entry 9),
and the CBOR heads of RFC 8949 (R382). -/

namespace Sys2Proof.Machine

/-- One bit of CRC-32C, reflected. -/
def crcBit (c : Nat) : Nat := if c % 2 = 1 then (c / 2) ^^^ 0x82F63B78 else c / 2
/-- One byte of CRC-32C. -/
def crcByte (c : Nat) (b : Byte) : Nat :=
  crcBit (crcBit (crcBit (crcBit (crcBit (crcBit (crcBit (crcBit (c ^^^ b.toNat))))))))
/-- CRC-32C state after more bytes. -/
def crcMore (c : Nat) (bs : List Byte) : Nat := bs.foldl crcByte c
/-- CRC-32C of bytes in ascending address order (R369). -/
def crc32c (bs : List Byte) : Nat := crcMore 0xFFFFFFFF bs ^^^ 0xFFFFFFFF
/-- CRC-32C state after one more line. -/
def crcLine (c : W32) (l : Line) : W32 := BitVec.ofNat 32 (crcMore c.toNat (bytesOf l 64))
/-- The check word of a CRC-32C state. -/
def crcWord (c : W32) : W32 := c ^^^ 0xFFFFFFFF#32

/-- Addition of 64-bit words. -/
def add64 (a b : Nat) : Nat := (a + b) % 2 ^ 64
/-- Rotation of a 64-bit word to the right. -/
def rotr64 (x n : Nat) : Nat := (x >>> n) ||| ((x <<< (64 - n)) % 2 ^ 64)
/-- Round constants of SHA-384 and SHA-512. -/
def shaK : List Nat :=
  [0x428A2F98D728AE22, 0x7137449123EF65CD, 0xB5C0FBCFEC4D3B2F, 0xE9B5DBA58189DBBC] ++
  [0x3956C25BF348B538, 0x59F111F1B605D019, 0x923F82A4AF194F9B, 0xAB1C5ED5DA6D8118] ++
  [0xD807AA98A3030242, 0x12835B0145706FBE, 0x243185BE4EE4B28C, 0x550C7DC3D5FFB4E2] ++
  [0x72BE5D74F27B896F, 0x80DEB1FE3B1696B1, 0x9BDC06A725C71235, 0xC19BF174CF692694] ++
  [0xE49B69C19EF14AD2, 0xEFBE4786384F25E3, 0x0FC19DC68B8CD5B5, 0x240CA1CC77AC9C65] ++
  [0x2DE92C6F592B0275, 0x4A7484AA6EA6E483, 0x5CB0A9DCBD41FBD4, 0x76F988DA831153B5] ++
  [0x983E5152EE66DFAB, 0xA831C66D2DB43210, 0xB00327C898FB213F, 0xBF597FC7BEEF0EE4] ++
  [0xC6E00BF33DA88FC2, 0xD5A79147930AA725, 0x06CA6351E003826F, 0x142929670A0E6E70] ++
  [0x27B70A8546D22FFC, 0x2E1B21385C26C926, 0x4D2C6DFC5AC42AED, 0x53380D139D95B3DF] ++
  [0x650A73548BAF63DE, 0x766A0ABB3C77B2A8, 0x81C2C92E47EDAEE6, 0x92722C851482353B] ++
  [0xA2BFE8A14CF10364, 0xA81A664BBC423001, 0xC24B8B70D0F89791, 0xC76C51A30654BE30] ++
  [0xD192E819D6EF5218, 0xD69906245565A910, 0xF40E35855771202A, 0x106AA07032BBD1B8] ++
  [0x19A4C116B8D2D0C8, 0x1E376C085141AB53, 0x2748774CDF8EEB99, 0x34B0BCB5E19B48A8] ++
  [0x391C0CB3C5C95A63, 0x4ED8AA4AE3418ACB, 0x5B9CCA4F7763E373, 0x682E6FF3D6B2B8A3] ++
  [0x748F82EE5DEFB2FC, 0x78A5636F43172F60, 0x84C87814A1F0AB72, 0x8CC702081A6439EC] ++
  [0x90BEFFFA23631E28, 0xA4506CEBDE82BDE9, 0xBEF9A3F7B2C67915, 0xC67178F2E372532B] ++
  [0xCA273ECEEA26619C, 0xD186B8C721C0C207, 0xEADA7DD6CDE0EB1E, 0xF57D4F7FEE6ED178] ++
  [0x06F067AA72176FBA, 0x0A637DC5A2C898A6, 0x113F9804BEF90DAE, 0x1B710B35131C471B] ++
  [0x28DB77F523047D84, 0x32CAAB7B40C72493, 0x3C9EBE0A15C9BEBC, 0x431D67C49C100D4C] ++
  [0x4CC5D4BECB3E42B6, 0x597F299CFC657E2A, 0x5FCB6FAB3AD6FAEC, 0x6C44198C4A475817]
/-- Initial hash value of SHA-384. -/
def shaH0 : List Nat :=
  [0xCBBB9D5DC1059ED8, 0x629A292A367CD507, 0x9159015A3070DD17, 0x152FECD8F70E5939] ++
  [0x67332667FFC00B31, 0x8EB44A8768581511, 0xDB0C2E0D64F98FA7, 0x47B5481DBEFA4FA4]

/-- A big-endian number of the bytes. -/
def beNat (bs : List Byte) : Nat := bs.foldl (fun a b => a * 256 + b.toNat) 0
/-- The n big-endian bytes of a number. -/
def beBytes (v n : Nat) : List Byte := (leBytes v n).reverse

/-- Message schedule: the last 16 words, newest first, extended k more times; answers all words, oldest first. -/
def shaSched : Nat → List Nat → List Nat → List Nat
  | 0, _, acc => acc.reverse
  | k + 1, w, acc =>
    let g := fun i => w.getD i 0
    let x1 := g 1
    let x14 := g 14
    let s1 := rotr64 x1 19 ^^^ rotr64 x1 61 ^^^ (x1 >>> 6)
    let s0 := rotr64 x14 1 ^^^ rotr64 x14 8 ^^^ (x14 >>> 7)
    let n := add64 (add64 s1 (g 6)) (add64 s0 (g 15))
    shaSched k (n :: w.take 15) (n :: acc)
/-- The eight working variables. -/
structure ShaVars where
  a : Nat
  b : Nat
  c : Nat
  d : Nat
  e : Nat
  f : Nat
  g : Nat
  h : Nat
  deriving DecidableEq, Repr
/-- One round. -/
def shaRound (v : ShaVars) (kw : Nat × Nat) : ShaVars :=
  let s1 := rotr64 v.e 14 ^^^ rotr64 v.e 18 ^^^ rotr64 v.e 41
  let chv := (v.e &&& v.f) ^^^ ((2 ^ 64 - 1 - v.e) &&& v.g)
  let t1 := add64 (add64 (add64 v.h s1) (add64 chv kw.1)) kw.2
  let s0 := rotr64 v.a 28 ^^^ rotr64 v.a 34 ^^^ rotr64 v.a 39
  let maj := (v.a &&& v.b) ^^^ (v.a &&& v.c) ^^^ (v.b &&& v.c)
  { a := add64 t1 (add64 s0 maj), b := v.a, c := v.b, d := v.c, e := add64 v.d t1, f := v.e, g := v.f, h := v.g }
/-- The k big-endian words of a block. -/
def shaWords : Nat → List Byte → List Nat
  | 0, _ => []
  | k + 1, bs => beNat (bs.take 8) :: shaWords k (bs.drop 8)
/-- Compression of one 128-byte block. -/
def shaBlock (h : List Nat) (blk : List Byte) : List Nat :=
  let w16 := (shaWords 16 blk).reverse
  let g := fun i => h.getD i 0
  let v := (shaK.zip (shaSched 64 w16 w16)).foldl shaRound ⟨g 0, g 1, g 2, g 3, g 4, g 5, g 6, g 7⟩
  [add64 (g 0) v.a, add64 (g 1) v.b, add64 (g 2) v.c, add64 (g 3) v.d, add64 (g 4) v.e, add64 (g 5) v.f, add64 (g 6) v.g,
    add64 (g 7) v.h]
/-- All blocks in order. -/
def shaBlocks : Nat → List Nat → List Byte → List Nat
  | 0, h, _ => h
  | k + 1, h, bs => shaBlocks k (shaBlock h (bs.take 128)) (bs.drop 128)
/-- SHA-384: 48 bytes. -/
def sha384 (bs : List Byte) : List Byte :=
  let n := bs.length
  let z := (128 - (n + 17) % 128) % 128
  let m := bs ++ [0x80#8] ++ List.replicate z 0#8 ++ beBytes (8 * n) 16
  ((shaBlocks (m.length / 128) shaH0 m).take 6).flatMap fun w => beBytes w 8

/-- Deterministic CBOR head of a major type and a number (RFC 8949). -/
def cborHead (major n : Nat) : List Byte :=
  let m := major * 32
  if n < 24 then [BitVec.ofNat 8 (m + n)]
  else if n < 2 ^ 8 then BitVec.ofNat 8 (m + 24) :: beBytes n 1
  else if n < 2 ^ 16 then BitVec.ofNat 8 (m + 25) :: beBytes n 2
  else if n < 2 ^ 32 then BitVec.ofNat 8 (m + 26) :: beBytes n 4
  else BitVec.ofNat 8 (m + 27) :: beBytes n 8
/-- CBOR unsigned integer. -/
def cborNat (n : Nat) : List Byte := cborHead 0 n
/-- CBOR integer. -/
def cborInt (i : Int) : List Byte := if i < 0 then cborHead 1 (i.natAbs - 1) else cborHead 0 i.toNat
/-- CBOR byte string. -/
def cborBytes (bs : List Byte) : List Byte := cborHead 2 bs.length ++ bs
/-- CBOR array of unsigned integers. -/
def cborArr (l : List Nat) : List Byte := cborHead 4 l.length ++ l.flatMap cborNat

end Sys2Proof.Machine
end

