-- ==== Sys2Proof/Machine/Report.lean ====
section
/-! DEFINITION. What the device tells its host: writes to host memory, completion records and interrupts (R256, R271 to
R273), error records with their merging, log ring, events and failure signatures (R373 to R384). -/

namespace Sys2Proof.Machine

-- Host memory and interrupts

/-- The device may issue requests (R252, R255, R256). -/
def State.canMaster (s : State) : Bool := s.dev.ready && s.hst.busMaster && !s.hst.d3hot

/-- Writes bytes to host memory; held in order while the device may not issue requests (R256). -/
def hostWrite (s : State) (addr : Nat) (bs : List Byte) : State :=
  if s.canMaster then { s with hostMem := wrBytes s.hostMem addr bs }
  else { s with hst := { s.hst with held := s.hst.held ++ [(addr, bs)] } }

/-- An MSI-X table entry that the host has not written: its vector is masked (log entry 75). -/
def msixFresh : BitVec 128 := 1#128 <<< 96
/-- A vector is masked: by its entry, by Function Mask, or because MSI-X is not enabled (R254, R273; log entry 75). -/
def Hst.masks (h : Hst) (v : Nat) : Bool := !h.msixEn || h.msixMask || bit (mget h.msix v msixFresh) 96
/-- Raises an MSI-X vector; a masked vector sets its pending bit (R273), and interrupts are held like records (R256). -/
def raiseVector (s : State) (v : Nat) : State :=
  if !s.canMaster then { s with hst := { s.hst with heldIrq := s.hst.heldIrq ++ [v] } }
  else if s.hst.masks v then { s with hst := { s.hst with pendingIrq := insertNat v s.hst.pendingIrq } }
  else { s with hst := { s.hst with irqs := mmod s.hst.irqs v 0 (· + 1) } }

/-- Raises a channel's interrupt, merged within its hold-off (R273). -/
def raiseChannel (s : State) (ch : Nat) : State :=
  let c := s.chanAt ch
  if c.inHoldoff then s.setChan ch { c with irqHeld := true }
  else (raiseVector s c.vector).setChan ch { c with inHoldoff := decide (c.holdoff ≠ 0) }

/-- Free entries of a completion ring (R272). -/
def Channel.freeEntries (c : Channel) : Nat := 2 ^ c.cqLog2 - (c.written - c.cqSeq).toNat

/-- The channel has a completion ring in use. -/
def Channel.live (c : Channel) : Bool :=
  match c.state with
  | .closed => false
  | _ => true

/-- A completion record (R271) without its PHASE. -/
structure CRec where
  seq : W32
  status : Nat
  inGroup : Bool
  opcode : Nat
  time : W64
  tag : BitVec 16
  detail : BitVec 128
  deriving DecidableEq, Repr

/-- The 32 bytes of a completion record (R271). -/
def CRec.bytes (r : CRec) (phase : Bool) : List Byte :=
  leBytes r.seq.toNat 4 ++ leBytes (r.status + 256 * b2n phase + 512 * b2n r.inGroup) 2 ++ leBytes r.opcode 1 ++ [0#8] ++
    leBytes r.time.toNat 6 ++ leBytes r.tag.toNat 2 ++ leBytes r.detail.toNat 16

/-- PHASE of record k of a ring: 1 on the first pass, inverted on each later one (R271, R379). -/
def phaseOf (k log2 : Nat) : Bool := k / 2 ^ log2 % 2 == 0

/-- Writes one completion record into a free entry; a ring left without one stalls an OPEN channel (R272, R261). -/
def putRecord (s : State) (ch : Nat) (r : CRec) : State :=
  let c := s.chanAt ch
  let k := c.written.toNat
  let s := hostWrite s (c.cqBase.toNat + 32 * (k % 2 ^ c.cqLog2)) (r.bytes (phaseOf k c.cqLog2))
  let c := { c with written := c.written + 1 }
  s.setChan ch (if c.freeEntries = 0 ∧ c.state = .open then { c with state := .stalledCq } else c)

-- Device events on channel 0 (R380)

/-- A held device event: the record's fields packed as SEQ, STATUS, TIME and DETAIL. -/
def packEvent (seq status : Nat) (time : W64) (detail : BitVec 128) : BitVec 256 :=
  BitVec.ofNat 256 (seq + status * 2 ^ 32 + time.toNat * 2 ^ 64 + detail.toNat * 2 ^ 128)

/-- The completion record of a held event. -/
def unpackEvent (e : BitVec 256) : CRec :=
  { seq := BitVec.ofNat 32 (bits e 31 0), status := bits e 39 32, inGroup := false, opcode := 0xFE,
    time := BitVec.ofNat 64 (bits e 127 64), tag := 0, detail := BitVec.ofNat 128 (bits e 255 128) }

/-- Writes held events while channel 0 is OPEN with free entries, oldest first; each signals vector 0 (R273). -/
def drainEvents : Nat → State → State
  | 0, s => s
  | n + 1, s =>
    match s.ras.heldEvents with
    | [] => s
    | e :: es =>
      let c := s.chanAt 0
      if c.state = .open ∧ c.freeEntries > 0 then
        drainEvents n (raiseVector (putRecord { s with ras := { s.ras with heldEvents := es } } 0 (unpackEvent e)) 0)
      else s

/-- Posts a device event; at most 256 wait while channel 0 cannot take them (R380). -/
def postEvent (s : State) (e : BitVec 256) : State :=
  let s := drainEvents 257 s
  if s.ras.heldEvents.length < 256 then
    drainEvents 257 { s with ras := { s.ras with heldEvents := s.ras.heldEvents ++ [e] } }
  else s

/-- Kind 2 or 3 of R380: an inventory change, or a device state change with its new code. -/
def postNotice (s : State) (unit : W32) (kind value : Nat) : State :=
  postEvent s (packEvent 0 0 s.time.now (BitVec.ofNat 128 (unit.toNat + kind * 2 ^ 32 + value * 2 ^ 56)))

/-- Moves the device to a state and posts the change (R397). -/
def setDevState (s : State) (d : DevState) : State :=
  if s.dev.state = d then s
  else postNotice { s with dev := { s.dev with state := d } } (hearthUnit s 256) 3 d.code

-- Error records (R373 to R378)

/-- What a unit reports. -/
structure Report where
  unit : W32
  status : Nat
  cls : ErrClass
  action : Nat := 0
  opSpace : Nat := 0
  opcode : Nat := 0
  opIndex : Nat := 0xFFFF
  code : Nat := 0
  part : Option Nat := none
  count : Nat := 1
  /-- DETAIL bytes 0 to 23 (R376) -/
  detail : BitVec 192 := 0
  deriving DecidableEq, Repr

/-- The layer and zone whose sensors stand for a unit (R356). The spec gives no place of a hearth unit in L0: its zone is a free value
(log entry 14). -/
def unitZone (unit : W32) : Option (Nat × Nat) :=
  let sub := bits unit 8 0
  let c := coreIdOf (bits unit 19 17) (bits unit 16 13) (bits unit 12 9)
  if sub ≥ 256 then some (0, Config.hearthZone sub % 16)
  else if 64 ≤ sub ∧ sub ≤ 80 then some (2 * tierOf c + 1, zoneOf c)
  else some (2 * tierOf c + 2, zoneOf c)

/-- TEMP_DC of a unit, when its zone has been read. -/
def unitTemp (s : State) (unit : W32) : Option Int :=
  match unitZone unit with
  | some (l, z) => mget? (s.layerAt l).sensor z
  | none => none

/-- RAIL_MV of a unit: VIN as last read, or the reading of VCT or VDL of a tier that is powered, a free value (log entry 14). -/
def unitRail (s : State) (unit : W32) : Option Nat :=
  let sub := bits unit 8 0
  let t := bits unit 19 17
  if sub ≥ 256 then (if s.pwr.vinMv ≠ 0 then some s.pwr.vinMv else none)
  else if sub ≥ 128 || !s.boot.tiersUp.contains t then none
  else if 64 ≤ sub ∧ sub ≤ 80 then some (Config.railMv t 1 s.time.now)
  else if (s.pwrAt t).failed then none
  else some (Config.railMv t 0 s.time.now)

/-- Time of detection by a unit: its tier's copy of global time, or the hearth counter (R326, R374). -/
def unitTime (s : State) (unit : W32) : W64 :=
  if bits unit 8 0 ≥ 256 then s.time.now else s.tierTime (bits unit 19 17)

/-- EPOCH of a partition (R150). -/
def epochOf (s : State) (p : Option Nat) : Nat :=
  match p with
  | some k => match s.part? k with
    | some v => v.epoch.toNat
    | none => 0
  | none => 0

/-- The partition that a record concerns (R374): the one it names, else the owner of the core whose sub-unit it names. -/
def partConcerned (s : State) (r : Report) : Option Nat :=
  match r.part with
  | some p => some p
  | none =>
    if bits r.unit 8 0 < 128 then s.ownerOf (coreIdOf (bits r.unit 19 17) (bits r.unit 16 13) (bits r.unit 12 9)) else none
/-- Record bytes 0 to 59 (R374), without COUNT, PHASE and LOG_SEQ. -/
def recordBody (s : State) (r : Report) : Line :=
  let part := partConcerned s r
  let t := unitTemp s r.unit
  let v := unitRail s r.unit
  BitVec.ofNat 512 ((unitTime s r.unit).toNat + r.unit.toNat * 2 ^ 64 + r.status * 2 ^ 96 + r.cls.code * 2 ^ 104 + r.action * 2 ^ 106 +
    b2n t.isSome * 2 ^ 109 + b2n v.isSome * 2 ^ 110 + r.opSpace * 2 ^ 112 + r.opcode * 2 ^ 120 + r.opIndex * 2 ^ 128 +
    r.code * 2 ^ 144 + toCode 16 (t.getD 0) * 2 ^ 160 + v.getD 0 % 2 ^ 16 * 2 ^ 176 +
    (match part with | some p => p | none => 0xFF) * 2 ^ 224 + epochOf s part * 2 ^ 232 + r.detail.toNat * 2 ^ 256)

/-- A record with its COUNT and LOG_SEQ. -/
def withCount (l : Line) (count seq : Nat) : Line :=
  l ||| BitVec.ofNat 512 (count % 2 ^ 32 * 2 ^ 192 + seq % 2 ^ 32 * 2 ^ 448)

/-- The 64 bytes of a record in a ring of 2^log2 entries: PHASE and CRC (R374, R379). -/
def sealRecord (l : Line) (seq log2 : Nat) : List Byte :=
  let b := (bytesOf (l ||| BitVec.ofNat 512 (b2n (phaseOf seq log2) * 2 ^ 111)) 60)
  b ++ leBytes (crc32c b) 4

/-- Writes to the log ring the records of the buffer that have not been written, oldest first (R379). -/
def flushLog : Nat → State → State
  | 0, s => s
  | n + 1, s =>
    if !(s.ras.logEnable && s.canMaster) || decide (s.ras.nextOut ≥ s.ras.nextSeq) then s
    else
      let first := s.ras.nextSeq - s.ras.buf.length
      let k := s.ras.nextOut
      let l := s.ras.buf.getD (k - first) 0#512
      let a := s.ras.logBase.toNat + 64 * (k % 2 ^ s.ras.logLog2)
      flushLog n { s with hostMem := wrBytes s.hostMem a (sealRecord l k s.ras.logLog2),
                          ras := { s.ras with nextOut := k + 1 } }

/-- Appends a record to the buffer of the last 4,096; a record that leaves it unwritten is lost (R379). -/
def appendRecord (s : State) (l : Line) : State :=
  let buf := s.ras.buf ++ [l]
  let isFull := decide (buf.length > 4096)
  let oldest := s.ras.nextSeq + 1 - buf.length
  let gone := isFull && decide (s.ras.nextOut ≤ oldest)
  flushLog 4097
    { s with ras := { s.ras with
        buf := if isFull then buf.drop 1 else buf,
        nextSeq := s.ras.nextSeq + 1,
        nextOut := if gone then oldest + 1 else s.ras.nextOut,
        lost := if gone then satAdd 16 s.ras.lost 1 else s.ras.lost } }

-- What the device writes to flash (R381, R402, R427)

/-- What the device keeps in flash besides the licences, as its last changes left it. -/
def State.flashLog (s : State) : FlashLog :=
  { sigs := s.ras.sigs, quar := s.ras.quar, faultyLines := s.ras.faultyLines, disabledLog := s.ras.disabledLog,
    poweredHours := s.thm.poweredHours, ageing := s.thm.ageing }
/-- A change is about to be written to flash: should the write fail, flash holds what stands now, or, while an earlier write still
waits, what it held before that (R427). -/
def keepStored (s : State) : State := if s.ras.flashPending then s else { s with ras := { s.ras with stored := s.flashLog } }

-- Failure signatures (R381 to R383)

/-- The CBOR input of the fold (R383), with the fields of a record. -/
def foldInput (l : Line) : List Byte :=
  cborArr [bits l 103 96, bits l 105 104, bits l 108 106, bits l 159 144, bits l 72 64, bits l 115 112, bits l 127 120]
/-- The fold of a record (R383). -/
def foldOf (l : Line) : Nat := beNat ((sha384 (foldInput l)).take 8)
/-- The signature map of a record (R382). -/
def signatureOf (s : State) (l : Line) : List Byte :=
  let u := fun k hi lo => cborNat k ++ cborNat (bits l hi lo)
  cborHead 5 21 ++ cborNat 1 ++ cborNat (foldOf l) ++ u 2 63 0 ++ u 3 95 64 ++ u 4 103 96 ++ u 5 105 104 ++ u 6 108 106 ++
    u 7 159 144 ++ u 8 115 112 ++ u 9 127 120 ++ u 10 143 128 ++ cborNat 11 ++ cborInt (sbits l 175 160) ++ u 12 191 176 ++
    u 13 223 192 ++ u 14 231 224 ++ u 15 239 232 ++ cborNat 16 ++ cborBytes ((sha384 s.fuse.certificate).take 8) ++
    cborNat 17 ++ cborNat s.fuse.grade.arrays ++ cborNat 18 ++ cborNat s.thm.poweredHours ++ cborNat 19 ++
    cborBytes ((mget s.boot.measures 2 (List.replicate 48 0#8)).take 8) ++ cborNat 20 ++ cborBytes (leBytes (bits l 447 256) 24) ++
    cborNat 21 ++ cborArr [bits l 479 448]
/-- A 512-byte slot of the signature ring (R381). -/
def signatureSlot (item : List Byte) (phase : Bool) : List Byte :=
  leBytes item.length 2 ++ [BitVec.ofNat 8 (b2n phase), 0#8] ++ item ++ List.replicate (508 - item.length) 0#8
/-- Writes a record's signature to flash and, when enabled, to the ring (R381). -/
def writeSignature (s : State) (l : Line) : State :=
  let item := signatureOf s l
  let k := s.ras.sigCount
  let all := s.ras.sigs ++ [item]
  let s := keepStored s
  let s := { s with ras := { s.ras with sigCount := k + 1, sigs := all.drop (all.length - 256) } }
  if s.ras.sigEnable then
    hostWrite s (s.ras.sigBase.toNat + 512 * (k % 2 ^ s.ras.sigLog2)) (signatureSlot item (phaseOf k s.ras.sigLog2))
  else s

/-- Writes one error record: buffer, ring, event and signature. With `late`, management firmware has stopped and the
signature waits for the next start (R381). -/
def emitRecord (s : State) (body : Line) (count : Nat) (late : Bool) : State :=
  let seq := s.ras.nextSeq
  let l := withCount body count seq
  let s := appendRecord s l
  let cls := bits l 105 104
  let s := if cls ≥ s.ras.eventClass then
      postEvent s (packEvent (seq % 2 ^ 32) (bits l 103 96) (BitVec.ofNat 64 (bits l 63 0))
        (BitVec.ofNat 128 (bits l 95 64 + 2 ^ 32 + cls * 2 ^ 40 + bits l 108 106 * 2 ^ 48 + bits l 231 224 * 2 ^ 56 +
          bits l 159 144 * 2 ^ 64)))
    else s
  if decide (cls ≥ 2) || decide (bits l 108 106 ≠ 0) then
    (if late then { s with ras := { s.ras with sigDue := s.ras.sigDue ++ [l] } } else writeSignature s l)
  else s

/-- A recovered PARTITION_FATAL whose fold recurs 3 times within 24 h on one unit is marked RETEST (R384). -/
def retestAction (s : State) (r : Report) : State × Nat :=
  let key := beNat (foldInput (recordBody s { r with action := 0 }))
  let recent := s.ras.folds.filter fun e => s.within e.2.2 dayNs
  let same := (recent.filter fun e => decide (e.1 = key ∧ e.2.1 = r.unit)).length
  ({ s with ras := { s.ras with folds := recent ++ [(key, r.unit, s.time.now)] } }, if same ≥ 2 then 1 else 0)

/-- The key of a merge window (R378). -/
def MergeWin.hasKey (w : MergeWin) (unit : W32) (status code : Nat) : Bool :=
  decide (w.unit = unit ∧ w.status.toNat = status ∧ w.detail.toNat = code)

/-- One further event in a window: its fields stand for the record to come (R378). -/
def MergeWin.merge (w : MergeWin) (body : Line) : MergeWin := { w with count := w.count + 1, last := body }

/-- Reports an event (R373, R375): CORRECTED events merge by R378, every other event writes a record at once. -/
def report (s : State) (r : Report) (late : Bool := false) : State :=
  match r.cls with
  | .corrected =>
    match s.ras.windows.find? (·.hasKey r.unit r.status r.code) with
    | some _ =>
      let ws := s.ras.windows.map fun x => if x.hasKey r.unit r.status r.code then x.merge (recordBody s r) else x
      { s with ras := { s.ras with windows := ws } }
    | none =>
      if s.ras.windows.length ≥ 256 then { s with ras := { s.ras with lost := satAdd 16 s.ras.lost 1 } }
      else
        let ws := s.ras.windows ++ [⟨r.unit, BitVec.ofNat 8 r.status, BitVec.ofNat 16 r.code, 0, 0#512⟩]
        emitRecord { s with ras := { s.ras with windows := ws } } (recordBody s r) r.count late
  | _ => emitRecord s (recordBody s r) r.count late

-- DETAIL parts (R376)

/-- Op part: FLAGS, array or problem, first block or port × 16 + stream. -/
def detOp (flags : Flags) (arr blk : Nat) : BitVec 192 := BitVec.ofNat 192 (flags.toNat + arr * 256 + blk * 2 ^ 32)
/-- Location part of a memory word. -/
def detWord (off : Nat) (stale erasure : Bool) : BitVec 192 :=
  BitVec.ofNat 192 (off * 2 ^ 64 + (b2n stale + 2 * b2n erasure) * 2 ^ 96)
/-- Location part with byte 8 and byte 9. -/
def detLoc (b8 b9 : Nat) : BitVec 192 := BitVec.ofNat 192 (b8 * 2 ^ 64 + b9 * 2 ^ 72)
/-- Syndrome part. -/
def detSyn (v : Nat) : BitVec 192 := BitVec.ofNat 192 (v * 2 ^ 128)

/-- A CONTAINED record with a status and nothing further. -/
def reportContained (s : State) (unit : W32) (st : Status) (code : Nat := 0) : State :=
  report s { unit := unit, status := st.code, cls := .contained, code := code }

end Sys2Proof.Machine
end

