-- ==== Sys2Proof/Machine/Memory.lean ====
section
/-! DEFINITION. Stored data: reads and writes of core SRAM and tier DRAM with their codes (R84, R165 to R170), the ranges
that running NBU commands and mirrors protect (R219, R230), and NBU commands stopped mid-way (R222). -/

namespace Sys2Proof.Machine

-- Core SRAM (R81, R84)

/-- SRAM bank of a slot offset (R28). -/
def sramBank (off : Nat) : Nat := off / 64 % 32
/-- Marked code words of a range of SRAM, as word numbers. -/
def sramMarks (s : State) (c off n : Nat) : SMap WordErr :=
  let lo := sramDpa c off / 8
  let hi := cdiv (sramDpa c off + n) 8
  s.err.sram.filter fun e => decide (lo ≤ e.1) && decide (e.1 < hi)

/-- DETAIL of a record about an SRAM word: its slot offset and its syndrome, a free value (R376; log entry 92). -/
def sramDetail (s : State) (c off : Nat) : BitVec 192 :=
  detWord off false false ||| detSyn (Config.sramSyndrome (sramDpa c off / 8) s.time.now).toNat
/-- A word corrected in SRAM: SRAM_CORRECTED of its core and a CORRECTED record naming the bank (R84, R93). -/
def sramCorrected (s : State) (c off : Nat) : State :=
  report (s.modCore c fun k => { k with ctr := mmod k.ctr 21 0 (· + 1) })
    { unit := coreUnit s c (16 + sramBank off), status := 0, cls := .corrected, detail := sramDetail s c off }

/-- A demand read of SRAM: corrected words are counted; the first uncorrectable word's offset, if any (R84). -/
def sramRead (s : State) (c off n : Nat) : State × Option Nat :=
  (sramMarks s c off n).foldl (fun (acc : State × Option Nat) e =>
    match acc.2 with
    | some _ => acc
    | none =>
      let o := (e.1 * 8) - sramDpa c 0
      match e.2 with
      | .corrected => (sramCorrected acc.1 c o, none)
      | .uncorrectable => (acc.1, some o)) (s, none)

/-- A second UNCORRECTABLE in one SRAM bank within 24 h marks the core for quarantine (R388). -/
def noteBank (s : State) (c bank : Nat) : State :=
  let key := 32 * c + bank
  let again := match mget? s.ras.bankAt key with
    | some t => s.within t dayNs
    | none => false
  { s with ras := { s.ras with
      bankAt := mput s.ras.bankAt key s.time.now, bankQuar := if again then insertNat c s.ras.bankQuar else s.ras.bankQuar } }
/-- Every word of a core's SRAM, from its first address, is written: no mark stands. -/
def clearMarks (m : SMap WordErr) (a : Nat) : SMap WordErr :=
  m.filter fun e => !(decide (a / 8 ≤ e.1) && decide (e.1 < (a + sramBytes) / 8))
/-- A write of n bytes of SRAM covers a code word in part (R84). -/
def coversPart (a n w : Nat) : Bool := !(decide (a ≤ w * 8) && decide (w * 8 + 8 ≤ a + n))
/-- A write of SRAM: a code word that it covers in part is read first, corrected and counted; an uncorrectable one stops the
write (R84). -/
def sramWrite (s : State) (c off : Nat) (bs : List Byte) : State × Option Nat :=
  let a := sramDpa c off
  let n := bs.length
  let part := (sramMarks s c off n).filter fun e => coversPart a n e.1
  match part.find? fun e => decide (e.2 = .uncorrectable) with
  | some e => (s, some (e.1 * 8 - sramDpa c 0))
  | none =>
    let lo := a / 8
    let hi := cdiv (a + n) 8
    let s := part.foldl (fun st e => sramCorrected st c (e.1 * 8 - sramDpa c 0)) s
    ({ s with
        mem := wrBytes s.mem a bs,
        err := { s.err with sram := s.err.sram.filter fun e => !(decide (lo ≤ e.1) && decide (e.1 < hi)) } }, none)

-- Tier DRAM

/-- Page number of the device: core · 49,152 + page of the slot. -/
def pageKey (c off : Nat) : Nat := c * 49152 + pageOf off
/-- Word number of a slot offset. -/
def dramWord (c off : Nat) : Nat := dramDpa c off / 64
/-- First word number of a page. -/
def pageWord (key : Nat) : Nat := dramWord (key / 49152) (key % 49152 * 2048)
/-- Page of a word number. -/
def wordPage (w : Nat) : Nat := pageKey (w * 64 / 2 ^ 27) (w * 64 % 2 ^ 27)

-- The word code (R162, R165; log entry 12)

/-- The check field of a word's data, as stored: inverted, so that it is 0xFFFF for zero data (R165, R187). -/
def checkField (d : Line) : BitVec 16 := if d = 0#512 then 0xFFFF#16 else Config.wordCheck d
/-- The data of a word. -/
def wordData (s : State) (w : Nat) : Line := rdLine s.mem (64 * w)
/-- The stored bits of a word that are in error. -/
def wordFlips (s : State) (w : Nat) : BitVec 528 := mget s.err.dram w 0#528
/-- The 528 stored bits of a word: its data, and above them its check field (R162). -/
def storedWord (s : State) (w : Nat) : BitVec 528 := (checkField (wordData s w) ++ wordData s w) ^^^ wordFlips s w
/-- The lowest bit that is set, alone. -/
def lowestBit (f : BitVec 528) : BitVec 528 := f &&& -f
/-- At most one bit is set. -/
def oneBit (f : BitVec 528) : Bool := decide (f = lowestBit f)
/-- The set bits lie within 4 adjacent positions. -/
def within4 (f : BitVec 528) : Bool := decide (f.toNat < 16 * (lowestBit f).toNat)
/-- What the word code says of a stored word. -/
inductive WordSay where
  | clean
  | corrected
  | uncorrectable
  /-- it passes, with these bits of its data wrong, and with or without a bit that the decoder took for an error -/
  | passes (wrong : Line) (fixed : Bool)
  deriving DecidableEq, Repr
/-- The reading of a stored word (R165): one bit in error is corrected; two bits, bits within 4 adjacent positions and an all-zero stored
word are detected; of other errors the spec says nothing (a free value of Config). -/
def wordSay (s : State) (w : Nat) : WordSay :=
  let f := wordFlips s w
  if f = 0#528 then .clean
  else if storedWord s w = 0#528 then .uncorrectable
  else if oneBit f then .corrected
  else if oneBit (f ^^^ lowestBit f) || within4 f then .uncorrectable
  else
    match Config.wordRead (wordData s w) f with
    | none => .uncorrectable
    | some none => .passes (f.setWidth 512) false
    | some (some i) => .passes ((f ^^^ (1#528 <<< i.val)).setWidth 512) true
/-- The bits of its data with which a word passes although they are wrong. -/
def residual (s : State) (w : Nat) : Line :=
  match wordSay s w with
  | .passes r _ => r
  | _ => 0#512

-- The page code (R166)

/-- The two syndromes of every byte column of a page over the data that stand for its words: bytes of S0, and of S1. -/
def pageSynd (s : State) (key : Nat) : Line × Line := mget s.err.synd key (0#512, 0#512)
/-- Every byte of a line times a power of α. -/
def gfLine (k : Nat) (l : Line) : Line := lineOfBytes ((bytesOf l 64).map (gfPow k))
/-- Syndromes with an error of symbol k added. -/
def addError (d : Line × Line) (k : Nat) (e : Line) : Line × Line := (d.1 ^^^ e, d.2 ^^^ gfLine k e)
/-- Words of a page with bits in error. -/
def flipped (s : State) (key : Nat) : List Nat :=
  (s.err.dram.filter fun e => decide (pageWord key ≤ e.1) && decide (e.1 < pageWord key + 32)).map Prod.fst
/-- What words that pass with wrong bits add to the syndromes of a page. -/
def residSynd (s : State) (key : Nat) : Line × Line :=
  (flipped s key).foldl (fun d w => addError d (w - pageWord key) (residual s w)) (0#512, 0#512)
/-- The syndromes of a page as the words are read. -/
def seenSynd (s : State) (key : Nat) : Line × Line :=
  let d := pageSynd s key
  let e := residSynd s key
  (d.1 ^^^ e.1, d.2 ^^^ e.2)
/-- The symbol of a column whose error its syndromes locate: data words 0 to 31, then the parity words P0 and P1. DESIGN CHOICE:
symbol k stands at the power α^k of its codeword (log entry 12). -/
def locate (s0 s1 : Byte) : Option Nat := if s0 = 0#8 then none else (natsFrom 0 34).find? fun k => decide (gfPow k s0 = s1)
/-- What the syndromes of a page say. -/
inductive PageSay where
  | clean
  /-- every failing column locates a parity word -/
  | parity
  /-- every failing column locates this data word -/
  | word (k : Nat)
  | other
  deriving DecidableEq, Repr
/-- The reading of a page's syndromes (R172). -/
def readSynd (d : Line × Line) : PageSay :=
  let cols := (natsFrom 0 64).map fun j => (byteAt d.1 j, byteAt d.2 j)
  match (cols.filter fun x => decide (x ≠ (0#8, 0#8))).map fun x => locate x.1 x.2 with
  | [] => .clean
  | none :: _ => .other
  | some k :: ls =>
    if (some k :: ls).all fun x => decide (x.getD 0 ≥ 32) then .parity
    else if ls.all fun x => decide (x = some k) then .word k
    else .other
/-- The page is stale (R167). -/
def isStale (s : State) (key : Nat) : Bool := s.err.stale.contains key
/-- Uncorrectable words of a page. -/
def pageUes (s : State) (key : Nat) : List Nat := (flipped s key).filter fun w => decide (wordSay s w = .uncorrectable)
/-- The second syndrome of every column verifies the erasure of word k of a page: each column's error, if it has one, is that word's
(R166, R168). -/
def erasureHolds (d : Line × Line) (k : Nat) : Bool := (natsFrom 0 64).all fun j => decide (gfPow k (byteAt d.1 j) = byteAt d.2 j)
/-- R168: an uncorrectable word can be rebuilt as an erasure. -/
def canRebuild (s : State) (w : Nat) : Bool :=
  let key := wordPage w
  !isStale s key && erasureHolds (seenSynd s key) (w - pageWord key) && decide ((pageUes s key).length ≤ 1)
/-- Word syndrome of a stored word: the check field that its data, as read, would have, against the one that is read. -/
def wordSyndrome (s : State) (w : Nat) : BitVec 16 :=
  let x := storedWord s w
  if wordFlips s w = 0#528 then 0 else checkField (x.setWidth 512) ^^^ (x >>> 512).setWidth 16
/-- Byte columns of a page whose syndromes are not zero. -/
def failingColumns (s : State) (key : Nat) : Nat :=
  let d := seenSynd s key
  ((natsFrom 0 64).filter fun j => !(byteAt d.1 j == 0#8 && byteAt d.2 j == 0#8)).length
/-- DETAIL of a record about a DRAM word (R376): its slot offset, the page's stale bit, whether the word is rebuilt as an erasure, its
syndrome, and the number of failing columns of its page (log entry 92). -/
def dramDetail (s : State) (c off : Nat) (erasure : Bool) : BitVec 192 :=
  let key := pageKey c off
  detWord off (isStale s key) erasure ||| detSyn ((wordSyndrome s (dramWord c off)).toNat + failingColumns s key * 2 ^ 16)
/-- Bits by which what a read delivers of a word differs from the data that stand for it: the first syndromes of its page, where it is
rebuilt as an erasure (R166), and the bits with which it passes wrongly. -/
def readOff (s : State) (w : Nat) : Line :=
  match wordSay s w with
  | .uncorrectable => (seenSynd s (wordPage w)).1
  | .passes r _ => r
  | _ => 0#512
/-- A byte of a core's DRAM as a read delivers it (R168). -/
def dramByte (s : State) (c off : Nat) : Byte :=
  rdByte s.mem (dramDpa c off) ^^^ byteAt (readOff s (dramWord c off)) (off % 64)
/-- Device memory with every word as a read would deliver it. -/
def dramMem (s : State) : Mem :=
  s.err.dram.foldl (fun m e => if readOff s e.1 = 0#512 then m else wrLine m (64 * e.1) (rdLine m (64 * e.1) ^^^ readOff s e.1)) s.mem

/-- Adds to the count of corrected words of a tier's DRAM layer (R194). -/
def countCe (s : State) (c : Nat) : State :=
  { s with memc := { s.memc with ce := mmod s.memc.ce (tierOf c) 0 (· + 1) } }
/-- Counts an uncorrectable event (R194). -/
def countUe (s : State) : State := { s with memc := { s.memc with ue := s.memc.ue + 1 } }
/-- Places a page in its region's repair queue of 16; a full queue drops and counts it (R168). -/
def queueRepair (s : State) (c page : Nat) : State :=
  s.modRegion c fun r =>
    if r.repairQ.contains page then r
    else if r.repairQ.length < 16 then { r with repairQ := r.repairQ ++ [page] }
    else { r with dropped := r.dropped + 1 }
/-- Unit that names a DRAM word's bank: the NBU's sub-unit (R170). -/
def bankUnit (s : State) (c off : Nat) : W32 := coreUnit s c (64 + bankOf off)

/-- Words of a range of a DRAM slot with bits in error. -/
def dramMarks (s : State) (c off n : Nat) : SMap (BitVec 528) :=
  let lo := dramWord c off
  let hi := cdiv (dramDpa c off + n) 64
  s.err.dram.filter fun e => decide (lo ≤ e.1) && decide (e.1 < hi)

/-- A demand read of DRAM (R168): the first word that cannot be delivered, if any. -/
def dramRead (s : State) (c off n : Nat) : State × Option Nat :=
  if s.memc.lost.contains (tierOf c) then (countUe s, some (off / 64 * 64))
  else (dramMarks s c off n).foldl (fun (acc : State × Option Nat) e =>
    match acc.2 with
    | some _ => acc
    | none =>
      let o := e.1 * 64 - dramDpa c 0
      match wordSay acc.1 e.1 with
      | .clean | .passes _ false => acc
      | .corrected | .passes _ true => (queueRepair (countCe acc.1 c) c (pageOf o), none)
      | .uncorrectable =>
        if canRebuild acc.1 e.1 then
          (report (queueRepair (countCe acc.1 c) c (pageOf o))
            { unit := bankUnit acc.1 c o, status := 0, cls := .corrected, detail := dramDetail acc.1 c o true }, none)
        else (countUe acc.1, some o)) (s, none)

/-- Every word of a range is encoded anew: the marks go. A parity delta leaves the columns as far from their codewords as they
were (R169). -/
def clearDramMarks (s : State) (lo hi : Nat) : State :=
  { s with err := { s.err with dram := s.err.dram.filter fun e => !(decide (lo ≤ e.1) && decide (e.1 < hi)) } }
/-- Sets or clears a page's stale bit. -/
def setStale (s : State) (key : Nat) (b : Bool) : State :=
  { s with err := { s.err with
      stale := if b then insertNat key s.err.stale else s.err.stale.filter fun k => decide (k ≠ key) } }
/-- The page's parity now matches its words as they are read. -/
def parityFresh (s : State) (key : Nat) : State :=
  { s with err := { s.err with synd := mset s.err.synd key (residSynd s key) (0#512, 0#512) } }
/-- A parity delta of the words of a range, as they were read, against new data: what they were read wrongly with stays in the columns
(R169). -/
def absorb (s : State) (key lo hi : Nat) : State :=
  let ws := (flipped s key).filter fun w => decide (lo ≤ w) && decide (w < hi)
  let d := ws.foldl (fun d w => addError d (w - pageWord key) (residual s w)) (pageSynd s key)
  { s with err := { s.err with synd := mset s.err.synd key d (0#512, 0#512) } }
/-- Stale pages of a region that a command or a row task has read whole, every word good or correctable: the parity is written
and the bit cleared (R167, R222). -/
def freshPages (s : State) (c : Nat) (whole : Nat → Bool) : State :=
  (s.err.stale.filter fun k => decide (k / 49152 = c) && whole (k % 49152)).foldl (fun st k => setStale (parityFresh st k) k false) s
/-- A page lies whole in a range of a slot, and before the offset at which the reading stopped. -/
def pageIn (a n : Nat) (stop : Option Nat) (page : Nat) : Bool :=
  decide (a ≤ 2048 * page ∧ 2048 * page + 2048 ≤ a + n) &&
    match stop with
    | some o => !(decide (a ≤ o) && decide (o < a + n)) || decide (2048 * page + 2048 ≤ o)
    | none => true

/-- R169 for the part of a write that falls in one page: marks, stale bit and records. The parity is recomputed from all 32
words when no word that the write leaves is uncorrectable. `a` and `n` are the part's slot
offset and length. The data are written by the caller. -/
def dramWritePage (s : State) (c a n : Nat) : State :=
  let key := pageKey c a
  let lo := dramWord c a
  let hi := cdiv (dramDpa c a + n) 64
  if n = 2048 then setStale (parityFresh (clearDramMarks s lo hi) key) key false
  else if isStale s key then clearDramMarks s lo hi
  else
    let bad := (pageUes s key).filter fun w => decide (lo ≤ w) && decide (w < hi)
    match bad.find? fun w => !canRebuild s w with
    | none =>
      if bad.isEmpty then clearDramMarks (absorb s key lo hi) lo hi else parityFresh (clearDramMarks s lo hi) key
    | some w =>
      let o := w * 64 - dramDpa c 0
      let unit := bankUnit s c o
      if (pageUes s key).any (fun v => !(decide (lo ≤ v) && decide (v < hi))) then
        report (setStale (clearDramMarks s lo hi) key true)
          { unit := unit, status := 0, cls := .contained, code := 3, detail := dramDetail s c o false ||| detWord 0 true false }
      else
        report (parityFresh (clearDramMarks s lo hi) key)
          { unit := unit, status := 0, cls := .contained, code := 2, detail := dramDetail s c o false }

/-- R169: some word is covered in part while its old contents cannot be had. -/
def dramPartialFails (s : State) (c off n : Nat) : Option Nat :=
  let part := fun (o : Nat) => decide (o % 64 ≠ 0)
  let at_ := fun (o : Nat) =>
    let w := dramWord c o
    if decide (wordSay s w = .uncorrectable) && !canRebuild s w then some (o / 64 * 64) else none
  (if part off then at_ off else none).orElse fun _ => if part (off + n) then at_ (off + n - 1) else none

/-- The parts of a range page by page: offset and length. -/
def pageParts : Nat → Nat → Nat → List (Nat × Nat)
  | 0, _, _ => []
  | k + 1, off, n =>
    if n = 0 then []
    else
      let m := min n (2048 - off % 2048)
      (off, m) :: pageParts k (off + m) (n - m)

/-- A word that a write covers in part, up to or from an offset inside it, is merged as it is read (R169). -/
def mendWord (s : State) (c o : Nat) (m : Mem) : Mem :=
  let w := dramWord c o
  if o % 64 = 0 ∨ readOff s w = 0#512 then m else wrLine m (64 * w) (wordData s w ^^^ readOff s w)
/-- A write of DRAM data (R169): the offset of a word that prevents it, if any. -/
def dramWrite (s : State) (c off : Nat) (bs : List Byte) : State × Option Nat :=
  match dramPartialFails s c off bs.length with
  | some o => (countUe s, some o)
  | none =>
    let m := mendWord s c (off + bs.length) (mendWord s c off s.mem)
    let s := (pageParts (bs.length / 2048 + 2) off bs.length).foldl (fun st p => dramWritePage st c p.1 p.2) s
    ({ s with mem := wrBytes m (dramDpa c off) bs }, none)

-- Ranges of NBU commands (R197, R198, R219)

/-- A range descriptor: first word, words, WR (R198). -/
structure Rng where
  ba : Nat
  words : Nat
  wr : Bool
  deriving DecidableEq, Repr

/-- Range k of a command (R205). -/
def cmdRange (l : Line) (k : Nat) : Rng :=
  let w := bits l (127 + 64 * k) (64 + 64 * k)
  ⟨w % 2 ^ 17, w / 2 ^ 17 % 2 ^ 17, w / 2 ^ 34 % 2 = 1⟩
/-- Slot offset of word BA of NBU n (R197). -/
def baOff (n ba : Nat) : Nat := (16 * (ba / 32) + n) * 2048 + 64 * (ba % 32)
/-- Bank word address of a slot offset. -/
def offBa (off : Nat) : Nat := 32 * (off / 32768) + off / 64 % 32
/-- Opcode of a command. -/
def cmdOp (l : Line) : Nat := bits l 7 0
/-- The command rewrites check words of blocks it wrote (R211). -/
def cmdRecomp (l : Line) : Bool := bit l 14

/-- A word lies in a range of NBU n. -/
def Rng.holds (r : Rng) (n off : Nat) : Bool :=
  decide (bankOf off = n) && decide (r.ba ≤ offBa off) && decide (offBa off < r.ba + r.words)

/-- A word (its slot offset) lies in a declared range of a command that runs in NBU n: its ranges, or for BCHK the data and
table words in every bank (R210, R219). -/
def cmdDeclares (l : Line) (n off : Nat) : Bool :=
  if cmdOp l = 0x0B then
    let d := bits l 378 352
    let lines := bits l 399 384
    let t := bits l 442 416
    let within := fun (lo len : Nat) => decide (lo < off + 64) && decide (off < lo + len)
    within d (64 * lines) || within t (4 * cdiv lines 64)
  else (cmdRange l 0).holds n off || (cmdRange l 1).holds n off || (cmdRange l 2).holds n off || (cmdRange l 3).holds n off

/-- A page lies in a declared output range of a command that runs in NBU n (R218). -/
def cmdOutputs (l : Line) (n page : Nat) : Bool :=
  if cmdOp l = 0x0B then
    let t := bits l 442 416
    !bit l 320 && decide (t < 2048 * page + 2048) && decide (2048 * page < t + 4 * cdiv (bits l 399 384) 64)
  else decide (page % 16 = n) && (natsFrom 0 4).any fun k =>
    let r := cmdRange l k
    r.wr && decide (r.ba < 32 * (page / 16) + 32 ∧ 32 * (page / 16) < r.ba + r.words)
/-- A word of a region that a running NBU command declares, or that the mirror holds (R219, R230). -/
def wordBusy (s : State) (c off : Nat) : Bool :=
  let r := s.regionAt c
  (match r.mirror with
    | some m => decide (m ≤ off) && decide (off < m + 513 * 64)
    | none => false) ||
  r.nbus.any fun e =>
    match e.2.running with
    | some run => cmdDeclares run.cmd.cmd e.1 off
    | none => false
/-- First busy word of a write, by line. -/
def firstBusy (s : State) (c : Nat) : Nat → Nat → Option Nat
  | 0, _ => none
  | k + 1, off => if wordBusy s c off then some off else firstBusy s c k (off + 64)
/-- A region has anything that could make a word busy. -/
def regionGuarded (s : State) (c : Nat) : Bool :=
  let r := s.regionAt c
  r.mirror.isSome || r.nbus.any fun e => e.2.running.isSome
/-- First busy word that n bytes at an offset touch. -/
def busyIn (s : State) (c off n : Nat) : Option Nat :=
  if regionGuarded s c then firstBusy s c (cdiv (off % 64 + n) 64) (off / 64 * 64) else none

-- Commands stopped mid-way (R222, R223)

/-- A free choice between two outcomes that depend on the moment of a stop, and the state that has drawn it (R222). -/
def drawBool (s : State) : Bool × State := (decide ((Config.freeByte s.free).toNat % 2 = 0), s.draw)
/-- Bytes cut into pieces that end at word boundaries, with their offsets. -/
def wordPieces : Nat → Nat → List Byte → List (Nat × List Byte)
  | 0, _, _ => []
  | k + 1, off, bs =>
    if bs.isEmpty then []
    else
      let m := 64 - off % 64
      (off, bs.take m) :: wordPieces k (off + m) (bs.drop m)
/-- One word of a stopped command: it holds its old value, or the value that the command wrote with its check bits (R220, R222). Answers the pages in
which words were written. -/
def stopWord (c : Nat) (acc : State × List Nat) (w : Nat × List Byte) : State × List Nat :=
  let d := drawBool acc.1
  if d.1 then (d.2, acc.2)
  else
    let k := dramWord c w.1
    ({ clearDramMarks d.2 k (k + 1) with mem := wrBytes d.2.mem (dramDpa c w.1) w.2 }, insertNat (pageKey c w.1) acc.2)
/-- A page in which words were written becomes stale unless its parity had been written back since (R222). -/
def stopPage (acc : State × Nat) (key : Nat) : State × Nat :=
  let d := drawBool acc.1
  if d.1 then (d.2, acc.2) else (setStale d.2 key true, acc.2 + 1)
/-- What a stop leaves of an NBU: the counts and the last command of its status line, of which the rules of a stop say nothing (R156,
R215, R223; log entry 94). -/
def Nbu.stopped (u : Nbu) : Nbu :=
  { Nbu.empty with lastTag := u.lastTag, lastStatus := u.lastStatus, completed := u.completed, yields := u.yields, discarded := u.discarded }
/-- Stops every command of a region (R222, R223): queues, results, groups and query slots are dropped; words and stale bits
are left as the moment of the stop has them, and one record gives the number of pages that became stale. A service-path write that
waited at a full queue is decided again, by the region's new mode (R31). -/
def stopRegion (s : State) (c : Nat) : State :=
  let r := s.regionAt c
  let words := r.nbus.flatMap fun e =>
    match e.2.running with
    | some run => run.writes.flatMap fun w => wordPieces (w.2.length / 64 + 2) w.1 w.2
    | none => []
  let a := words.foldl (stopWord c) (s, [])
  let b := a.2.foldl stopPage (a.1, 0)
  let again := r.nbus.filterMap fun e => e.2.waitWrite.map fun q => PathReq.window e.1 0 q.cmd
  let s := b.1.setRegion c { r with nbus := mall r.nbus Nbu.empty Nbu.stopped, behind := again ++ r.behind, groups := [], chkBase := 0xFFFFFFFF#32, mode := .normal }
  if b.2 = 0 then s
  else report s { unit := coreUnit s c 80, status := 0, cls := .contained, code := 3, count := b.2 }
/-- Stops the NBU commands of a list of regions. -/
def stopRegions (s : State) (cs : List Nat) : State := cs.foldl stopRegion s

end Sys2Proof.Machine
end

