-- ==== Sys2Proof/Machine/Recover.lean ====
section
/-! DEFINITION. What follows a fault: partition faults and their episodes (R392 to R395), partition reset (R156), FAILED,
quarantine (R388, R389), DEGRADED (R397), and descriptors that wait for a partition. -/

namespace Sys2Proof.Machine

-- Descriptors that run until something else happens

/-- Opcode of a descriptor (R269). -/
def descOp (d : Line) : Nat := bits d 7 0
/-- SEQ of a descriptor. -/
def descSeq (d : Line) : W32 := BitVec.ofNat 32 (bits d 63 32)
/-- Finishes the first running descriptor of a list that meets a condition. -/
def finishFirst (ok : Line → Bool) (st : Status) (det : BitVec 128) (t : W64) : List DescEntry → List DescEntry
  | [] => []
  | e :: es =>
    if decide (e.phase = .running) && ok e.desc then { e with phase := .done st det t } :: es
    else e :: finishFirst ok st det t es
/-- DETAIL of a completion that is not OK: the unit concerned, or none (R271). -/
def detUnit (unit : W32) : BitVec 128 := BitVec.ofNat 128 unit.toNat
/-- Finishes the running descriptor of a channel that meets a condition. -/
def finishDesc (s : State) (ch : Nat) (ok : Line → Bool) (st : Status) (det : BitVec 128) : State :=
  s.modChan ch fun c => { c with q := finishFirst ok st det s.time.now c.q }

/-- Finishes every running descriptor of a list that meets a condition. -/
def finishRunning (ok : Line → Bool) (st : Status) (det : BitVec 128) (t : W64) (q : List DescEntry) : List DescEntry :=
  q.map fun e => if decide (e.phase = .running) && ok e.desc then { e with phase := .done st det t } else e
/-- Finishes the running descriptors of every channel that meet a condition. -/
def finishEvery (s : State) (ok : Line → Bool) (st : Status) (det : BitVec 128) : State :=
  { s with hst := { s.hst with
      chans := mall s.hst.chans Channel.closed0 fun c => { c with q := finishRunning ok st det s.time.now c.q } } }

/-- A PART_CTRL QUIESCE of a partition (R275). -/
def isQuiesce (p : Nat) (d : Line) : Bool := decide (descOp d = 0x1A) && decide (bits d 74 72 = 1) && decide (bits d 69 64 = p)
/-- A PART_SNAPSHOT of a partition. -/
def isPartSnapshot (p : Nat) (d : Line) : Bool := decide (descOp d = 0x1D) && decide (bits d 69 64 = p)
/-- A KV_SEQ of a context with an action. -/
def isKvSeq (ctx action : Nat) (d : Line) : Bool :=
  decide (descOp d = 0x53) && decide (bits d 71 64 = ctx) && decide (bits d 74 72 = action)

/-- The waiting PART_SNAPSHOT of a partition ends with STATE_CONFLICT (R277). -/
def dropSnapReq (s : State) (p : Nat) : State :=
  match s.part? p with
  | some v =>
    if v.snapReq.isNone then s
    else (finishEvery s (isPartSnapshot p) .stateConflict (detUnit noUnit)).modPart p fun v => { v with snapReq := none }
  | none => s
/-- The held QUIESCE of a partition ends. -/
def endQuiesce (s : State) (p : Nat) (st : Status) : State :=
  match s.part? p with
  | some v =>
    if v.quiesce.isNone then s
    else (finishEvery s (isQuiesce p) st (if st = .ok then 0 else detUnit noUnit)).modPart p fun v => { v with quiesce := none }
  | none => s

-- Batches (R248)

/-- Sequence of a context. -/
def kvSeqOf (s : State) (ctx : Nat) : Option KvSeq := s.kv.seqs.find? fun q => decide (q.ctx = ctx)
/-- Changes the sequence of a context. -/
def modKvSeq (s : State) (ctx : Nat) (f : KvSeq → KvSeq) : State :=
  { s with kv := { s.kv with seqs := s.kv.seqs.map fun q => if q.ctx = ctx then f q else q } }
/-- Removes the sequence of a context. -/
def dropKvSeq (s : State) (ctx : Nat) : State :=
  { s with kv := { s.kv with seqs := s.kv.seqs.filter fun q => decide (q.ctx ≠ ctx) } }
/-- Bucket of a context length (R246). -/
def bucketOf (n : Nat) : Nat := min 15 (n.log2 - 5)
/-- Releases a context from its formed batch; a pending PAUSE or REMOVE takes effect and completes (R248, R277). -/
def releaseCtx (s : State) (ctx : Nat) : State :=
  match kvSeqOf s ctx with
  | none => s
  | some q =>
    match q.wantRemove with
    | some ch =>
      let det := BitVec.ofNat 128 (bucketOf q.length)
      let s := match q.wantPause with
        | some k => finishDesc s k (isKvSeq ctx 1) .ok det
        | none => s
      finishDesc (dropKvSeq s ctx) ch (isKvSeq ctx 3) .ok det
    | none =>
      match q.wantPause with
      | some ch =>
        finishDesc (modKvSeq s ctx fun q => { q with formed := false, paused := true, wantPause := none }) ch (isKvSeq ctx 1) .ok
          (BitVec.ofNat 128 (bucketOf q.length))
      | none =>
        let now := s.kv.clock
        modKvSeq { s with kv := { s.kv with clock := now + 1 } } ctx fun q => { q with formed := false, since := now }
/-- Releases every formed batch of a partition. -/
def releaseBatches (s : State) (p : Nat) : State :=
  match s.part? p with
  | some v => (v.batches.foldl (fun st b => b.ctxs.foldl releaseCtx st) s).modPart p fun v => { v with batches := [] }
  | none => s

-- Ops that a reset ends (R129, R134, R156)

/-- Record i of a core's op list (R96). -/
def recAt (s : State) (c i : Nat) : Rec := BitVec.ofNat 256 (rdNat s.mem (sramDpa c (32 * i)) 32)
/-- Sub-unit (R21) of the unit that carries an op out. -/
def subOf (u : OpUnit) : Nat :=
  match u with
  | .arrays m => if m.val % 2 = 1 then 1 else if m.val / 2 % 2 = 1 then 2 else if m.val / 4 % 2 = 1 then 3 else 4
  | .vfu => 101 | .qu => 102 | .snd _ => 100 | .rcv _ => 100 | .router => 100 | .chimney => 96 | .chk => 103 | .sequencer | .barrier _ => 104
/-- DETAIL byte 1 of a record about an array op whose fault is not of one array: the first that it uses; an MMAP has its problem's index
there (R376; log entry 92). -/
def firstArray (rcd : Rec) : Nat :=
  match bits rcd 7 0 with
  | 0x01 | 0x03 => subOf (.arrays (Fin.ofNat 16 (bits rcd 67 64)))
  | _ => 0
/-- What a faulting op reports (R129, R374). -/
def opReport (s : State) (c sub index : Nat) (rcd : Rec) (st : Status) (code : Nat) (det : BitVec 192) : Report :=
  { unit := coreUnit s c sub, status := st.code, cls := .partitionFatal, opSpace := 1, opcode := bits rcd 7 0,
    opIndex := index, code := code, detail := det ||| detOp 0 (if bits det 15 8 = 0 then firstArray rcd else 0) 0 }
/-- The ops of a core that have started and not ended, by sub-unit, record index and record: on the units, and on the sequencer a
WAIT, BAR or IDLE, a barrier joined with NOWAIT, and a SIG in its slot. -/
def openOps (s : State) (c : Nat) : List (Nat × Nat × Rec) :=
  let k := s.coreAt c
  (k.inflight.map fun r => (subOf r.unit, r.index, r.rcd)) ++
    (if k.wait.isSome then [(104, k.pc, recAt s c k.pc)] else []) ++
    (k.nowait.map fun e => (104, e.2, recAt s c e.2)) ++
    (match k.sig with
      | some g => [(104, g.index, recAt s c g.index)]
      | none => [])
/-- Ops that a reset ends have the status RESET_ABORTED, in a record of class CONTAINED each (R129, R156; log entry 67). -/
def abortOps (s : State) (c : Nat) : State :=
  (openOps s c).foldl (fun st e =>
    report st { opReport st c e.1 e.2.1 e.2.2 .resetAborted 0 0 with cls := .contained, part := st.ownerOf c }) s

-- Reset of a partition's compute domains (R156)

/-- A core's compute domain after reset: the counters of R93, the cycle counter with its offset (R328) and the fault memory go
on. -/
def Core.resetCompute (k : Core) : Core :=
  { Core.empty with ctr := k.ctr, gatedRem := k.gatedRem, cycBase := k.cycBase, frozen := k.frozen, offset := k.offset,
                    faultTime := k.faultTime,
                    scrubLine := k.scrubLine, scrubStart := k.scrubStart }
/-- Who consumes an input stream: the owner of the route on it, else the core's partition (R143). -/
def inOwner (s : State) (k : Nat) : Option Nat :=
  match s.routes.find? fun r => decide (streamKey r.core r.inPort r.inStream = k) with
  | some r => some r.owner
  | none => s.ownerOf (k / 96)
/-- Who feeds an output stream. -/
def outOwner (s : State) (k : Nat) : Option Nat :=
  match s.routes.find? fun r => decide (streamKey r.core r.outPort r.outStream = k) with
  | some r => some r.owner
  | none => s.ownerOf (k / 96)
/-- The facing side of a link: the key at the neighbour that a line sent on key k reaches, and back. -/
def facing (k : Nat) : Option Nat :=
  match neighbour (k / 96) (k / 16 % 6) with
  | some (c, p) => some (streamKey c p (k % 16))
  | none => none
/-- The sender of an input stream holds a credit for each line of its buffer that is free, on no wire and not on its way back
(R137). -/
def matchCredit (s : State) (k : Nat) : State :=
  match facing k with
  | none => s
  | some f =>
    let v := s.streamAt k
    let coming := v.wire.countP fun i => match i with
      | .line _ => true
      | _ => false
    s.modStream f fun u => { u with credits := 8 - v.buf.length - coming - u.creditsBack }
/-- Key of the port controller's end of a stream of a port core's D port: the lines on their way into the link. -/
def ctlKey (p st : Nat) : Nat := streamKey (2047 + p) 4 st
/-- The Muold port at the far side of a core's D port. -/
def dPort (c port : Nat) : Option Nat := if port = 5 then portOfCore c else none
/-- The key at which what a router sends on a port and stream arrives. -/
def wireKey (c port st : Nat) : Option Nat :=
  match neighbour c port with
  | some (d, q) => some (streamKey d q st)
  | none => (dPort c port).map fun p => ctlKey p st
/-- The output stream of a port core whose lines a key of a port controller holds (R161). -/
def ctlSource (k : Nat) : Option Nat :=
  if k / 96 ≥ 2048 then some (streamKey (portCore (k / 96 - 2047)) 5 (k % 16)) else none
/-- Frees flits of a Muold port's receive buffers (R292). -/
def freeFlits (s : State) (c port : Nat) (vcs : List Nat) : State :=
  match dPort c port with
  | some p => s.modPort p fun v => { v with freed := vcs.foldl (fun m vc => mmod m vc 0 (· + 1)) v.freed }
  | none => s
/-- A line on a link. -/
def WireItem.isLine : WireItem → Bool
  | .line _ => true
  | _ => false
/-- Lines that stand in the buffer which an output stream feeds, or on their way to it (R137, R161). -/
def linesAhead (m : SMap Stream) (k : Nat) : Nat :=
  match wireKey (k / 96) (k / 16 % 6) (k % 16) with
  | some f => let v := mget m f Stream.empty; v.buf.length + (v.wire.filter WireItem.isLine).length
  | none => 0
/-- The receiving side of a stream, cleared. -/
def Stream.clearIn (v : Stream) : Stream :=
  { v with buf := [], wire := [], recvPos := 0, recvCrc := 0xFFFFFFFF#32, recvSince := 0, passed := none }
/-- The sending side of a stream, cleared, with the credits of the buffer ahead that holds n lines. -/
def Stream.clearOut (v : Stream) (n : Nat) : Stream :=
  { v with sendPos := 0, credits := 8 - n, creditsBack := 0, sendCrc := 0xFFFFFFFF#32, sendSince := 0 }
/-- Changes every listed stream; what is as an untouched stream is listed no longer. -/
def mapStreams (m : SMap Stream) (f : Nat → Stream → Stream) : SMap Stream :=
  m.filterMap fun e => let v := f e.1 e.2; if v = Stream.empty then none else some (e.1, v)
/-- Clears the sides of the listed streams that a test names: first the receiving sides, then the sending ones. -/
def clearStreams (m : SMap Stream) (inMine outMine : Nat → Bool) : SMap Stream :=
  let m := mapStreams m fun k v => if inMine k then v.clearIn else v
  mapStreams m fun k v => if outMine k then v.clearOut (linesAhead m k) else v
/-- Virtual channels of the flits whose ends stand on a link. -/
def flitEnds (w : List WireItem) : List Nat :=
  w.filterMap fun i => match i with
    | .flitEnd vc => some vc
    | _ => none
/-- The flits of D ports whose lines are discarded leave their receive buffers (R292). -/
def freeCleared (s : State) (inMine : Nat → Bool) : State :=
  s.stream.foldl (fun st e => if inMine e.1 then freeFlits st (e.1 / 96) (e.1 / 16 % 6) (flitEnds e.2.wire) else st) s
/-- Clears a partition's own streams in every router, and its lines in the port controllers, and restores their credits (R156, R159,
R312). -/
def resetStreams (s : State) (p : Nat) : State :=
  let outs := fun k => decide (outOwner s k = some p)
  let inMine := fun k => match ctlSource k with
    | some o => outs o
    | none => decide (inOwner s k = some p)
  let outMine := fun k => outs k || (match facing k with
    | some f => decide (inOwner s f = some p)
    | none => false)
  { freeCleared s inMine with stream := clearStreams s.stream inMine outMine }
/-- Removes every route of a partition. -/
def removeRoutes (s : State) (p : Nat) : State := { s with routes := s.routes.filter fun r => decide (r.owner ≠ p) }
/-- Installs a plan's declared routes (R144). -/
def installDeclared (s : State) (p : Nat) : State :=
  match s.part? p with
  | some v =>
    match v.plan with
    | some pl => { s with routes := s.routes ++ pl.routes }
    | none => s
  | none => s
/-- The device has sent its ARRIVE for a SNAP barrier whose RELEASE will decide a finished copy (R391, R396). -/
def Barrier.undecided (b : Barrier) (snaps : List Snapshot) : Bool :=
  b.snap && b.sentArrive && snaps.any fun x => decide (x.part = b.part ∧ x.state = 2)
/-- Clears the arrivals of a partition held in the hearth (R396); a barrier that will decide a snapshot stays. -/
def clearArrivals (s : State) (p : Nat) : State :=
  { s with bars := s.bars.filterMap fun b =>
      if b.part ≠ p then some b else if b.undecided s.snaps then some { b with arrived := [] } else none }
/-- Ends every op of a partition and stops its sequencers. -/
def stopCores (s : State) (p : Nat) : State :=
  match s.part? p with
  | some v => v.cores.foldl (fun st c => (abortOps st c).modCore c Core.resetCompute) s
  | none => s
/-- A snapshot that a partition's copy has not completed is not taken (R277, R395). -/
def dropCopy (s : State) (p : Nat) : State :=
  { s with snaps := s.snaps.filter fun x => decide (¬(x.part = p ∧ x.state = 1)) }
/-- The waiting mode requests and admissions of some cores' regions end with a status (R156). -/
def dropModeWaits (s : State) (cores : List Nat) (st : Status) : State :=
  let keep := fun (a : Admit) => !(decide (a.kind = .nbu) && cores.contains a.target)
  let s := cores.foldl (fun t c => t.modRegion c fun r => { r with modeReqs := [] }) s
  finishEvery { s with pwr := { s.pwr with tiers := mall s.pwr.tiers TierPwr.empty fun v => { v with queue := v.queue.filter keep } } }
    (fun d => decide (descOp d = 0x20) && cores.contains (bits d 74 64)) st (detUnit noUnit)
/-- CP_PUTs that run into a partition end, and their lines stay written (R284). -/
def endPuts (s : State) (p : Nat) : State :=
  { s with hst := { s.hst with chans := mall s.hst.chans Channel.closed0 fun v =>
      if v.kind = 0 ∧ v.part = p then
        { v with q := finishRunning (fun d => decide (descOp d = 0x60)) .resetAborted (detUnit noUnit) s.time.now v.q }
      else v } }
/-- Op part of the DETAIL of a record that a descriptor causes: its channel's handle and its SEQ (R257, R376). -/
def detDesc (s : State) (ch : Nat) (d : Line) : BitVec 192 :=
  BitVec.ofNat 192 (ch + (s.chanAt ch).gen * 2 ^ 18 + (descSeq d).toNat * 2 ^ 32)
/-- TAG. -/
def cmdTag (l : Line) : Nat := bits l 47 32
/-- DETAIL of a record about an NBU command (R217, R376). -/
def nbuDetail (s : State) (c : Nat) (l : Line) (v : Nat) (loc : Option Nat) : BitVec 192 :=
  let op := BitVec.ofNat 192 (cmdTag l + cmdOp l * 2 ^ 16 + v * 2 ^ 32)
  match loc with
  | some o => op ||| dramDetail s c o false
  | none => op
/-- The report of an NBU command. -/
def nbuReport (s : State) (c n : Nat) (l : Line) (st : Status) (v : Nat) (loc : Option Nat) : Report :=
  { unit := coreUnit s c (64 + n), status := st.code, cls := .contained, opSpace := 2, opcode := cmdOp l, part := s.ownerOf c,
    detail := nbuDetail s c l v loc }
/-- The commands that run in a region's NBUs end with their partition's reset (R217, R223, R251; log entry 88): a record for each. -/
def abortNbus (s : State) (c : Nat) : State :=
  (s.regionAt c).nbus.foldl (fun st e => match e.2.running with
    | some run => report st (nbuReport st c e.1 run.cmd.cmd .resetAborted 0 run.loc)
    | none => st) s
/-- Partition reset (R156): the effects on cores, streams, routes, regions and barriers; the state is set by the caller. -/
def resetPartition (s : State) (p : Nat) : State :=
  match s.part? p with
  | none => s
  | some v =>
    let s := stopCores (dropCopy (endPuts s p) p) p
    let s := resetStreams s p
    let s := removeRoutes s p
    let s := installDeclared s p
    let s := stopRegions (v.cores.foldl abortNbus (dropModeWaits s v.cores .resetAborted)) v.cores
    let s := clearArrivals s p
    let s := releaseBatches s p
    s.modPart p fun v => { v with rotWanted := [], rotating := [] }

-- FAILED and DEGRADED

/-- Resets the router domain of a core (R156, R157): the streams of this router are cleared, the sides that face it get their credits
back, and its own sending sides those of the buffers ahead; its routes are removed and those of every partition reinstalled, and
LINK_CORRECTED starts again. -/
def resetRouter (s : State) (c : Nat) : State :=
  let mine := fun k => decide (k / 96 = c)
  let facesMe := fun k => mine k || (match facing k with
    | some f => mine f
    | none => false)
  { freeCleared s mine with
    stream := clearStreams s.stream mine facesMe,
    linkCorr := s.linkCorr.filter fun e => decide (e.1 / 6 ≠ c) }
/-- The partition still runs, or waits for its recovery. -/
def stillRuns (s : State) (p : Nat) : Bool :=
  match (s.part? p).map Partition.state with
  | some .running | some .recovering => true
  | _ => false
/-- Routers whose fault has stopped every partition that crossed them are reset (R159). -/
def settleRouters (s : State) : State :=
  let ready := s.ras.routerDue.filter fun e => !e.2.any (stillRuns s)
  let s := ready.foldl (fun st e => resetRouter st e.1) s
  { s with ras := { s.ras with routerDue := s.ras.routerDue.filter fun e => !ready.contains e } }

/-- A partition enters FAILED: sequencers stopped, routes removed (R148); waiting requests end (R149, R277). -/
def failPartition (s : State) (p : Nat) : State :=
  match s.part? p with
  | none => s
  | some v =>
    if v.state = .failed then s
    else
      let s := dropSnapReq (endQuiesce s p .stateConflict) p
      let s := removeRoutes (resetStreams (stopCores (dropCopy s p) p) p) p
      settleRouters ((clearArrivals s p).modPart p fun v => { v with state := .failed, rotWanted := [], rotating := [] })

/-- Some cause of DEGRADED holds (R397). -/
def degradeCause (s : State) : Bool :=
  s.chim.any (fun e => !e.2.disabled.isEmpty) || !s.ras.disabledLog.isEmpty ||
  s.pwr.tiers.any (fun e => e.2.bypass || e.2.failed) || s.clk.tiers.any (fun e => e.2.toBypass) || s.thm.ageing.any (fun e => e.2.lost) || !s.ras.quar.isEmpty
/-- READY becomes DEGRADED once a cause holds. -/
def checkDegraded (s : State) : State :=
  if decide (s.dev.state = .ready) && degradeCause s then setDevState s .degraded else s

-- Partition faults (R129, R392, R394, R395)

/-- A fault during or after the restore: recovery starts again from the reset, or ends at the third fault (R394, R395). -/
def restartRecovery (s : State) (p : Nat) (r : Report) : State :=
  match s.part? p with
  | none => s
  | some v =>
    if v.faults ≥ 2 then
      report (failPartition (s.modPart p fun v => { v with faults := 3 }) p)
        { r with cls := .partitionFatal, part := some p, code := 0x0E }
    else
      let a := retestAction s { r with cls := .partitionFatal, part := some p, code := 0x0D }
      (clearArrivals (report a.1 { r with cls := .partitionFatal, part := some p, code := 0x0D, action := a.2 }) p).modPart p fun v =>
        { v with epoch := v.epoch + 1, faults := v.faults + 1, restored := false }

/-- A fault in a partition. In RUNNING it starts recovery, or ends it at the third fault of the episode; while the
recovery's reset is still to come it belongs to the first fault, and behind it recovery starts again; in any other state it moves
nothing. -/
def partFault (s : State) (p : Nat) (r : Report) : State :=
  match s.part? p with
  | none => report s { r with cls := .contained }
  | some v =>
    match v.state with
    | .running =>
      if v.faults ≥ 2 then
        report (failPartition (s.modPart p fun v => { v with faults := 3 }) p)
          { r with cls := .partitionFatal, part := some p, code := 0x0E }
      else
        let s := dropSnapReq s p
        let a := retestAction s { r with cls := .partitionFatal, part := some p }
        (report a.1 { r with cls := .partitionFatal, part := some p, action := max r.action a.2 }).modPart p fun v =>
          { v with state := .recovering, epoch := v.epoch + 1, faults := v.faults + 1, restored := false }
    | .recovering => if v.restored then restartRecovery s p r else report s { r with cls := .contained, part := some p }
    | _ => report s { r with cls := .contained, part := some p }

-- Quarantine (R388, R389)

/-- ACTION of a quarantine record (R384). -/
def quarAction (s : State) : Nat := if s.ras.quar.length ≥ 64 then 4 else 2
/-- A core goes on the quarantine list, and its compute domain is held in reset without clock (R389). -/
def fenceCore (s : State) (c : Nat) (router : Bool) : State :=
  let q := s.ras.quar.filter (fun x => decide (x.core ≠ c)) ++ [⟨c, router || s.isRouterQuar c⟩]
  let raw := s.rawCycles c
  let s := keepStored (abortOps s c)
  let s := { s with ras := { s.ras with quar := q } }
  s.modCore c fun k => { k.resetCompute with frozen := some raw }
/-- Takes a core out of service: on the list at once, compute domain held in reset without clock, partition FAILED. -/
def quarantineCore (s : State) (c : Nat) (router : Bool) (r : Report) : State :=
  let owner := s.ownerOf c
  let s := fenceCore s c router
  let s := match owner with
    | some p => failPartition s p
    | none => s
  checkDegraded (report s { r with cls := .partitionFatal, part := owner, action := quarAction s })
/-- R372: a residue fault on a core; the second within 1 s of global time quarantines it. -/
def residueFaultTwice (s : State) (c : Nat) : Bool :=
  match (s.coreAt c).faultTime with
  | some t => s.within t oneS
  | none => false

end Sys2Proof.Machine
end

