-- ==== Sys2Proof/Machine/Links.lean ====
section
/-! DEFINITION. What several families share about a core's failing op (R129), commit groups that abort (R281 to R283),
Muold ports and their flits (R286 to R306), and entry to SAFE (R322, R398). -/

namespace Sys2Proof.Machine

-- Ops that end with a fault

/-- R129: the sequencer enters FAULTED and issues nothing more; ops that run on other units complete. -/
def Core.toFaulted (k : Core) : Core := { k with seq := .faulted, wait := none, queued := [] }
/-- A fault of an op (R129): the record and what follows it. An op that ends while the core is FAULTED already belongs to the
first fault. -/
def opFault (s : State) (c : Nat) (r : Report) : State :=
  let already := decide ((s.coreAt c).seq = .faulted)
  let s := s.modCore c Core.toFaulted
  match s.ownerOf c with
  | some p => if already then report s { r with cls := .contained, part := some p } else partFault s p r
  | none => report s { r with cls := .contained }
/-- Removes the op that a unit has run longest. -/
def Core.dropRun (k : Core) (u : OpUnit) : Core :=
  { k with inflight := k.inflight.eraseP fun r => decide (r.unit = u) }
/-- Ends a running op with a status and no further results. -/
def endOp (s : State) (c : Nat) (r : OpRun) (st : Status) (code : Nat := 0) : State :=
  opFault (s.modCore c fun k => k.dropRun r.unit) c
    (opReport s c r.sub r.index r.rcd st code (r.detail ||| detOp r.flags 0 0))

/-- The op uses a stream of the D port: SND, RCV, or RED with D among its ports (R101, R108). -/
def usesD (r : OpRun) : Bool :=
  match r.unit with
  | .snd p => decide (p.val = 5)
  | .rcv p => decide (p.val = 5)
  | .vfu => decide (bits r.rcd 7 0 = 0x05) && (bit r.rcd 73 || bit r.rcd 79)
  | _ => false

-- Commit groups

/-- A descriptor with the GROUP_TAG of a group. -/
def withTag (d : Line) (tag : BitVec 16) : Line := d &&& ~~~(0xFFFF0000#512) ||| (tag.setWidth 512 <<< 16)
/-- DETAIL of every member of an aborted group (R283). -/
def GroupFail.detail (f : GroupFail) : BitVec 128 :=
  BitVec.ofNat 128 (f.unit.toNat + f.seq.toNat * 2 ^ 32 + f.status.code * 2 ^ 64 + f.pos * 2 ^ 72)
/-- The members of a group with a tag, finished alike: a descriptor with another tag that has ended the group is a member of it
(R271, R282). -/
def doneMembers (tag : BitVec 16) (ms : List Line) (st : Status) (det : BitVec 128) (t : W64) : List DescEntry :=
  ms.map fun d => ⟨withTag d tag, .done st det t, true, 0⟩
/-- Aborts the open group of a channel (R281, R282). -/
def abortGroup (s : State) (ch : Nat) (f : GroupFail) : State :=
  let c := s.chanAt ch
  match c.group with
  | some g => s.setChan ch { c with group := none, q := c.q ++ doneMembers g.tag g.members .groupAborted f.detail s.time.now }
  | none => s
/-- The last member fetched of a group, as the named member. -/
def lastMember (ms : List Line) (st : Status) : GroupFail :=
  ⟨noUnit, descSeq (ms.getLastD 0#512), st, ms.length - 1⟩
/-- Ends every descriptor of a list that is not finished and meets a condition. -/
def endEntries (ok : DescEntry → Bool) (st : Status) (t : W64) (q : List DescEntry) : List DescEntry :=
  q.map fun e =>
    match e.phase with
    | .done .. => e
    | _ => if ok e then { e with phase := .done st (detUnit noUnit) t } else e
/-- The fetched descriptors that belong to the open group of a channel: up to the one that ends it, or that cannot be its member
(R280, R282). -/
def groupPrefix (tag : BitVec 16) : List Line → List Line × List Line
  | [] => ([], [])
  | d :: t =>
    if bit d 11 || bit d 10 || decide (bits d 31 16 ≠ tag.toNat) then ([d], t)
    else
      let r := groupPrefix tag t
      (d :: r.1, r.2)
/-- Every member of an open group that has been fetched joins it unchecked. -/
def joinFetched (s : State) (ch : Nat) : State :=
  s.modChan ch fun v =>
    match v.group with
    | none => v
    | some g =>
      let r := groupPrefix g.tag v.raw
      { v with raw := r.2, nextSeq := v.nextSeq + BitVec.ofNat 32 r.1.length, group := some { g with members := g.members ++ r.1 } }
/-- The members of the open group of a channel. -/
def groupMembers (s : State) (ch : Nat) : List Line :=
  match (s.chanAt ch).group with
  | some g => g.members
  | none => []
/-- Every descriptor that a channel has fetched completes with a status (R398). -/
def abortFetched (s : State) (ch : Nat) (st : Status) : State :=
  s.modChan ch fun c =>
    let ms := match c.group with
      | some g => doneMembers g.tag g.members st (detUnit noUnit) s.time.now
      | none => []
    { c with
      q := endEntries (fun _ => true) st s.time.now c.q ++ ms ++
        c.raw.map (fun d => ⟨d, .done st (detUnit noUnit) s.time.now, false, 0⟩),
      group := none, raw := [] }

-- Muold ports (R286 to R306)

/-- Virtual channels by their codes (R289): DATA, COLL, MGMT, TIME; buffers in flits (R292). -/
def vcBuffer : Nat → Nat
  | 0 => 128 | 1 => 64 | 2 => 8 | _ => 2
/-- Credits of a port that has just come UP. -/
def fullCredits : SMap Nat := [(0, 128), (1, 64), (2, 8), (3, 2)]
/-- CRC of a flit (R289). -/
def flitCrc (header : W64) (payload : BitVec 2048) : Nat :=
  crc32c (leBytes (bits header 31 0) 4 ++ bytesOf payload 256)
/-- A flit with its SEQ, ACK, returned credits and CRC. -/
def mkFlit (vc kind st nm1 : Nat) (nak : Bool) (seq ack : Byte) (cr : Nat × Nat) (payload : BitVec 2048) : Flit :=
  let h := vc + kind * 4 + st * 16 + nm1 * 256 + b2n nak * 1024 + seq.toNat * 2 ^ 11 + ack.toNat * 2 ^ 19 + cr.1 * 2 ^ 27 +
    cr.2 * 2 ^ 29
  ⟨BitVec.ofNat 64 (h + flitCrc (BitVec.ofNat 64 h) payload * 2 ^ 32), payload⟩
/-- Leading lines of a wire, at most n. -/
def takeLines : Nat → List WireItem → List Line
  | 0, _ => []
  | _ + 1, [] => []
  | n + 1, .line l :: t => l :: takeLines n t
  | _ + 1, .check _ :: _ => []
  | _ + 1, .flitEnd _ :: _ => []
/-- Streams of a virtual channel in their turn, from the one after the last served (R138). -/
def turnOrder (vc last : Nat) : List Nat :=
  if vc = 1 then (natsFrom 1 4).map fun i => 12 + (last - 12 + i) % 4 else (natsFrom 1 12).map fun i => (last + i) % 12
/-- Takes the next flit's items from a port controller's stream: the flit's kind, NLINES − 1 and payload. -/
def takeItems (w : List WireItem) : Option (Nat × Nat × BitVec 2048 × Nat × List WireItem) :=
  match w with
  | [] => none
  | .check v :: t => some (2, 0, BitVec.ofNat 2048 (1 + v.toNat * 2 ^ 32), 0, t)
  | .flitEnd _ :: _ => none
  | .line _ :: _ =>
    let ls := takeLines 4 w
    some (1, ls.length - 1, BitVec.ofNat 2048 (ls.foldr (fun l a => l.toNat + a * 2 ^ 512) 0), ls.length, w.drop ls.length)
/-- The credits that the next flit returns: one virtual channel's, at most 7 flits (R289, R292). -/
def Port.returning (v : Port) : Nat × Nat :=
  match v.freed.find? fun e => decide (e.2 > 0) with
  | some e => (e.1, min 7 e.2)
  | none => (0, 0)
/-- Puts a flit into a port's replay buffer (R291); a NAK that is due rides on it. -/
def Port.push (v : Port) (vc kind st nm1 : Nat) (payload : BitVec 2048) : Port :=
  let cr := v.returning
  { v with
    replay := v.replay ++ [mkFlit vc kind st nm1 v.nakDue v.nextSeq v.lastSeq cr payload],
    nextSeq := v.nextSeq + 1,
    nakDue := false,
    freed := mset v.freed cr.1 (mget v.freed cr.1 0 - cr.2) 0,
    credits := mset v.credits vc (mget v.credits vc 0 - 1) 0 }
/-- A control flit that may be sent now, with the rest of those that wait. -/
def takeCtl (v : Port) (vc : Nat) (identOnly : Bool) : Option ((Nat × BitVec 2048) × List (Nat × BitVec 2048)) :=
  match v.ctl.find? (fun f => decide (f.1 = vc) && (!identOnly || decide (bits f.2 7 0 = 0x05))) with
  | some f => some (f, v.ctl.erase f)
  | none => none
/-- A time flit is stamped as it leaves: T1 of a TIME_REQ, which opens the exchange, and T3 of a TIME_RESP (R310). -/
def stampCtl (s : State) (w : BitVec 2048) : State × BitVec 2048 :=
  let put := fun (at_ : Nat) => (w &&& ~~~(BitVec.ofNat 2048 ((2 ^ 64 - 1) * 2 ^ at_))) ||| BitVec.ofNat 2048 (s.time.now.toNat * 2 ^ at_)
  match bits w 7 0 with
  | 3 => ({ s with time := { s.time with sentT1 := some s.time.now } }, put 64)
  | 4 => (s, put 192)
  | _ => (s, w)
/-- Sends one flit of a virtual channel, if one is ready and the channel holds a credit. -/
def sendVc (s : State) (p vc : Nat) (identOnly : Bool) : Option State :=
  let v := s.portAt p
  if mget v.credits vc 0 = 0 then none
  else
    match takeCtl v vc identOnly with
    | some (f, rest) =>
      let x := stampCtl s f.2
      some (x.1.setPort p (({ v with ctl := rest }).push vc 2 0 0 x.2))
    | none =>
      if identOnly || decide (vc ≥ 2) then none
      else
        match (turnOrder vc (if vc = 1 then v.turnColl else v.turnData)).find? fun st =>
            !(s.streamAt (ctlKey p st)).wire.isEmpty with
        | none => none
        | some st =>
          match takeItems (s.streamAt (ctlKey p st)).wire with
          | none => none
          | some (kind, nm1, payload, n, rest) =>
            let v := if vc = 1 then { v with turnColl := st } else { v with turnData := st }
            let s := s.setPort p (v.push vc kind st nm1 payload)
            let s := s.modStream (ctlKey p st) fun x => { x with wire := rest }
            some (s.modStream (streamKey (portCore p) 5 st) fun x => { x with creditsBack := x.creditsBack + n })
/-- Sends what a port can send, by the priority of R292: at most 64 flits stand unacknowledged (R291). -/
def pumpPort : Nat → State → Nat → State
  | 0, s, _ => s
  | n + 1, s, p =>
    let v := s.portAt p
    let ident := decide (v.state = .unlicensed)
    if !(decide (v.state = .up) || ident) || decide (v.replay.length ≥ 64) then s
    else
      match [3, 2, 1, 0].findSome? fun vc => sendVc s p vc ident with
      | some s' => pumpPort n s' p
      | none => s
/-- Queues a control flit and sends it when it can be. -/
def sendControl (s : State) (p vc : Nat) (payload : BitVec 2048) : State :=
  pumpPort 65 (s.modPort p fun v => { v with ctl := v.ctl ++ [(vc, payload)] }) p

/-- Unit address of a Muold port (R22). -/
def portUnit (s : State) (p : Nat) : W32 := hearthUnit s (319 + p)
/-- The inventory word of a port (R300) without CHANGES. -/
def Port.inv (v : Port) : Nat :=
  let st := match v.state with
    | .down => 0 | .detect => 1 | .eq => 2 | .align => 3 | .up => 4 | .unlicensed => 5 | .miswired => 6 | .heldDown => 7
  let peer := match v.peer with
    | some i => bits i.unit 31 23 * 2 ^ 16 + bits i.unit 22 20 * 2 ^ 25 + (bits i.unit 8 0 - 319) % 32 * 2 ^ 28 + 2 ^ 33 +
        b2n (bit i.licences 0) * 2 ^ 34 + b2n (bit i.licences 1) * 2 ^ 35
    | none => 0
  st + v.width * 8 + b2n v.lr * 32 + v.lanesGood.toNat * 256 + peer
/-- Replaces a port; a change of its inventory word counts in INV_GEN and posts an event, and one of STATE, WIDTH, MODE or peer in
CHANGES too (R300). -/
def updPort (s : State) (p : Nat) (v : Port) : State :=
  let old := s.portAt p
  if v.inv = old.inv then s.setPort p v
  else
    let counts := decide (({ v with lanesGood := 0 } : Port).inv ≠ ({ old with lanesGood := 0 } : Port).inv)
    let s := s.setPort p { v with changes := if counts then old.changes + 1 else old.changes }
    postNotice { s with lnk := { s.lnk with invGen := s.lnk.invGen + 1 } } (portUnit s p) 2 0
/-- Ports that carry lines now. -/
def portUp (s : State) (p : Nat) : Bool := decide ((s.portAt p).state = .up)
/-- Bits 0 to 2: ports 22 to 24 are UP. -/
def treeBits (s : State) : BitVec 3 :=
  BitVec.ofNat 3 (b2n (portUp s 22) + 2 * b2n (portUp s 23) + 4 * b2n (portUp s 24))
/-- TRAY and SLOT of this device. -/
def State.slot (s : State) : Nat := s.strap.traySlot.toNat
/-- The port's peer lies in this tray, in the given slot. -/
def peerSlot (s : State) (p slot : Nat) : Bool :=
  match (s.portAt p).peer with
  | some i => decide (bits i.unit 31 23 = s.lnk.tray.toNat ∧ bits i.unit 22 20 = slot)
  | none => false
/-- Lowest-numbered UP port to a slot of this tray (R307, R310). -/
def portToSlot (s : State) (slot : Nat) : Option Nat := (natsFrom 1 24).find? fun p => portUp s p && peerSlot s p slot
/-- Sends TREE to every tray peer (R306), over the lowest-numbered port to each. -/
def sendTree (s : State) : State :=
  (natsFrom 0 8).foldl (fun st slot =>
    if slot = st.slot then st
    else
      match portToSlot st slot with
      | some p => sendControl st p 2 (BitVec.ofNat 2048 (7 + (treeBits st).toNat * 256 + (portUnit st p).toNat * 2 ^ 32))
      | none => st) s
/-- Inter-tray ports known to be UP at a slot of the tray (R306). -/
def treeAt (s : State) (slot : Nat) : BitVec 3 := if slot = s.slot then treeBits s else mget s.lnk.tree slot 0
/-- The tree edge of a dimension: the UP link with the lowest tray port number, as slot and port (R306). -/
def treeEdge (s : State) (r : Nat) : Option (Nat × Nat) :=
  ((natsFrom 0 24).find? fun n => decide (n % 9 = r) && bit (treeAt s (n / 3)) (n % 3)).map fun n => (n / 3, 22 + n % 3)
/-- The port toward the time master of this device, if it follows one and a path exists (R310). -/
def masterPort (s : State) : Option Nat :=
  if s.lnk.tray = 0 ∨ s.lnk.nTrays = 1 then (if s.slot = 0 then none else portToSlot s 0)
  else
    match treeEdge s s.lnk.tray.toNat.log2 with
    | none => none
    | some (slot, port) => if slot = s.slot then some port else portToSlot s slot
/-- Slot of the tray master (R310), when one is known. -/
def trayMaster (s : State) : Option Nat :=
  if s.lnk.tray = 0 ∨ s.lnk.nTrays = 1 then some 0 else (treeEdge s s.lnk.tray.toNat.log2).map Prod.fst
/-- One of ports 22 to 24 has changed state (R306). -/
def treeMoved (old s : State) : Bool := (natsFrom 22 3).any fun p => decide ((old.portAt p).state ≠ (s.portAt p).state)
/-- What this device knows of a slot goes with the last UP port to it (R306). -/
def pruneTree (s : State) : State := { s with lnk := { s.lnk with tree := s.lnk.tree.filter fun e => (portToSlot s e.1).isSome } }
/-- Replaces a port, and sends TREE when one of ports 22 to 24 has changed state (R306). -/
def movePort (s : State) (p : Nat) (v : Port) : State :=
  let t := updPort s p v
  if treeMoved s t then sendTree t else t
/-- After a change of the path to the masters: a new tray master, under which the device returns to DEV_CAP_W, and a new time path
(R311, R349). Without a path the device runs free. -/
def afterMaster (old s : State) : State :=
  let s := if trayMaster old = trayMaster s then s
    else { s with pwr := { s.pwr with budget := s.pwr.devCap, balanced := false, jobs := [] } }
  if masterPort old = masterPort s then s
  else { s with time := { s.time with timeSync := false, owe := if (masterPort s).isSome then s.time.owe else 0 } }
/-- After a change of port states: the tree, TREE on a change of ports 22 to 24, and the masters (R306, R311). -/
def afterPort (old s : State) : State :=
  let s := pruneTree s
  afterMaster old (if treeMoved old s then sendTree s else s)

/-- Partitions behind their restore whose plan uses a port (R395). -/
def restoredUsers (s : State) (p : Nat) : List Nat :=
  (s.part.filter fun e => decide (e.2.state = .recovering) && e.2.restored && (match e.2.plan with
    | some pl => pl.links.any fun l => decide (l.port = p)
    | none => false)).map Prod.fst
/-- What a port that has gone down ends: every op on its port core's D streams (R159), and the recovery of a partition that uses it
(R395). -/
def linkDownOps (s : State) (p : Nat) : State :=
  let c := portCore p
  let users := restoredUsers s p
  let s := ((s.coreAt c).inflight.filter usesD).foldl (fun st r => endOp st c r .linkDown) s
  users.foldl (fun st q => restartRecovery st q
    { unit := portUnit st p, status := Status.linkDown.code, cls := .partitionFatal }) s
/-- Departures within the last 10 s. -/
def recentDepartures (s : State) (v : Port) : List W64 := v.departures.filter fun t => s.within t (10 * oneS)
/-- A port that carries flits stops: its replay buffer is discarded; leaving UP counts, and the eighth time within 10 s holds
the port down (R295, R302). `keep` restores what the port keeps where it goes. -/
def leaveUp (s : State) (p : Nat) (dest : PortState) (keep : Port → Port) : State :=
  let v := s.portAt p
  let base := { v with replay := [], ctl := [], nakSent := false, nakDue := false, nakRun := 0, nextSeq := 0, lastSeq := 0xFF#8,
                       credits := [], freed := [], width := 0, lr := false, lanesGood := 0, lanesSeen := 0, lanesFine := 0, peer := none,
                       retraining := false }
  if v.state = .up then
    let deps := recentDepartures s v ++ [s.time.now]
    let held := decide (deps.length ≥ 8)
    let s' := updPort s p { (if held then base else keep base) with
      state := if held then .heldDown else dest, departures := deps, retrains := satAdd 8 v.retrains 1 }
    afterPort s (linkDownOps s' p)
  else movePort s p { keep base with state := dest }

-- SAFE (R322, R397, R398)

/-- Opcodes that channel 0 runs in SAFE: NOP, CH_QUERY, PART_QUERY, CHIMNEY_QUERY, TELEMETRY, ATTEST, DEV_RESET. -/
def safeOp (op : Nat) : Bool :=
  op == 0x00 || op == 0x13 || op == 0x1C || op == 0x21 || op == 0x31 || op == 0x38 || op == 0x3F
/-- Stops the clock of a compute layer (R322, R335, R341). -/
def stopClock (s : State) (t : Nat) : State := s.modClk t fun k => { k with stopped := true }
/-- Every port goes DOWN. -/
def portsDown (s : State) : State :=
  (natsFrom 1 24).foldl (fun st p =>
    match (st.portAt p).state with
    | .down | .heldDown => st
    | .unlicensed => if (st.portAt p).peer.isSome then leaveUp st p .down id else st
    | _ => leaveUp st p .down id) s
/-- A partition as an entry to SAFE or a device-wide stop leaves it: a load that has not taken effect leaves it FREE. -/
def stopPartition (s : State) (p : Nat) : State :=
  match s.part? p with
  | some v =>
    match v.state with
    | .running | .recovering => failPartition s p
    | .loading => s.modPart p fun v => { v with state := .free }
    | _ => s
  | none => s
/-- Descriptors at entry to SAFE (R398): other channels' fetched descriptors end with RESET_ABORTED, and those of channel 0 that SAFE
does not run with STATE_CONFLICT. DESIGN CHOICE (log entry 69): one of channel 0 that runs already has had effects, so it ends with
RESET_ABORTED too, as work that is cut off (R10). -/
def safeDescs (s : State) : State :=
  let s := (s.hst.chans.map Prod.fst).foldl (fun st ch => if ch = 0 then st else abortFetched st ch .resetAborted) s
  let s := s.modChan 0 fun c => { c with
    q := endEntries (fun e => !safeOp (descOp e.desc) && decide (e.phase ≠ .ready)) .resetAborted s.time.now c.q }
  s.modChan 0 fun c => { c with q := endEntries (fun e => !safeOp (descOp e.desc)) .stateConflict s.time.now c.q }
/-- Region admissions and mode requests end with the modes of their regions. -/
def dropNbuWaits (s : State) : State :=
  { s with
    region := mall s.region Region.empty fun r => { r with modeReqs := [] }
    pwr := { s.pwr with tiers := mall s.pwr.tiers TierPwr.empty fun v =>
      { v with queue := v.queue.filter fun a => decide (a.kind ≠ .nbu) } } }
/-- Entry to SAFE (R322) for a cause with its record: not from OFF or RESET_HOLD, where no firmware runs; a device in SAFE
already only writes the record. -/
def enterSafe (s : State) (r : Report) : State :=
  match s.dev.state with
  | .off | .resetHold => s
  | .safe => report s { r with cls := .deviceFatal }
  | _ =>
    let s := report s { r with cls := .deviceFatal }
    let s := safeDescs s
    let s := (natsFrom 0 8).foldl stopClock s
    let s := (s.part.map Prod.fst).foldl stopPartition s
    let s := stopRegions (dropNbuWaits s) (s.region.map Prod.fst)
    let s := portsDown s
    setDevState { s with pins := { s.pins with fault := true }, weevil := { s.weevil with running := false } } .safe

end Sys2Proof.Machine
end

