-- ==== Sys2Proof/Machine/OpOut.lean ====
section
/-! DEFINITION. What every tile op's computation shares: the fields of a record (R99 to R102), reads of operands in SRAM
(R84), and the results that an op keeps until it completes (R97). -/

namespace Sys2Proof.Machine

/-- What an op computes when it starts: its status, flags, results, and counters to advance. -/
structure OpOut where
  status : Status
  flags : Flags
  /-- sub-unit that a record of its fault names -/
  sub : Nat
  detail : BitVec 192
  writes : List (Nat × List Byte)
  dwrites : List (Nat × List Byte)
  accs : List (Nat × Acc)
  ctrs : List (Nat × Nat)
  gated : List (Nat × Nat)
  /-- a streaming op, whose lines are still to move -/
  busy : Bool

/-- An op that ends with OK and no result. -/
def OpOut.nothing : OpOut :=
  { status := .ok, flags := 0, sub := 0, detail := 0, writes := [], dwrites := [], accs := [], ctrs := [], gated := [], busy := false }
/-- An op that ends with a status, named by its own unit. -/
def OpOut.fail (st : Status) (flags : Flags) (sub : Nat) (detail : BitVec 192) : OpOut :=
  { OpOut.nothing with status := st, flags := flags, sub := sub, detail := detail }
/-- Results that an op writes to SRAM: flags, and bytes at slot offsets. -/
def OpOut.results (flags : Flags) (writes : List (Nat × List Byte)) : OpOut :=
  { OpOut.nothing with flags := flags, writes := writes }

/-- A record with its field [hi:lo] replaced. -/
def setField (r : Rec) (hi lo v : Nat) : Rec :=
  BitVec.ofNat 256 (r.toNat - bits r hi lo * 2 ^ lo + v % 2 ^ (hi + 1 - lo) * 2 ^ lo)
/-- A format field [lo+3:lo] (R100). -/
def recFmt (r : Rec) (lo : Nat) : Fmt := (Fmt.ofCode (bits r (lo + 3) lo)).getD .fp32

/-- Bytes of a core's SRAM. -/
def sramRd (s : State) (c : Nat) : Nat → Byte := fun off => rdByte s.mem (sramDpa c off)
/-- Lines that a core's op list occupies (R96). -/
def opListLines (s : State) (c : Nat) : Nat :=
  match s.ownerOf c with
  | some p => match s.part? p with
    | some v => match v.plan with
      | some pl => cdiv (mget pl.records c 0) 2
      | none => 0
    | none => 0
  | none => 0

/-- Reads the ranges (line, bytes) that an op names: corrected words are counted, and the first uncorrectable word stops the
op (R84). -/
def readRanges (s : State) (c : Nat) : List (Nat × Nat) → State × Option Nat
  | [] => (s, none)
  | (la, n) :: t =>
    let r := sramRead s c (64 * la) n
    match r.2 with
    | some o => (r.1, some o)
    | none => readRanges r.1 c t
/-- The end of an op that met an uncorrectable word of SRAM: the record names the bank (R84). -/
def sramFail (s : State) (c off : Nat) : OpOut := OpOut.fail .uncorrectable 0 (16 + sramBank off) (sramDetail s c off)
/-- Some result of an op lies in the lines of the op list, or past the SRAM (R96, R102). -/
def hitsOpList (s : State) (c : Nat) (ws : List (Nat × List Byte)) : Bool :=
  ws.any fun w => decide (w.1 < 64 * opListLines s c) || decide (w.1 + w.2.length > sramBytes)
/-- Runs a computation after its reads; results that reach the op list end the op with ADDR_FAULT (R96). -/
def computeOp (s : State) (c sub : Nat) (reads : List (Nat × Nat)) (f : State → OpOut) : State × OpOut :=
  let r := readRanges s c reads
  match r.2 with
  | some o => (r.1, sramFail r.1 c o)
  | none =>
    let o := f r.1
    let o := if o.sub = 0 then { o with sub := sub } else o
    if hitsOpList s c o.writes then (r.1, OpOut.fail .addrFault o.flags sub 0) else (r.1, o)

/-- Flags of the NaN and infinite inputs of an op (R50). -/
def inFlags (v : Val) : Flags := flagIf v.isNan Flag.nanSeen ||| flagIf v.isInf Flag.infSeen
/-- An element of an MX block with its E8M0 scale (R39). -/
def mxVal (v : Val) (e : Nat) : Val := if e = 0xFF then .nan else Val.mul v (Val.scaled 1 ((e : Int) - 127))
/-- The byte of a parameter, by line and position. -/
def lineByte (rd : Nat → Byte) (la i : Nat) : Nat := (rd (64 * la + i)).toNat
/-- Element i of a packed tensor at a line. -/
def elemCode (rd : Nat → Byte) (la : Nat) (f : Fmt) (i : Nat) : Nat := elemAt rd (64 * la) f.width i
/-- FP32 number i of an array at a line. -/
def f32At (rd : Nat → Byte) (la i : Nat) : Nat := leNat rd (64 * la + 4 * i) 4
/-- Bytes of n packed elements. -/
def Fmt.bytes (f : Fmt) (n : Nat) : Nat := cdiv (n * f.width) 8

/-- Codes and joined flags of a list of results. -/
def codesFlags (l : List (Nat × Flags)) : List Nat × Flags := (l.map Prod.fst, l.foldl (fun a x => a ||| x.2) 0)
/-- Packed bytes and joined flags of a list of results. -/
def packResults (width : Nat) (l : List (Nat × Flags)) : List Byte × Flags :=
  (packElems width (l.map Prod.fst), l.foldl (fun a x => a ||| x.2) 0)

end Sys2Proof.Machine
end

