-- ==== Sys2Proof/Machine/ArrayOps.lean ====
section
/-! DEFINITION. The matrix arrays: exact accumulation and readout (R44 to R51, R62), and the ops MMA, MMAP and EWA (R72 to
R80, R103 to R106, R453). -/

namespace Sys2Proof.Machine

-- One product and one accumulator

/-- Window exponent of an operand pair, where it is fixed (R45). -/
def pairWindow (fa fb : Fmt) : Option Int :=
  match fa, fb with
  | .e4m3, .e4m3 => some (-18)
  | .e4m3, .e5m2 => some (-25)
  | .e5m2, .e4m3 => some (-25)
  | .e5m2, .e5m2 => some (-32)
  | .mxfp4, _ => none
  | _, .mxfp4 => none
  | _, _ => some 0
/-- Limit of a product's magnitude in units of 2^W (R46). -/
def windowTop : Int := 2 ^ 67
/-- R46: a finite product p placed in the window W, in units of 2^W, and its flags. -/
def placeProduct (w : Int) (p : Val) : Int × Flags :=
  let n : Int := if w ≤ 0 then p.snum * 2 ^ (-w).toNat else p.snum
  let d : Nat := if w ≤ 0 then p.den else p.den * 2 ^ w.toNat
  let r := roundInt n d
  let fi := flagIf (decide (n % (d : Int) ≠ 0)) Flag.inexact
  if r ≥ windowTop then (windowTop - 1, fi ||| Flag.range)
  else if r ≤ -windowTop then (1 - windowTop, fi ||| Flag.range)
  else (r, fi)
/-- Residue modulo 7 (R62). -/
def res7 (v : Int) : Fin 7 := Fin.ofNat 7 (v % 7).toNat
/-- The sticky bits after a product that involves a NaN or an infinity (R48). -/
def Acc.special (k : Acc) (x y : Val) : Acc :=
  match Val.mul x y with
  | .nan => { k with nan := true }
  | .inf false => { k with posInf := true }
  | .inf true => { k with negInf := true }
  | .fin .. => k
/-- Flags of one product's operands and result (R50). -/
def productFlags (x y : Val) : Flags :=
  inFlags x ||| inFlags y ||| flagIf ((Val.mul x y).isNan) Flag.nanSeen
/-- A product with a zero operand and no special value (R80). -/
def gatedProduct (x y : Val) : Bool := (x.isFin && y.isFin) && (x.isZero || y.isZero)
/-- What accumulation carries along: the accumulator, the flags and the gated products. -/
structure AccRun where
  acc : Acc
  flags : Flags
  gated : Nat
/-- One exact product into an accumulator (R44, R46, R48, R62, R80). -/
def AccRun.exact (k : AccRun) (xy : Val × Val) : AccRun :=
  let x := xy.1
  let y := xy.2
  if !(x.isFin && y.isFin) then { k with acc := k.acc.special x y, flags := k.flags ||| productFlags x y }
  else if gatedProduct x y then { k with gated := k.gated + 1 }
  else
    let q := placeProduct k.acc.w (Val.mul x y)
    { k with acc := { k.acc with a := k.acc.a + BitVec.ofInt 88 q.1, res := k.acc.res + res7 q.1 }, flags := k.flags ||| q.2 }
/-- A group of four BF16 products summed exactly with the accumulator and rounded once to FP32 (R51). -/
def AccRun.bf16 (k : AccRun) (l : List (Val × Val)) : AccRun :=
  let tot := l.foldl (fun a xy => Val.add a (Val.mul xy.1 xy.2)) (f32 k.acc.f32.toNat)
  let r := rnd32 tot
  { acc := { k.acc with f32 := BitVec.ofNat 32 r.1 },
    flags := l.foldl (fun a xy => a ||| productFlags xy.1 xy.2) (k.flags ||| r.2),
    gated := k.gated + (l.filter fun xy => gatedProduct xy.1 xy.2).length }
/-- Products in groups of four. -/
def accBf16 : Nat → AccRun → List (Val × Val) → AccRun
  | 0, k, _ => k
  | n + 1, k, l => if l.isEmpty then k else accBf16 n (k.bf16 (l.take 4)) (l.drop 4)
/-- Adds a reduction to an accumulator, by the operand pair (R44, R51). -/
def accumulate (bf : Bool) (a : Acc) (l : List (Val × Val)) : AccRun :=
  if bf then accBf16 (l.length / 4 + 1) ⟨a, 0, 0⟩ l else l.foldl AccRun.exact ⟨a, 0, 0⟩
/-- The value an accumulator reads out (R44, R48, R51). -/
def Acc.value (bf : Bool) (k : Acc) : Val :=
  if bf then Sys2Proof.Machine.f32 k.f32.toNat
  else if k.nan || (k.posInf && k.negInf) then .nan
  else if k.posInf then .inf false
  else if k.negInf then .inf true
  else Val.scaled k.a.toInt k.w
/-- The residue check at readout (R62): the expected and the observed residue of an accumulator that mismatches; BF16 accumulators
have no residue of a sum (R63). -/
def Acc.mismatch (bf : Bool) (k : Acc) : Option (Fin 7 × Fin 7) :=
  if bf || decide (res7 k.a.toInt = k.res) then none else some (k.res, res7 k.a.toInt)
/-- Readout (R49): A × 2^W × s rounded once; an exact zero reads out as +0; an infinite scale is an infinite input (R50). DESIGN
CHOICE (log entry 63): a sticky infinity times a zero scale is NaN. -/
def readout (bf : Bool) (fo : FloatFmt) (satInf : Bool) (k : Acc) (sc : Val) : Nat × Flags :=
  let v := Val.mul (k.value bf) sc
  let e := fo.encode ⟨false, satInf⟩ (if v.isZero then Val.zero else v)
  (e.1, e.2 ||| inFlags sc)

-- MMA and MMAP

/-- Arrays that a set selects, 0 to 3, in order. -/
def selected (set : Nat) : List Nat := (natsFrom 0 4).filter fun a => set.testBit a
/-- Depth of a block (R72, R453). -/
def pairDepth (fa fb : Fmt) : Nat := if fa.width = 4 ∧ fb.width = 4 then 8 else 4
/-- Key of an accumulator: array, bank and cell. -/
def accKey (arr bank cell : Nat) : Nat := arr * 1024 + bank * 256 + cell
/-- The format carries a zero point (R53). -/
def Fmt.unsignedInt : Fmt → Bool
  | .int8u => true
  | .int4u => true
  | _ => false

/-- What an MMA or MMAP op needs of its record (R103, R105): operand tiles of one array and one row tile, vector or problem. -/
structure MmSpec where
  /-- rows and columns of one output tile -/
  rows : Nat
  cols : Nat
  k : Nat
  fa : Fmt
  fb : Fmt
  bf : Bool
  /-- first line of the broadcast elements and their position, scales of the broadcast operand as byte addresses -/
  aPos : Nat
  aLa : Nat
  aSc : Nat
  /-- the broadcast operand is a GEMV vector -/
  vec : Bool
  bLa : Nat
  bPos : Nat
  bSc : Nat
  zpA : Nat
  /-- zero point of weight column j -/
  zpB : Nat → Nat
  /-- readout scale of column j, an FP32 code -/
  scale : Nat → Nat

/-- Element (i, κ) of the broadcast operand (R453). -/
def MmSpec.aElem (m : MmSpec) (rd : Nat → Byte) (i κ : Nat) : Val :=
  let d := pairDepth m.fa m.fb
  let pos := if m.vec then κ else κ / d * (m.rows * d) + d * i + κ % d
  let v := m.fa.elem (elemCode rd m.aLa m.fa (m.aPos + pos)) m.zpA
  if m.fa = .mxfp4 then mxVal v (rd (m.aSc + κ / 32 * m.rows + i)).toNat else v
/-- Element (κ, j) of the weights (R453). -/
def MmSpec.bElem (m : MmSpec) (rd : Nat → Byte) (κ j : Nat) : Val :=
  let d := pairDepth m.fa m.fb
  let v := m.fb.elem (elemCode rd m.bLa m.fb (m.bPos + κ / d * (m.cols * d) + d * j + κ % d)) (m.zpB j)
  if m.fb = .mxfp4 then mxVal v (rd (m.bSc + κ / 32 * m.cols + j)).toNat else v
/-- The reduction of output (i, j). -/
def MmSpec.cell (m : MmSpec) (rd : Nat → Byte) (start : Acc) (i j : Nat) : AccRun :=
  accumulate m.bf start ((natsFrom 0 m.k).map fun κ => (m.aElem rd i κ, m.bElem rd κ j))

/-- One tile's accumulators from their starting values by cell (R453: cell cols·i + j). -/
def MmSpec.tile (m : MmSpec) (rd : Nat → Byte) (start : Nat → Acc) : List AccRun :=
  (natsFrom 0 (m.rows * m.cols)).map fun e => m.cell rd (start e) (e / m.cols) (e % m.cols)

/-- One tile's outcome: accumulators by key, result bytes, flags, gated products, and the residues of the first output that
mismatches. -/
structure TileOut where
  accs : List (Nat × Acc)
  bytes : List Byte
  flags : Flags
  gated : Nat
  bad : Option (Fin 7 × Fin 7)

/-- Runs one tile (R72, R104): `key` numbers its accumulators. -/
def MmSpec.run (m : MmSpec) (rd : Nat → Byte) (start : Nat → Acc) (key : Nat → Nat) (out : Option (FloatFmt × Nat × Bool)) :
    TileOut :=
  let t := m.tile rd start
  let fl := t.foldl (fun a r => a ||| r.flags) 0
  let g := t.foldl (fun a r => a + r.gated) 0
  let accs := (natsFrom 0 t.length).zip t |>.map fun e => (key e.1, e.2.acc)
  match out with
  | none => ⟨accs, [], fl, g, none⟩
  | some (fo, width, satInf) =>
    let rs := (natsFrom 0 t.length).zip t |>.map fun e => readout m.bf fo satInf e.2.acc (f32 (m.scale (e.1 % m.cols)))
    let p := packResults width rs
    ⟨accs, p.1, fl ||| p.2, g, t.findSome? fun r => r.acc.mismatch m.bf⟩

/-- Fields that MMA and MMAP share (R103). -/
structure MmRec where
  sel : List Nat
  fa : Fmt
  fb : Fmt
  fo : Fmt
  k : Nat
  bank : Nat
  clear : Bool
  rdOut : Bool
  scaleMode : Bool
  zpMode : Bool
  aLa : Nat
  bLa : Nat
  bscLa : Nat
  outLa : Nat
  param : Nat
  bStride : Nat
  outStride : Nat
  satInf : Bool
/-- Reads the shared fields. -/
def MmRec.ofRec (r : Rec) : MmRec :=
  { sel := selected (bits r 67 64), fa := recFmt r 71, fb := recFmt r 75, fo := recFmt r 79, k := 32 * bits r 117 103,
    bank := bits r 87 86, clear := bit r 84, rdOut := bit r 85, scaleMode := bit r 100, zpMode := bit r 101,
    aLa := bits r 143 128, bLa := bits r 159 144, bscLa := bits r 175 160, outLa := bits r 191 176, param := bits r 207 192,
    bStride := bits r 239 224, outStride := bits r 255 240, satInf := bit r 83 }
/-- The window exponent of an op that clears its accumulators (R45, R46). -/
def mmWindow (rd : Nat → Byte) (r : Rec) (m : MmRec) : Int :=
  match pairWindow m.fa m.fb with
  | some w => w
  | none => sbits r 99 89 + (if bit r 88 then sext 32 (f32At rd m.param 0) else 0)
/-- Starting accumulators: zero with the op's window, or the stored ones (R46, R104). -/
def mmStart (s : State) (c : Nat) (clear : Bool) (w : Int) (key : Nat) : Acc :=
  if clear then { Acc.empty with w := w } else mget (s.coreAt c).acc key Acc.empty
/-- Lines of the scales and zero points behind a parameter block of n scales and z columns (R104). -/
def paramLines (m : MmRec) (n z : Nat) : Nat := 1 + cdiv (4 * n) 64 + (if m.zpMode then cdiv z 64 else 0)

/-- One tile of an op: its array, the number that a record of its residue fault names (the array, or the MMAP problem, R376),
the first line of its output, and its outcome. -/
structure MmTile where
  array : Nat
  name : Nat
  outLa : Nat
  out : TileOut
/-- A residue mismatch that the computation meets, kept until the op ends: problem or array, expected and observed (R64). -/
def residueWord (name : Nat) (e : Fin 7 × Fin 7) : BitVec 192 := BitVec.ofNat 192 (name + e.1.val * 256 + e.2.val * 2 ^ 16)
/-- MAC operations per cycle of an op on one of its arrays (R72, R75, R77). -/
def mmRate (r : Rec) (m : MmRec) : Nat :=
  let gemm := if m.fa = .bf16 then 256 else if pairDepth m.fa m.fb = 8 then 2048 else 1024
  if bits r 7 0 = 2 then gemm / (if bits r 70 69 = 3 then 4 else 2)
  else if bit r 68 then min gemm ((bits r 70 69 + 1) * 4096 / max 1 m.fb.width)
  else gemm
/-- Row tiles (GEMM) or vectors (GEMV) of an MMA; one for MMAP. -/
def mmaTiles (r : Rec) : Nat :=
  if bits r 7 0 = 2 then 1 else if bit r 68 then bits r 70 69 + 1 else bits r 125 118 + 1
/-- Cycles in which an op of n tiles accumulates: ⌈256 × K × n ÷ rate⌉ (R127). -/
def mmCycles (r : Rec) (m : MmRec) (n : Nat) : Nat := cdiv (256 * m.k * n) (max 1 (mmRate r m))
/-- Accumulator banks that an op reads out behind its last product: b of R127. -/
def mmReadBanks (r : Rec) : Nat := if !bit r 85 then 0 else if bits r 7 0 = 1 ∧ bit r 68 then bits r 70 69 + 1 else 1
/-- Cycles that an array waits within a GEMM of several row tiles, each too short to hide the readout of 16 cycles before it
(R73). -/
def tileStall (r : Rec) (m : MmRec) : Nat :=
  if m.rdOut && decide (bits r 7 0 = 1) && !bit r 68 then (mmaTiles r - 1) * (16 - mmCycles r m 1) else 0
/-- Accumulator banks that an op uses (R104, R105). -/
def mmBanks (r : Rec) (m : MmRec) : List Nat :=
  if bits r 7 0 = 2 then [m.bank]
  else if bit r 68 || !m.rdOut then (natsFrom 0 (mmaTiles r)).map (m.bank + ·)
  else if mmaTiles r = 1 then [m.bank] else [m.bank, m.bank ^^^ 1]
/-- Joins the tiles of an op into its outcome; a residue mismatch ends it without results (R64). -/
def mmJoin (r : Rec) (m : MmRec) (tiles : List MmTile) (cleared : List (Nat × Acc)) (idle : List (Nat × Nat)) : OpOut :=
  let fl := tiles.foldl (fun a t => a ||| t.out.flags) 0
  match tiles.findSome? fun t => t.out.bad.map fun e => (t, e) with
  | some (t, e) => OpOut.fail .residueFault fl (t.array + 1) (residueWord t.name e)
  | none =>
    { OpOut.nothing with
      flags := fl,
      writes := if m.rdOut then tiles.map fun t => (64 * t.outLa, t.out.bytes) else [],
      accs := cleared ++ tiles.flatMap fun t => t.out.accs,
      ctrs := m.sel.map fun a => (4 + a, tileStall r m),
      gated := (tiles.map fun t => (t.array, t.out.gated)) ++ idle }

/-- The tile of MMA for selected array number j (array a) and row tile or vector t (R103, R104, R453). DESIGN CHOICE (log entry 64): the
broadcast MX scales of several GEMV vectors follow one another at ASC_LA without padding. -/
def mmaSpec (rd : Nat → Byte) (r : Rec) (m : MmRec) (j t : Nat) : MmSpec :=
  let gemv := bit r 68
  let rows := if gemv then 1 else 16
  let cols := if gemv then 256 else 16
  let nsc := m.sel.length * cols
  let zLa := m.param + 1 + (if m.scaleMode then cdiv (4 * nsc) 64 else 0)
  { rows := rows, cols := cols, k := m.k, fa := m.fa, fb := m.fb, bf := decide (m.fa = .bf16), vec := gemv,
    aLa := m.aLa + (if gemv then t * m.fa.lines m.k else 0), aPos := if gemv then 0 else t * 16 * m.k,
    aSc := 64 * bits r 223 208 + t * rows * (m.k / 32),
    bLa := m.bLa + j * m.bStride, bPos := 0, bSc := 64 * (m.bscLa + j * (m.bStride / 16)),
    zpA := lineByte rd m.param 8,
    zpB := fun col => if m.zpMode then lineByte rd zLa (j * cols + col) else lineByte rd m.param 9,
    scale := fun col => if m.scaleMode then f32At rd (m.param + 1) (j * cols + col) else f32At rd m.param 1 }
/-- Bank of a row tile or vector (R104). -/
def mmaBank (r : Rec) (m : MmRec) (t : Nat) : Nat :=
  if bit r 68 || !m.rdOut then m.bank + t else m.bank ^^^ (t % 2)
/-- The readout of an op, if it has one. -/
def mmOut (m : MmRec) : Option (FloatFmt × Nat × Bool) :=
  if m.rdOut then m.fo.float?.map fun f => (f, m.fo.width, m.satInf) else none
/-- Ranges that an MMA reads, as first line and bytes (R104). -/
def mmaReads (r : Rec) : List (Nat × Nat) :=
  let m := MmRec.ofRec r
  let gemv := bit r 68
  let t := mmaTiles r
  let rows := if gemv then 1 else 16
  let cols := if gemv then 256 else 16
  let c := m.sel.length * cols
  let js := natsFrom 0 m.sel.length
  (m.param, 64 * paramLines m (if m.scaleMode then c else 0) c) ::
    (if gemv then (natsFrom 0 t).map fun i => (m.aLa + i * m.fa.lines m.k, m.fa.bytes m.k) else [(m.aLa, m.fa.bytes (t * 16 * m.k))]) ++
    (if m.fa = .mxfp4 then [(bits r 223 208, t * rows * (m.k / 32))] else []) ++
    (js.map fun j => (m.bLa + j * m.bStride, m.fb.bytes (m.k * cols))) ++
    (if m.fb = .mxfp4 then js.map fun j => (m.bscLa + j * (m.bStride / 16), cols * (m.k / 32)) else [])
/-- MMA (R103, R104). DESIGN CHOICE (log entry 64): with READOUT = 1, CLEAR = 0 and three or more row tiles, a tile that shares a bank
with an earlier one starts from the accumulators as they stood when the op started. -/
def mmaCompute (c : Nat) (r : Rec) (s : State) : OpOut :=
  let rd := sramRd s c
  let m := MmRec.ofRec r
  let w := mmWindow rd r m
  let tileLines := m.fo.lines 256
  let tiles := ((natsFrom 0 m.sel.length).zip m.sel).flatMap fun ja =>
    (natsFrom 0 (mmaTiles r)).map fun t =>
      let key := accKey ja.2 (mmaBank r m t)
      ⟨ja.2, ja.2 + 1, m.outLa + ja.1 * m.outStride + t * tileLines,
        (mmaSpec rd r m ja.1 t).run rd (fun e => mmStart s c m.clear w (key e)) key (mmOut m)⟩
  mmJoin r m tiles [] []

/-- Rows, columns and problem slots of a split (R77). -/
def splitOf (code : Nat) : Nat × Nat × Nat :=
  match code with
  | 1 => (16, 8, 2)
  | 2 => (8, 8, 4)
  | _ => (4, 4, 16)
/-- Used problem slots of an MMAP with their place among them (R105). -/
def usedSlots (r : Rec) (slots : Nat) : List (Nat × Nat) :=
  let u := (natsFrom 0 slots).filter fun p => bit r (208 + p)
  (natsFrom 0 u.length).zip u
/-- First line of the MX scales that follow n elements (R102). -/
def scalesAfter (la : Nat) (f : Fmt) (n : Nat) : Nat := la + f.lines n
/-- The problem with place n among the used slots and slot p, on selected array j (R77, R78, R105; log entry 33). -/
def mmapSpec (rd : Nat → Byte) (m : MmRec) (used slots rows cols j n p : Nat) : MmSpec :=
  let nsc := m.sel.length * slots * (if m.scaleMode then cols else 1)
  let zLa := m.param + 1 + cdiv (4 * nsc) 64
  { rows := rows, cols := cols, k := m.k, fa := m.fa, fb := m.fb, bf := decide (m.fa = .bf16), vec := false,
    aLa := m.aLa, aPos := n * rows * m.k,
    aSc := 64 * scalesAfter m.aLa m.fa (used * rows * m.k) + n * rows * (m.k / 32),
    bLa := m.bLa + j * m.bStride, bPos := n * cols * m.k,
    bSc := 64 * (m.bscLa + j * (m.bStride / 16)) + n * cols * (m.k / 32),
    zpA := lineByte rd m.param 8,
    zpB := fun col => if m.zpMode then lineByte rd zLa ((j * slots + p) * cols + col) else lineByte rd m.param 9,
    scale := fun col =>
      f32At rd (m.param + 1) (if m.scaleMode then (j * slots + p) * cols + col else j * slots + p) }
/-- Ranges that an MMAP reads. -/
def mmapReads (r : Rec) : List (Nat × Nat) :=
  let m := MmRec.ofRec r
  let (rows, cols, slots) := splitOf (bits r 70 69)
  let used := (usedSlots r slots).length
  let js := natsFrom 0 m.sel.length
  let nsc := m.sel.length * slots * (if m.scaleMode then cols else 1)
  (m.param, 64 * paramLines m nsc (m.sel.length * slots * cols)) :: (m.aLa, m.fa.bytes (used * rows * m.k)) ::
    (if m.fa = .mxfp4 then [(scalesAfter m.aLa m.fa (used * rows * m.k), used * rows * (m.k / 32))] else []) ++
    (js.map fun j => (m.bLa + j * m.bStride, m.fb.bytes (used * m.k * cols))) ++
    (if m.fb = .mxfp4 then js.map fun j => (m.bscLa + j * (m.bStride / 16), used * cols * (m.k / 32)) else [])
/-- Accumulators of the problem slots that a clearing MMAP leaves unused: zero, with the op's window (R46, R103, R105). -/
def mmapCleared (r : Rec) (m : MmRec) (w : Int) (size slots : Nat) : List (Nat × Acc) :=
  if !m.clear then []
  else
    m.sel.flatMap fun a => ((natsFrom 0 slots).filter fun p => !bit r (208 + p)).flatMap fun p =>
      (natsFrom 0 size).map fun e => (accKey a m.bank (p * size + e), { Acc.empty with w := w })
/-- MMAP (R77, R78, R105): unused slots are gated. -/
def mmapCompute (c : Nat) (r : Rec) (s : State) : OpOut :=
  let rd := sramRd s c
  let m := MmRec.ofRec r
  let w := mmWindow rd r m
  let (rows, cols, slots) := splitOf (bits r 70 69)
  let us := usedSlots r slots
  let tileLines := m.fo.lines (rows * cols)
  let tiles := ((natsFrom 0 m.sel.length).zip m.sel).flatMap fun ja =>
    us.map fun np =>
      let key := fun e => accKey ja.2 m.bank (np.2 * (rows * cols) + e)
      ⟨ja.2, np.2, m.outLa + ja.1 * m.outStride + np.2 * tileLines,
        (mmapSpec rd m us.length slots rows cols ja.1 np.1 np.2).run rd (fun e => mmStart s c m.clear w (key e)) key (mmOut m)⟩
  mmJoin r m tiles (mmapCleared r m w (rows * cols) slots) (m.sel.map fun a => (a, (slots - us.length) * rows * cols * m.k))

-- Ranges of SRAM that overlap (R97, R128)

/-- Two ranges of lines, each a first line and bytes, overlap. -/
def overlap (a b : Nat × Nat) : Bool := decide (a.1 < b.1 + cdiv b.2 64 ∧ b.1 < a.1 + cdiv a.2 64)
/-- Output tiles of MMA and MMAP. -/
def mmWrites (r : Rec) : List (Nat × Nat) :=
  let m := MmRec.ofRec r
  if !m.rdOut then []
  else
    (natsFrom 0 m.sel.length).flatMap fun j =>
      let base := m.outLa + j * m.outStride
      if bits r 7 0 = 1 then [(base, mmaTiles r * (m.fo.bytes 256))]
      else
        let (rows, cols, slots) := splitOf (bits r 70 69)
        (usedSlots r slots).map fun np => (base + np.2 * m.fo.lines (rows * cols), m.fo.bytes (rows * cols))
/-- Ranges that MMA and MMAP read. -/
def mmReads (r : Rec) : List (Nat × Nat) := if bits r 7 0 = 1 then mmaReads r else mmapReads r
/-- An MMA or MMAP. -/
def isMm (r : Rec) : Bool := decide (bits r 7 0 = 1 ∨ bits r 7 0 = 2)
/-- Arrays that two ops name, 0 to 3. -/
def sharedArrays (a b : Rec) : List Nat := (selected (bits a 67 64)).filter (selected (bits b 67 64)).contains
/-- R97: op b may begin accumulating while op a still reads out. -/
def mayOverlap (a b : Rec) : Bool :=
  isMm a && isMm b &&
    ((sharedArrays a b).isEmpty ||
      ((mmBanks a (MmRec.ofRec a)).all fun k => !(mmBanks b (MmRec.ofRec b)).contains k) &&
        (mmWrites a).all fun w => (mmReads b).all fun e => !overlap w e)

-- EWA (R79, R106)

/-- Element i of an EWA operand; MX scales follow the elements (R102). -/
def ewaElem (rd : Nat → Byte) (la n : Nat) (f : Fmt) (zp i : Nat) : Val :=
  let v := f.elem (elemCode rd la f i) zp
  if f = .mxfp4 then mxVal v (rd (64 * scalesAfter la f n + i / 32)).toNat else v
/-- The exact result of an EWA function; an integer zero has no sign (R34). DESIGN CHOICE (log entry 63): a product that is zero is
+0 in MUL when A is an integer; in SCALE, and with a float A, it has the sign of the product. -/
def ewaFunc (func : Nat) (intA : Bool) (x y sc : Val) : Val :=
  match func with
  | 0 => let p := Val.mul x y; if intA && p.isZero then Val.zero else p
  | 1 => Val.add x y
  | 2 => Val.mul x sc
  | 3 => Val.max x y
  | 4 => Val.min x y
  | _ => if y.lt x then Val.one else Val.zero
/-- Integer formats. -/
def Fmt.isInt : Fmt → Bool
  | .int8s | .int8u | .int4s | .int4u | .int32 | .k4 => true
  | _ => false
/-- Bytes of an EWA operand with its scales, as ranges. -/
def ewaReads (r : Rec) : List (Nat × Nat) :=
  let n := bits r 111 88
  let rng := fun (la : Nat) (f : Fmt) =>
    (la, f.bytes n) :: (if f = .mxfp4 then [(scalesAfter la f n, cdiv n 32)] else [])
  let fa := recFmt r 71
  let fb := recFmt r 75
  let two := decide (bits r 70 68 ≠ 2)
  rng (bits r 143 128) fa ++ (if two then rng (bits r 159 144) fb else []) ++
    (if fa.unsignedInt || (two && fb.unsignedInt) then [(bits r 191 176, 10)] else [])
/-- EWA (R79, R106): each result exact, then rounded once by R40 and R41. It counts no gated MAC operation (R80; DESIGN CHOICE, log entry
84). -/
def ewaCompute (c : Nat) (r : Rec) (s : State) : OpOut :=
  let rd := sramRd s c
  let n := bits r 111 88
  let fa := recFmt r 71
  let fb := recFmt r 75
  let fo := recFmt r 79
  let func := bits r 70 68
  let pl := bits r 191 176
  let sc := f32 (bits r 223 192)
  match fo.float? with
  | none => OpOut.nothing
  | some ff =>
    let rs := (natsFrom 0 n).map fun i =>
      let x := ewaElem rd (bits r 143 128) n fa (lineByte rd pl 8) i
      let y := if func = 2 then sc else ewaElem rd (bits r 159 144) n fb (lineByte rd pl 9) i
      let e := ff.encode ⟨false, bit r 83⟩ (ewaFunc func fa.isInt x y sc)
      (e.1, e.2 ||| inFlags x ||| inFlags y)
    let p := packResults fo.width rs
    OpOut.results p.2 [(64 * bits r 175 160, p.1)]

end Sys2Proof.Machine
end

