-- ==== Sys2Proof/Machine/VectorOps.lean ====
section
/-! DEFINITION. The vector unit: VFN (R86 to R88, R107), the reduction step of RED (R108), partial triples and their merge
(R242, R243), SMX and SMXM (R111 to R113). -/

namespace Sys2Proof.Machine

-- VFN (R107)

/-- Operands that a function reads (R107). -/
def vfnArgs (func : Nat) : Nat :=
  if func = 0x03 ∨ func = 0x09 then 3 else if func ≥ 0x0A then 1 else 2
/-- A VFU result that is an exact value, encoded for the destination: IEEE overflow for arithmetic, R41 for a conversion. -/
def vfnEncode (fo : Fmt) (arith satInf : Bool) (xCode : Nat) (v : Val) : Nat × Flags :=
  match fo.float? with
  | some ff => ff.encode ⟨arith, satInf⟩ v
  | none =>
    if v.isNan then ((Config.nanToInt32 xCode).toNat, Flag.nanSeen)
    else toIntCode 32 (-2 ^ 31) (2 ^ 31 - 1) 0 v
/-- 1.0 or 0.0. -/
def vBool (b : Bool) : Val := if b then Val.one else Val.zero
/-- One lane of VFN (R87, R88, R107): any NaN operand gives NaN. -/
def vfnLane (func : Nat) (fo : Fmt) (satInf : Bool) (xCode : Nat) (x y z : Val) : Nat × Flags :=
  let n := vfnArgs func
  let fl := inFlags x ||| (if n ≥ 2 then inFlags y else 0) ||| (if n ≥ 3 then inFlags z else 0)
  let nan := x.isNan || (decide (n ≥ 2) && y.isNan) || (decide (n ≥ 3) && z.isNan)
  let enc := vfnEncode fo (decide (func ≠ 0x0A)) satInf xCode
  let md : OvMode := ⟨true, satInf⟩
  let ff := fo.float?.getD fFP32
  let r :=
    if nan then enc .nan
    else match func with
      | 0x00 => enc (Val.add x y)
      | 0x01 => enc (Val.add x y.neg)
      | 0x02 => enc (Val.mul x y)
      | 0x03 => enc (Val.add (Val.mul x y) z)
      | 0x04 => enc (Val.max x y)
      | 0x05 => enc (Val.min x y)
      | 0x06 => enc (vBool (x.eq y))
      | 0x07 => enc (vBool (x.lt y))
      | 0x08 => enc (vBool (x.lt y || x.eq y))
      | 0x09 => enc (if z.isZero then y else x)
      | 0x0A => enc x
      | 0x0B => vExp2 ff md x
      | 0x0C => vLog2 ff md x
      | 0x0D => vRcp ff md x
      | _ => vRsq ff md x
  (r.1, r.2 ||| fl)
/-- An operand of VFN that may be an immediate. -/
def vfnOperand (rd : Nat → Byte) (imm : Bool) (code la : Nat) (f : Fmt) (i : Nat) : Val :=
  if imm then f32 code else f.elem (elemCode rd la f i) 0
/-- Ranges that VFN reads (R107). -/
def vfnReads (r : Rec) : List (Nat × Nat) :=
  let n := bits r 119 96
  let args := vfnArgs (bits r 71 64)
  (bits r 143 128, (recFmt r 72).bytes n) ::
    (if args ≥ 2 && !bit r 88 then [(bits r 159 144, (recFmt r 76).bytes n)] else []) ++
    (if args ≥ 3 && !bit r 89 then [(bits r 175 160, (recFmt r 80).bytes n)] else [])
/-- VFN (R107). -/
def vfnCompute (c : Nat) (r : Rec) (s : State) : OpOut :=
  let rd := sramRd s c
  let n := bits r 119 96
  let fx := recFmt r 72
  let fo := recFmt r 84
  let rs := (natsFrom 0 n).map fun i =>
    let xc := elemCode rd (bits r 143 128) fx i
    vfnLane (bits r 71 64) fo (bit r 90) xc (fx.elem xc 0)
      (vfnOperand rd (bit r 88) (bits r 223 192) (bits r 159 144) (recFmt r 76) i)
      (vfnOperand rd (bit r 89) (bits r 255 224) (bits r 175 160) (recFmt r 80) i)
  let p := packResults fo.width rs
  { OpOut.results p.2 [(64 * bits r 191 176, p.1)] with ctrs := [(12, cdiv n 32)] }

-- RED (R108)

/-- A value that takes part in a reduction: none where no finite element has been met (R108). -/
abbrev RedVal := Option Val
/-- An element as RED takes it: ABSMAX and RANGE leave NaN and infinite elements out (R54, R108). -/
def redIn (rf : Nat) (v : Val) : RedVal × Flags :=
  if rf < 3 then (some v, inFlags v)
  else if v.isFin then (some (if rf = 3 then v.abs else v), 0)
  else (none, inFlags v)
/-- One combination step; `second` marks the max of a RANGE pair (R108). -/
def redStep (rf : Nat) (second : Bool) (a b : RedVal) : RedVal × Flags :=
  match a, b with
  | none, b => (b, 0)
  | a, none => (a, 0)
  | some x, some y =>
    let r := rnd32 (if rf = 0 then Val.add x y else if rf = 2 || (rf == 4 && !second) then Val.min x y else Val.max x y)
    (some (f32 r.1), r.2)
/-- Width of a RED element in numbers: RANGE takes min and max pairs. -/
def redWidth (rf : Nat) : Nat := if rf = 4 then 2 else 1
/-- Numbers of a RED result. -/
def redNumbers (r : Rec) : Nat :=
  redWidth (bits r 66 64) * (if bit r 67 then bits r 111 92 / max 1 (bits r 127 112) else bits r 111 92)
/-- Lines of a RED result. -/
def redLines (r : Rec) : Nat := cdiv (redNumbers r) 16
/-- Local value of result number i: its segment in ascending order (R108). -/
def redLocal (rd : Nat → Byte) (r : Rec) (i : Nat) : RedVal × Flags :=
  let rf := bits r 66 64
  let w := redWidth rf
  let seg := if bit r 67 then bits r 127 112 else 1
  let f := recFmt r 88
  (natsFrom 0 seg).foldl (fun (a : RedVal × Flags) k =>
    let x := redIn rf (f.elem (elemCode rd (bits r 143 128) f (w * (i / w * seg + k) + i % w)) 0)
    let y := if k = 0 then (x.1, (0 : Flags)) else redStep rf (decide (i % w = 1)) a.1 x.1
    (y.1, a.2 ||| x.2 ||| y.2)) (none, 0)
/-- One result number of line `ln`: the local value combined with the arriving lines in port order (R108). -/
def redNumber (rd : Nat → Byte) (r : Rec) (arriving : List Line) (ln j : Nat) : Nat × Flags :=
  let rf := bits r 66 64
  let i := 16 * ln + j
  let a := arriving.foldl (fun (a : RedVal × Flags) l =>
    let x := redIn rf (f32 (bits l (32 * j + 31) (32 * j)))
    let y := redStep rf (decide (i % redWidth rf = 1)) a.1 x.1
    (y.1, a.2 ||| x.2 ||| y.2)) (redLocal rd r i)
  match a.1 with
  | some v => ((rnd32 v).1, a.2 ||| (rnd32 v).2)
  | none => (0, a.2)
/-- Bytes of result line `ln`, and its flags. -/
def redLine (rd : Nat → Byte) (r : Rec) (arriving : List Line) (ln : Nat) : List Byte × Flags :=
  packResults 32 ((natsFrom 0 (min 16 (redNumbers r - 16 * ln))).map fun j => redNumber rd r arriving ln j)
/-- Bytes of the local operand that result line `ln` reads: first byte behind IN_LA and number (R84, R108). -/
def redReads (r : Rec) (ln : Nat) : Nat × Nat :=
  let f := recFmt r 88
  let w := redWidth (bits r 66 64)
  let seg := if bit r 67 then bits r 127 112 else 1
  (f.bytes (16 * ln / w * seg * w), f.bytes (min 16 (redNumbers r - 16 * ln) * seg))
/-- Ports that a bit map names. -/
def redPorts (m : Nat) : List Nat := (natsFrom 0 6).filter fun p => m.testBit p

-- Partial triples (R242, R243)

/-- The empty triple of width d. -/
def tripleEmpty (d : Nat) (k : W32) : Triple := ⟨0xFF800000#32, 0#32, List.replicate d 0#32, k⟩
/-- The canonical NaN triple of width d (R243). -/
def tripleNan (d : Nat) (k : W32) : Triple := ⟨0x7FC00000#32, 0x7FC00000#32, List.replicate d 0x7FC00000#32, k⟩
/-- The value of a code. -/
def v32 (w : W32) : Val := f32 w.toNat
/-- Some field of a triple is NaN. -/
def Triple.hasNan (t : Triple) : Bool := (v32 t.m).isNan || (v32 t.l).isNan || t.o.any fun x => (v32 x).isNan
/-- m = −∞ and l = 0 (R243). -/
def Triple.isEmpty (t : Triple) : Bool := (v32 t.m).isInf && (v32 t.m).isNeg && (v32 t.l).isZero
/-- A part that the merge treats as NaN: a NaN field, or an infinite m of a part that is not empty (R243). -/
def Triple.bad (t : Triple) : Bool := t.hasNan || (!t.isEmpty && (v32 t.m).isInf)
/-- Flags of the infinite fields of a part; the m of an empty part is no input (R50, R243). -/
def Triple.infFlags (t : Triple) : Flags :=
  flagIf ((!t.isEmpty && (v32 t.m).isInf) || (v32 t.l).isInf || t.o.any fun x => (v32 x).isInf) Flag.infSeen
/-- An FP32 result as a word with its flags. -/
def w32r (v : Val) : W32 × Flags := (BitVec.ofNat 32 (rnd32 v).1, (rnd32 v).2)
/-- One part rescaled to the maximum M: none when it is dropped (R242 steps 2 to 7). -/
def Triple.rescale (t : Triple) (big : Val) : Option (Triple × Flags) :=
  let d := Val.add (v32 t.m) big.neg
  if d.lt (Val.ofInt (-150)) then none
  else if d.isZero then some (t, 0)
  else
    let n := d.snum / (d.den : Int)
    let phi := f32 (rnd32 (Val.ofRat (d.snum - n * d.den) d.den)).1
    let g := f32 (vExp2 fFP32 ⟨true, false⟩ phi).1
    let sc := Val.mul g (Val.scaled 1 n)
    let l := w32r (Val.mul (v32 t.l) sc)
    let o := t.o.map fun x => w32r (Val.mul (v32 x) sc)
    some ({ t with l := l.1, o := o.map Prod.fst }, o.foldl (fun a x => a ||| x.2) l.2)
/-- The larger of two FP32 codes that are no NaN; of −0 and +0 it is +0, as in every maximum of the VFU (R88, R242). -/
def maxCode (a b : W32) : W32 :=
  if (v32 a).isZero && (v32 b).isZero then (if (v32 a).isNeg then b else a) else if (v32 a).lt (v32 b) then b else a
/-- The merge A ⊕ B (R242, R243). -/
def mergeTriple (a b : Triple) : Triple × Flags :=
  let k := a.dropped + b.dropped
  let fl := a.infFlags ||| b.infFlags
  if a.bad || b.bad then (tripleNan a.o.length (Config.nanDropped a.dropped b.dropped), fl ||| Flag.nanSeen)
  else if a.isEmpty && b.isEmpty then (tripleEmpty a.o.length k, fl)
  else if a.isEmpty then ({ b with dropped := k }, fl)
  else if b.isEmpty then ({ a with dropped := k }, fl)
  else
    let m := maxCode a.m b.m
    match a.rescale (v32 m), b.rescale (v32 m) with
    | some (x, f1), some (y, f2) =>
      let l := w32r (Val.add (v32 x.l) (v32 y.l))
      let o := (x.o.zip y.o).map fun e => w32r (Val.add (v32 e.1) (v32 e.2))
      (⟨m, l.1, o.map Prod.fst, k⟩, o.foldl (fun a x => a ||| x.2) (fl ||| f1 ||| f2 ||| l.2))
    | some (x, f1), none => (⟨m, x.l, x.o, k + 1⟩, fl ||| f1)
    | none, some (y, f2) => (⟨m, y.l, y.o, k + 1⟩, fl ||| f2)
    | none, none => (tripleEmpty a.o.length (k + 2), fl)
/-- Lines of a triple of width d (R111). -/
def tripleLines (d : Nat) : Nat := 1 + cdiv (4 * d) 64
/-- A triple in SRAM at a line (R111). -/
def tripleAt (rd : Nat → Byte) (la d : Nat) : Triple :=
  ⟨BitVec.ofNat 32 (f32At rd la 0), BitVec.ofNat 32 (f32At rd la 1),
    (natsFrom 0 d).map fun j => BitVec.ofNat 32 (f32At rd (la + 1) j), BitVec.ofNat 32 (f32At rd la 2)⟩
/-- The bytes of a triple, as writes at a line (R111). -/
def Triple.writes (t : Triple) (la : Nat) : List (Nat × List Byte) :=
  [(64 * la, leBytes t.m.toNat 4 ++ leBytes t.l.toNat 4 ++ leBytes t.dropped.toNat 4),
    (64 * (la + 1), t.o.flatMap fun x => leBytes x.toNat 4)]

-- SMX (R111, R112)

/-- What one token adds to a block: l_b and o_b with flags (R112 steps 3 and 4). -/
def smxToken (m : Val) (acc : (W32 × List W32) × Flags) (t : Val × List Val) : (W32 × List W32) × Flags :=
  let d := rnd32 (Val.add t.1 m.neg)
  let p := f32 (vExp2 fFP32 ⟨true, false⟩ (f32 d.1)).1
  let l := w32r (Val.add (v32 acc.1.1) p)
  let o := (acc.1.2.zip t.2).map fun e => w32r (Val.add (Val.mul p e.2) (v32 e.1))
  ((l.1, o.map Prod.fst), o.foldl (fun a x => a ||| x.2) (acc.2 ||| l.2))
/-- One head of SMX: its scaled scores, the value rows and the triple before (R112). A NaN in a value row gives the NaN triple also
where every score is −∞ (DESIGN CHOICE, log entry 84); a T that is kept unchanged and holds a NaN is the canonical one (R42, R243). -/
def smxHead (xs : List Val) (vs : List (List Val)) (t : Triple) : Triple × Flags :=
  let d := t.o.length
  let mb := xs.foldl Val.max (.inf true)
  let bad := mb.isNan || (mb.isInf && !mb.isNeg) || vs.any fun v => v.any Val.isNan
  if bad then (tripleNan d (Config.nanDropped t.dropped 0#32), t.infFlags ||| Flag.nanSeen)
  else if mb.isInf then
    if t.bad then (tripleNan d (Config.nanDropped t.dropped 0#32), t.infFlags ||| Flag.nanSeen) else (t, t.infFlags)
  else
    let b := (xs.zip vs).foldl (smxToken mb) ((0#32, List.replicate d 0#32), 0)
    let r := mergeTriple t ⟨BitVec.ofNat 32 (rnd32 mb).1, b.1.1, b.1.2, 0#32⟩
    (r.1, r.2 ||| b.2)
/-- Ranges that SMX reads (R112). -/
def smxReads (r : Rec) : List (Nat × Nat) :=
  let n := bits r 103 88
  let d := 16 * bits r 111 104
  let h := bits r 119 112
  let fs := recFmt r 64
  let fv := recFmt r 68
  ((natsFrom 0 h).map fun i => (bits r 143 128 + i * fs.lines n, fs.bytes n)) ++
    ((natsFrom 0 n).map fun t => (bits r 159 144 + t * fv.lines d, fv.bytes d)) ++
    (if bit r 72 then [] else [(bits r 175 160, 64 * (h * tripleLines d))])
/-- SMX (R111, R112). -/
def smxCompute (c : Nat) (r : Rec) (s : State) : OpOut :=
  let rd := sramRd s c
  let n := bits r 103 88
  let d := 16 * bits r 111 104
  let hs := bits r 119 112
  let fs := recFmt r 64
  let fv := recFmt r 68
  let sc := f32 (bits r 223 192)
  let vs := (natsFrom 0 n).map fun t =>
    (natsFrom 0 d).map fun j => fv.elem (elemCode rd (bits r 159 144 + t * fv.lines d) fv j) 0
  let vfl := vs.foldl (fun a v => v.foldl (fun b x => b ||| inFlags x) a) (0 : Flags)
  let heads := (natsFrom 0 hs).map fun h =>
    let ss := (natsFrom 0 n).map fun t => fs.elem (elemCode rd (bits r 143 128 + h * fs.lines n) fs t) 0
    let la := bits r 175 160 + h * tripleLines d
    let t := if bit r 72 then tripleEmpty d 0 else tripleAt rd la d
    let o := smxHead (ss.map fun x => r32 (Val.mul x sc)) vs t
    (la, o.1, ss.foldl (fun a x => a ||| inFlags x) o.2)
  { OpOut.results (heads.foldl (fun a h => a ||| h.2.2) (vfl ||| inFlags sc)) (heads.flatMap fun h => h.2.1.writes h.1) with
    ctrs := [(12, hs * (3 * cdiv n 32 + cdiv (n * d) 32))] }

-- SMXM (R113)

/-- Ranges that SMXM reads. -/
def smxmReads (r : Rec) : List (Nat × Nat) :=
  let d := 16 * bits r 87 80
  (natsFrom 0 (bits r 71 64)).map fun k =>
    (bits r 111 96 + k * bits r 143 128, 64 * (bits r 79 72 * tripleLines d))
/-- The left fold of one head's sets in index order (R113). -/
def smxmHead (rd : Nat → Byte) (r : Rec) (h : Nat) : Triple × Flags :=
  let d := 16 * bits r 87 80
  let t := fun k => tripleAt rd (bits r 111 96 + k * bits r 143 128 + h * tripleLines d) d
  (natsFrom 1 (bits r 71 64 - 1)).foldl (fun (a : Triple × Flags) k =>
    let m := mergeTriple a.1 (t k)
    (m.1, a.2 ||| m.2)) (t 0, 0)
/-- o × RCP(l) in the output format, each step rounded once (R113). -/
def smxmFinal (fo : Fmt) (t : Triple) : List Byte × Flags :=
  let rcp := vRcp fFP32 ⟨true, false⟩ (v32 t.l)
  let p := packResults fo.width (t.o.map fun x =>
    ((fo.float?.getD fFP32).encode ⟨true, false⟩ (Val.mul (v32 x) (f32 rcp.1))))
  (p.1, p.2 ||| rcp.2 ||| inFlags (v32 t.l) ||| t.infFlags)
/-- SMXM (R113). -/
def smxmCompute (c : Nat) (r : Rec) (s : State) : OpOut :=
  let rd := sramRd s c
  let d := 16 * bits r 87 80
  let fo := recFmt r 89
  let hs := bits r 79 72
  let out := (natsFrom 0 hs).map fun h =>
    let t := smxmHead rd r h
    if bit r 88 then
      let f := smxmFinal fo t.1
      ([(64 * (bits r 127 112 + h * fo.lines d), f.1)], t.2 ||| f.2)
    else (t.1.writes (bits r 127 112 + h * tripleLines d), t.2)
  { OpOut.results (out.foldl (fun a x => a ||| x.2) 0) (out.flatMap Prod.fst) with
    ctrs := [(12, 3 * (bits r 71 64 - 1) * hs * cdiv (d + 2) 32)] }

end Sys2Proof.Machine
end

