-- ==== Sys2Proof/Machine/Mesh.lean ====
section
/-! DEFINITION. Lines on the mesh: check words (R115, R139), credits (R137), receive buffers and their consumers (R143, R145),
transit routes (R116, R142 to R145), the streaming ops SND, RCV and RED (R108, R114), and the commands that move lines. -/

namespace Sys2Proof.Machine

-- The op list as the router sees it

/-- Plan of a core's partition. -/
def planOf (s : State) (c : Nat) : Option Plan :=
  match s.ownerOf c with
  | some p => match s.part? p with
    | some v => v.plan
    | none => none
  | none => none
/-- Records of a core's op list (R153). -/
def recordsOf (s : State) (c : Nat) : Nat :=
  match planOf s c with
  | some pl => mget pl.records c 0
  | none => 0
/-- Opcode of a record. -/
def opOf (r : Rec) : Nat := bits r 7 0
/-- A record that takes an input stream: RCV, RED, or an XFWD install (R145). -/
def usesInput (r : Rec) (port st : Nat) : Bool :=
  match opOf r with
  | 0x0C => decide (bits r 66 64 = port ∧ bits r 70 67 = st)
  | 0x05 => bit r (68 + port) && decide (bits r 83 80 = st)
  | 0x0D => !bit r 78 && decide (bits r 66 64 = port ∧ bits r 70 67 = st)
  | _ => false
/-- The op list of the core's partition uses an input stream, whether or not that op has issued (R145). -/
def hasConsumer (s : State) (c port st : Nat) : Bool := (natsFrom 0 (recordsOf s c)).any fun i => usesInput (recAt s c i) port st
/-- The route on an input stream. -/
def routeOn (s : State) (c port st : Nat) : Option Route :=
  s.routes.find? fun r => decide (r.core = c ∧ r.inPort = port ∧ r.inStream = st)

-- Sending and receiving one line

/-- Flit ends at the head of a wire: the virtual channels whose buffers they free, and the rest. -/
def popEnds : List WireItem → List Nat × List WireItem
  | .flitEnd vc :: t => let r := popEnds t; (vc :: r.1, r.2)
  | w => ([], w)
/-- Returns the credit of a line that has left an input buffer (R137). -/
def returnCredit (s : State) (c port st : Nat) : State :=
  match neighbour c port with
  | some (d, q) => s.modStream (streamKey d q st) fun v => { v with creditsBack := v.creditsBack + 1 }
  | none => s
/-- Puts items on what an output stream leads to. -/
def putWire (s : State) (c port st : Nat) (items : List WireItem) : State :=
  match wireKey c port st with
  | none => s
  | some k =>
    let s := s.modStream k fun v => { v with wire := v.wire ++ items }
    match dPort c port with
    | some p => pumpPort 65 s p
    | none => s
/-- How many turns of an output port come before a stream's (R138). -/
def turnsTo (s : State) (c port st : Nat) : Nat := (st + 16 - mget s.turn (6 * c + port) 0 % 16) % 16
/-- An output port has served a stream: the next one's turn comes (R138). -/
def serveTurn (s : State) (c port st : Nat) : State := { s with turn := mset s.turn (6 * c + port) ((st + 1) % 16) 0 }
/-- Sends one line of an op; the check word of R115 follows the 64th line of the stream and the last line of a SND. -/
def sendLine (s : State) (c port st : Nat) (l : Line) (last : Bool) : State :=
  let s := serveTurn s c port st
  let k := streamKey c port st
  let v := s.streamAt k
  let crc := crcLine v.sendCrc l
  let chk := last || decide ((v.sendPos + 1) % 64 = 0)
  let s := s.setStream k { v with
    credits := v.credits - 1, sendPos := v.sendPos + 1,
    sendCrc := if chk then 0xFFFFFFFF#32 else crc,
    sendSince := if chk then 0 else v.sendSince + 1 }
  putWire s c port st (.line l :: (if chk then [.check (crcWord crc)] else []))
/-- The record of a router about one of its streams. -/
def streamRecord (s : State) (c port st : Nat) (status : Status) : State :=
  let part := (routeOn s c port st).map fun r => r.owner
  report s { unit := coreUnit s c 100, status := status.code, cls := .contained, part := part, detail := detLoc port st }
/-- Lines of an input stream that has neither a consumer nor a route are discarded, their credits returned, and a record
written (R145). -/
def dropOrphans (s : State) (c port st : Nat) : State :=
  let k := streamKey c port st
  let v := s.streamAt k
  if v.buf.isEmpty || hasConsumer s c port st || (routeOn s c port st).isSome then s
  else
    let s := s.setStream k { v with buf := [] }
    streamRecord (v.buf.foldl (fun st' _ => returnCredit st' c port st) s) c port st .stateConflict
/-- Takes the head line of an input buffer and returns its credit. -/
def takeHead (s : State) (c port st : Nat) : Option (BufLine × State) :=
  let k := streamKey c port st
  let v := s.streamAt k
  match v.buf with
  | [] => none
  | b :: t => some (b, returnCredit (s.setStream k { v with buf := t }) c port st)

-- Streaming ops

/-- Replaces the running op of a unit. -/
def updRun (s : State) (c : Nat) (r : OpRun) : State :=
  s.modCore c fun k => { k with inflight := k.inflight.map fun x => if x.unit = r.unit then r else x }
/-- Line i of a SND or RCV in SRAM (R114). -/
def lineAddr (r : Rec) (i : Nat) : Nat :=
  let rl := bits r 159 144
  bits r 143 128 + (if rl = 0 then i else i / rl * bits r 175 160 + i % rl)
/-- The op stops moving lines with a status. -/
def OpRun.stop (r : OpRun) (st : Status) (sub : Nat) (detail : BitVec 192) : OpRun :=
  { r with status := st, busy := false, sub := sub, detail := detail }
/-- Port × 16 + stream, as an op's record gives it (R376). -/
def streamDetail (port st : Nat) : BitVec 192 := BitVec.ofNat 192 ((port * 16 + st) * 2 ^ 32)
/-- Bytes written by a streaming op; an uncorrectable word that they cover in part stops it (R84). -/
def writeLine (s : State) (c : Nat) (r : OpRun) (la : Nat) (bs : List Byte) : State × OpRun :=
  let w := sramWrite s c (64 * la) bs
  match w.2 with
  | none => (w.1, r)
  | some o => (w.1, r.stop .uncorrectable (16 + sramBank o) (sramDetail w.1 c o))
/-- SND sends its next line while it holds a credit (R114, R137). -/
def moveSnd (s : State) (c : Nat) (r : OpRun) : Option State :=
  let port := bits r.rcd 66 64
  let st := bits r.rcd 70 67
  let n := bits r.rcd 87 72
  if (s.streamAt (streamKey c port st)).credits = 0 then none
  else
    let la := lineAddr r.rcd r.pos
    let rd := sramRead s c (64 * la) 64
    match rd.2 with
    | some o => some (updRun rd.1 c (r.stop .uncorrectable (16 + sramBank o) (sramDetail rd.1 c o)))
    | none =>
      let last := decide (r.pos + 1 ≥ n)
      let s := updRun rd.1 c { r with pos := r.pos + 1, busy := !last }
      some (sendLine s c port st (rdLine s.mem (sramDpa c (64 * la))) last)
/-- RCV writes the next line of its stream (R114, R115). -/
def moveRcv (s : State) (c : Nat) (r : OpRun) : Option State :=
  let port := bits r.rcd 66 64
  let st := bits r.rcd 70 67
  match takeHead s c port st with
  | none => none
  | some (b, s) =>
    let w := writeLine s c { r with pos := r.pos + 1, busy := decide (r.pos + 1 < bits r.rcd 87 72) } (lineAddr r.rcd r.pos)
      (bytesOf b.line 64)
    let bad := match b.check with
      | some (_, f) => f
      | none => false
    some (updRun w.1 c (if bad then w.2.stop .checkMismatch 100 (streamDetail port st) else w.2))
/-- Takes the head lines of several ports' buffers, in order. -/
def takeHeads (s : State) (c st : Nat) : List Nat → Option (List (Nat × BufLine) × State)
  | [] => some ([], s)
  | p :: ps =>
    match takeHead s c p st with
    | none => none
    | some (b, s) =>
      match takeHeads s c st ps with
      | none => none
      | some (bs, s) => some ((p, b) :: bs, s)
/-- RED forms its next line once every input line is present and every output holds a credit (R108); an uncorrectable word of its
local operand ends it (R84). DESIGN CHOICE (log entry 65): the rest of the last line that it sends is zero. -/
def moveRed (s : State) (c : Nat) (r : OpRun) : Option State :=
  let st := bits r.rcd 83 80
  let outs := redPorts (bits r.rcd 79 74)
  let ins := redPorts (bits r.rcd 73 68)
  if outs.any (fun p => decide ((s.streamAt (streamKey c p st)).credits = 0)) ||
      ins.any fun p => (s.streamAt (streamKey c p st)).buf.isEmpty then none
  else
    let a := redReads r.rcd r.pos
    let rd := sramRead s c (64 * bits r.rcd 143 128 + a.1) a.2
    match rd.2, takeHeads rd.1 c st ins with
    | some o, _ => some (updRun rd.1 c (r.stop .uncorrectable (16 + sramBank o) (sramDetail rd.1 c o)))
    | none, none => none
    | none, some (bs, s) =>
      let l := redLine (sramRd s c) r.rcd (bs.map fun b => b.2.line) r.pos
      let r := { r with flags := r.flags ||| l.2, pos := r.pos + 1, busy := decide (r.pos + 1 < redLines r.rcd) }
      let s := outs.foldl (fun s p => sendLine s c p st (lineOfBytes l.1) false) s
      let w := if bit r.rcd 84 then writeLine s c r (bits r.rcd 159 144 + r.pos - 1) l.1 else (s, r)
      let r := match bs.find? fun b => decide (b.2.check.map Prod.snd = some true) with
        | some b => w.2.stop .checkMismatch 100 (streamDetail b.1 st)
        | none => w.2
      some (updRun w.1 c r)
/-- The clock of a core's tier runs; a stopped router shows its neighbours back-pressure alone (R317). -/
def routerRuns (s : State) (c : Nat) : Bool := !(s.clkAt (tierOf c)).stopped
/-- Moves one line of a streaming op, if one can move. -/
def moveLine (s : State) (c : Nat) (r : OpRun) : Option State :=
  if !r.busy || !routerRuns s c then none
  else
    match opOf r.rcd with
    | 0x0B => moveSnd s c r
    | 0x0C => moveRcv s c r
    | 0x05 => moveRed s c r
    | _ => none
/-- Ports on which an op sends, and the stream on which it does. -/
def sendsOn (r : Rec) : List Nat × Nat :=
  match opOf r with
  | 0x0B => ([bits r 66 64], bits r 70 67)
  | 0x05 => (redPorts (bits r 79 74), bits r 83 80)
  | _ => ([], 0)
/-- A streaming op has a line for its outputs and a credit on each (R138). -/
def lineReady (s : State) (c : Nat) (r : OpRun) : Bool :=
  let x := sendsOn r.rcd
  r.busy && x.1.all (fun p => decide ((s.streamAt (streamKey c p x.2)).credits ≠ 0)) &&
    (decide (opOf r.rcd ≠ 0x05) ||
      (redPorts (bits r.rcd 73 68)).all fun p => !(s.streamAt (streamKey c p (bits r.rcd 83 80))).buf.isEmpty)
/-- A route has a line ready and a credit for it (R138). -/
def routeReady (s : State) (x : Route) : Bool :=
  !(s.streamAt (streamKey x.core x.inPort x.inStream)).buf.isEmpty &&
    decide ((s.streamAt (streamKey x.core x.outPort x.outStream)).credits ≠ 0)
/-- A stream of an output port is the next that the port serves: no op or route with a line ready and a credit comes before it in
the round robin (R138). -/
def portTurn (s : State) (c port st : Nat) : Bool :=
  let d := turnsTo s c port st
  (s.routes.all fun x => decide (x.core ≠ c ∨ x.outPort ≠ port) || !routeReady s x || decide (d ≤ turnsTo s c port x.outStream)) &&
    (s.coreAt c).inflight.all fun r =>
      !(sendsOn r.rcd).1.contains port || !lineReady s c r || decide (d ≤ turnsTo s c port (sendsOn r.rcd).2)
/-- The turn of an op has come on every port on which it sends; an op that sends nothing has none to wait for (R138). -/
def opTurn (s : State) (c : Nat) (r : OpRun) : Bool := (sendsOn r.rcd).1.all fun p => portTurn s c p (sendsOn r.rcd).2
/-- Moves every line of a core's streaming ops that can move now, each output port in its round robin (R138). -/
def pumpCore : Nat → State → Nat → State
  | 0, s, _ => s
  | n + 1, s, c =>
    match (s.coreAt c).inflight.findSome? fun r => if opTurn s c r then moveLine s c r else none with
    | some s' => pumpCore n s' c
    | none => s
/-- Lines that can move at one event: 16 streams of 8 lines on 6 ports, in and out, and every line of a RED. -/
def pumpFuel (k : Core) : Nat := k.inflight.foldl (fun a r => if opOf r.rcd = 0x05 then a + redLines r.rcd else a) 1536
/-- Moves what can move in a core. -/
def pumpAll (s : State) (c : Nat) : State := pumpCore (pumpFuel (s.coreAt c)) s c

-- Commands

/-- Transfers of an arriving line that the link code corrected (R139). -/
def corrections : LinkErr → Nat
  | .corrected | .correctedFlipped _ => 1
  | .correctedBoth => 2
  | _ => 0
/-- The line as the router received it (R139). -/
def received (l : Line) : LinkErr → Line
  | .flipped m | .correctedFlipped m => l ^^^ m
  | _ => l
/-- LINE_ARRIVAL (R114, R137, R139, R145): the next line on a link reaches the receive buffer of a router whose clock runs. -/
def execLineArrival (c : CoreId) (port : Fin 6) (stream : Fin 16) (err : LinkErr) (s : State) : Res :=
  let k := streamKey c.val port.val stream.val
  let v := s.streamAt k
  match v.wire with
  | .line l :: rest =>
    if v.buf.length ≥ 8 || !routerRuns s c.val then .next s
    else
      let l := received l err
      let s := if corrections err = 0 then s
        else { s with linkCorr := mmod s.linkCorr (6 * c.val + port.val) 0 (· + BitVec.ofNat 48 (corrections err)) }
      let e := popEnds rest
      let s := s.setStream k { v with
        wire := e.2, buf := v.buf ++ [⟨l, none⟩], recvPos := v.recvPos + 1, recvCrc := crcLine v.recvCrc l,
        recvSince := v.recvSince + 1, passed := none }
      let s := freeFlits s c.val port.val e.1
      .next (pumpAll (dropOrphans s c.val port.val stream.val) c.val)
  | _ => .next s
/-- The running op that took the last line of an input stream. -/
def takerOf (s : State) (c port st : Nat) : Option OpRun :=
  (s.coreAt c).inflight.find? fun r => usesInput r.rcd port st && decide (opOf r.rcd ≠ 0x0D)
/-- Hands a check word to what follows the line beside it: the buffer, the output to which a route has passed the line, or the op
that took it. -/
def placeCheck (s : State) (c port st : Nat) (w : W32) (bad : Bool) : State :=
  let k := streamKey c port st
  let v := s.streamAt k
  match v.buf.getLast? with
  | some b => s.setStream k { v with buf := v.buf.dropLast ++ [{ b with check := some (w, bad) }] }
  | none =>
    match v.passed with
    | some (p, t) => putWire (s.setStream k { v with passed := none }) c p t [.check w]
    | none =>
      match takerOf s c port st with
      | some r => if bad then updRun s c (r.stop .checkMismatch 100 (streamDetail port st)) else s
      | none => s
/-- CHECK_WORD_ARRIVAL (R115, R139). -/
def execCheckWordArrival (c : CoreId) (port : Fin 6) (stream : Fin 16) (s : State) : Res :=
  let k := streamKey c.val port.val stream.val
  let v := s.streamAt k
  match v.wire with
  | .check w :: rest =>
    if !routerRuns s c.val then .next s
    else
      let bad := decide (w ≠ crcWord v.recvCrc)
      let e := popEnds rest
      let s := s.setStream k { v with wire := e.2, recvCrc := 0xFFFFFFFF#32, recvSince := 0 }
      let s := freeFlits s c.val port.val e.1
      let s := if bad then streamRecord s c.val port.val stream.val .checkMismatch else s
      .next (placeCheck s c.val port.val stream.val w bad)
  | _ => .next s
/-- CREDIT_RETURN (R137): a credit on its way back reaches the sender of an output stream. -/
def execCreditReturn (c : CoreId) (port : Fin 6) (stream : Fin 16) (s : State) : Res :=
  let k := streamKey c.val port.val stream.val
  let v := s.streamAt k
  if v.creditsBack = 0 || !routerRuns s c.val then .next s
  else .next (pumpAll (s.setStream k { v with credits := v.credits + 1, creditsBack := v.creditsBack - 1 }) c.val)
/-- A route after it has carried one line: it releases itself with its last one (R116). -/
def countRoute (s : State) (r : Route) : State :=
  if r.left = 0 then s
  else if r.left = 1 then { s with routes := s.routes.erase r }
  else { s with routes := s.routes.map fun x => if x = r then { r with left := r.left - 1 } else x }
/-- A route whose output port serves it next (R138). -/
def routeTurn (s : State) (r : Route) : Bool := portTurn s r.core r.outPort r.outStream
/-- The head line of a route's input goes to its output, with the check word beside it; one that has not come yet will follow it
(R115, R142). -/
def forwardLine (s : State) (c : Nat) (r : Route) (b : BufLine) : State :=
  let s := serveTurn s c r.outPort r.outStream
  let s := s.modStream (streamKey c r.outPort r.outStream) fun v => { v with credits := v.credits - 1, sendPos := v.sendPos + 1 }
  match b.check with
  | some (w, _) => putWire s c r.outPort r.outStream [.line b.line, .check w]
  | none =>
    putWire (s.modStream (streamKey c r.inPort r.inStream) fun v =>
      if v.buf.isEmpty then { v with passed := some (r.outPort, r.outStream) } else v) c r.outPort r.outStream [.line b.line]
/-- TRANSIT_FORWARD (R138, R142, R145): the head line of a route's input goes to its output when a credit is held and the output
port's turn has come to it; ops that waited for their turn behind it go on. -/
def execTransitForward (c : CoreId) (port : Fin 6) (stream : Fin 16) (s : State) : Res :=
  match routeOn s c.val port.val stream.val with
  | none => .next s
  | some r =>
    if (s.streamAt (streamKey c.val r.outPort r.outStream)).credits = 0 || !routerRuns s c.val || !routeTurn s r then .next s
    else
      match takeHead s c.val port.val stream.val with
      | none => .next s
      | some (b, s) => .next (pumpAll (dropOrphans (countRoute (forwardLine s c.val r b) r) c.val port.val stream.val) c.val)

-- SRAM port events (R83, R85)

/-- Advances a datapath counter of R119. -/
def bumpCtr (k : Core) (i n : Nat) : Core := { k with ctr := mmod k.ctr i 0 (· + BitVec.ofNat 48 n) }
/-- Arrays that run an op, 0 to 3. -/
def busyArrays (k : Core) : List Nat :=
  (natsFrom 0 4).filter fun a => k.inflight.any fun r =>
    match r.unit with
    | .arrays m => m.val.testBit a
    | _ => false
/-- The ops of the running arrays have waited n cycles for a refused feed: ARRAY_STALL (R93). -/
def stallArrays (k : Core) (n : Nat) : Core := (busyArrays k).foldl (fun k a => bumpCtr k (4 + a) n) k
/-- PORT_STARVATION_GRANT (R83, R93): a requester refused for 32 cycles is served; its refused cycles have counted, and those of an
array feed (priority 1) as ARRAY_STALL too. The row is the priority row of R83 less 1. -/
def execPortStarvationGrant (c : CoreId) (_bank : Fin 32) (row : Fin 7) (s : State) : Res :=
  .next (s.modCore c.val fun k => bumpCtr (if row.val = 0 then stallArrays k 32 else k) (14 + row.val) 32)
/-- A lap of a core's SRAM ends once every bank has given 1,536 lines; the longest lap is kept (R85, R191). -/
def endSramLap (s : State) (c : Nat) : State :=
  let k := s.coreAt c
  if (natsFrom 0 32).all fun b => decide (mget k.scrubLine b 0 ≥ 1536) then
    let ms := min (2 ^ 24 - 1) ((s.nowNat - max k.scrubStart.toNat s.memc.fillTime.toNat) / 1000000)
    { s.modCore c fun k => { k with
        scrubLine := (k.scrubLine.map fun e => (e.1, e.2 - 1536)).filter fun e => decide (e.2 ≠ 0), scrubStart := s.time.now } with
      memc := { s.memc with sramLapMs := max s.memc.sramLapMs ms } }
  else s
/-- The scrubber reads the next line of a bank: a correctable word is written back and counted (R84, R85). -/
def scrubSram (s : State) (c bank : Nat) : State :=
  let i := mget (s.coreAt c).scrubLine bank 0
  let off := 64 * (32 * (i % 1536) + bank)
  let lo := sramDpa c off / 8
  let fix := s.err.sram.filter fun e => decide (lo ≤ e.1) && decide (e.1 < lo + 8) && decide (e.2 = .corrected)
  let s := fix.foldl (fun st e => sramCorrected st c (e.1 * 8 - sramDpa c 0)) s
  let s := { s with err := { s.err with sram := s.err.sram.filter fun e => !fix.contains e } }
  endSramLap (s.modCore c fun k => { k with scrubLine := mset k.scrubLine bank (i + 1) 0 }) c
/-- SRAM_SCRUB (R85): one idle main-port cycle of a bank. -/
def execSramScrub (c : CoreId) (bank : Fin 32) (s : State) : Res := .next (scrubSram s c.val bank.val)
/-- SRAM_SCRUB_FORCED (R85, R94): the scrubber takes one cycle at priority 1; a running array op loses one feed cycle. -/
def execSramScrubForced (c : CoreId) (bank : Fin 32) (s : State) : Res :=
  let s := scrubSram s c.val bank.val
  .next (s.modCore c.val fun k => bumpCtr (stallArrays k 1) 14 (b2n !(busyArrays k).isEmpty))

end Sys2Proof.Machine
end

