-- ==== Sys2Proof/Machine/Nbu.lean ====
section
/-! DEFINITION. The near-bank units seen through their windows (R201 to R206, R213 to R216): the checks of a command, the
command queue, query slots and region parameters, result queues, status lines and merge groups. -/

namespace Sys2Proof.Machine

-- The fields of a command (R205, R206)

/-- NTOK of ATTP, ATTQK, ATTAV. -/
def cmdNtok (l : Line) : Nat := bits l 327 320
/-- HEADS of ATTP, ATTQK, ATTAV. -/
def cmdHeads (l : Line) : Nat := bits l 331 328
/-- SCORE_EN of ATTP. -/
def cmdScoreEn (l : Line) : Bool := bit l 332
/-- MERGE of an ATTP. -/
def cmdMerge (l : Line) : Bool := decide (cmdOp l = 1) && bit l 333
/-- MGROUP of ATTP. -/
def cmdGroup (l : Line) : Nat := bits l 335 334
/-- QSLOT. -/
def cmdSlot (l : Line) : Nat := bits l 17 16
/-- QWAIT. -/
def cmdQwait (l : Line) : Bool := bit l 15
/-- STATUS_EN. -/
def cmdStatusEn (l : Line) : Bool := bit l 13
/-- SIG_EN. -/
def cmdSigEn (l : Line) : Bool := bit l 12
/-- COUNT of GATHER and SCATTER. -/
def cmdEntries (l : Line) : Nat := bits l 330 320
/-- N and SEG of RSUM. -/
def rsumN (l : Line) : Nat := bits l 351 328
/-- SEG of RSUM. -/
def rsumSeg (l : Line) : Nat := bits l 367 352
/-- FMT of RSUM. -/
def rsumFmt (l : Line) : Option FloatFmt := (Fmt.ofCode (bits l 327 324)).bind Fmt.float?
/-- Bytes of an RSUM element. -/
def rsumBytes (l : Line) : Nat :=
  match bits l 327 324 with
  | 0 => 4 | 1 => 2 | _ => 1
/-- Words of FMT_IN staging of KVAPP: K then V, 128 elements each. -/
def kvStaging (l : Line) : Nat :=
  match bits l 323 320 with
  | 0 => 16 | 1 => 8 | _ => 4
/-- DOFF, LINES and CHK_OFF of BCHK. -/
def bchkOff (l : Line) : Nat := bits l 378 352
/-- LINES of BCHK. -/
def bchkLines (l : Line) : Nat := bits l 399 384
/-- CHK_OFF of BCHK. -/
def bchkTab (l : Line) : Nat := bits l 442 416
/-- The command reads query elements of its slot: ATTP and ATTQK alone hold a slot against a write (R203; DESIGN CHOICE, log entry 94). -/
def usesSlot (l : Line) : Bool := decide (cmdOp l = 1) || decide (cmdOp l = 2)
/-- Lines of data that a command posts (R207, R208). -/
def dataLines (l : Line) : Nat :=
  match cmdOp l with
  | 1 => if cmdMerge l then 0 else 9 * cmdHeads l
  | 2 => if (cmdRange l 3).words = 0 then cdiv (cmdHeads l * cmdNtok l) 16 else 0
  | 3 => if (cmdRange l 3).words = 0 then 9 * cmdHeads l else 0
  | 0x0A => if (cmdRange l 1).words = 0 then cdiv (rsumN l / max 1 (rsumSeg l)) 16 else 0
  | _ => 0

-- The checks of a command (R198, R202, R206)

/-- Bits of a command that its op lists beyond the header and the ranges' fields. -/
def parBits (op : Nat) : List (Nat × Nat) :=
  match op with
  | 1 => [(339, 320), (383, 352)]
  | 2 => [(331, 320)]
  | 3 => [(331, 320)]
  | 4 => [(324, 320), (341, 336), (349, 344), (355, 352), (415, 384)]
  | 5 => [(332, 320), (351, 336), (355, 352), (415, 384)]
  | 6 => [(383, 320)]
  | 8 => [(330, 320)]
  | 9 => [(330, 320)]
  | 0x0A => [(322, 320), (351, 324), (367, 352)]
  | 0x0B => [(320, 320), (378, 352), (399, 384), (442, 416)]
  | _ => []
/-- A word with every bit of the listed fields. -/
def fieldMask (fs : List (Nat × Nat)) : Line := BitVec.ofNat 512 (fs.foldl (fun a f => a + (2 ^ (f.1 + 1) - 2 ^ f.2)) 0)
/-- Every reserved field of a command is zero (R198, R205, R206). -/
def cmdReservedOk (l : Line) : Bool :=
  let hdr := [(17, 0), (47, 32), (98, 64), (162, 128), (226, 192), (290, 256)]
  decide (l &&& ~~~fieldMask (hdr ++ parBits (cmdOp l)) = 0)
/-- Two ranges share a word. -/
def Rng.meets (a b : Rng) : Bool :=
  decide (a.words > 0 ∧ b.words > 0 ∧ a.ba < b.ba + b.words ∧ b.ba < a.ba + a.words)
/-- A used range with a number of words and a direction. -/
def Rng.isFor (r : Rng) (words : Nat) (wr : Bool) : Bool := decide (r.words = words) && (r.wr == wr)
/-- A used range of any length. -/
def Rng.used (r : Rng) (wr : Bool) : Bool := decide (r.words > 0) && (r.wr == wr)
/-- A range that is not used. -/
def Rng.off (r : Rng) : Bool := decide (r.words = 0)
/-- Words of the K and V scales of n tokens. -/
def scaleWords (n : Nat) : Nat := cdiv (2 * n) 64
/-- The bytes of the scale word that KVAPP writes do not overlap. -/
def kvBytesOk (l : Line) : Bool :=
  let k := bits l 341 336
  let v := bits l 349 344
  let sc := bits l 355 352
  decide (k ≠ v) && (!bit l 324 || (decide (k / 4 ≠ sc) && decide (v / 4 ≠ sc)))
/-- The fields and range relations that an op requires (R206). RG1 of RSUM has exactly the words that its output fills (DESIGN CHOICE, log
entry 94). -/
def cmdShapeOk (l : Line) : Bool :=
  let r := cmdRange l
  let nt := cmdNtok l
  let h := cmdHeads l
  let att := decide (1 ≤ nt ∧ nt ≤ 64 ∧ 1 ≤ h ∧ h ≤ 8)
  match cmdOp l with
  | 1 => att && (r 0).isFor nt false && (r 1).isFor nt false && (r 2).isFor (scaleWords nt) false &&
      (if cmdScoreEn l then (r 3).isFor 1 true else (r 3).off)
  | 2 => att && (r 0).isFor nt false && (r 1).off && (r 2).isFor (scaleWords nt) false &&
      ((r 3).off || (r 3).isFor (cdiv (h * nt) 16) true)
  | 3 => att && (r 0).isFor (cdiv (h * nt) 64) false && (r 1).isFor nt false && (r 2).isFor (scaleWords nt) false &&
      ((r 3).off || (r 3).isFor (9 * h) true)
  | 4 => decide (bits l 323 320 ≤ 2) && kvBytesOk l && (r 0).isFor (kvStaging l) false && (r 1).isFor 1 true &&
      (r 2).isFor 1 true && (r 3).isFor 1 true
  | 5 => (r 0).used true && (r 1).off && (r 2).off && (r 3).off && decide (1 ≤ bits l 332 320 ∧ bits l 332 320 ≤ 4096) &&
      decide (1 ≤ bits l 351 336 ∧ (bits l 351 336 - 1) * bits l 332 320 < (r 0).words)
  | 6 => (r 0).used true && (r 1).off && (r 2).off && (r 3).off
  | 7 => (r 0).used false && (r 1).isFor (r 0).words true && !(r 0).meets (r 1) && (r 2).off && (r 3).off
  | 8 => decide (1 ≤ cmdEntries l ∧ cmdEntries l ≤ 1024) && (r 0).isFor (cdiv (cmdEntries l) 16) false &&
      (r 1).isFor (cmdEntries l) true && (r 2).used false && (r 3).off && !(r 1).meets (r 2) && !(r 1).meets (r 0) && !(r 2).meets (r 0)
  | 9 => decide (1 ≤ cmdEntries l ∧ cmdEntries l ≤ 1024) && (r 0).isFor (cdiv (cmdEntries l) 16) false &&
      (r 1).isFor (cmdEntries l) false && (r 2).used true && (r 3).off && !(r 1).meets (r 2) && !(r 1).meets (r 0) && !(r 2).meets (r 0)
  | 0x0A => decide (bits l 322 320 ≤ 3) && (rsumFmt l).isSome && decide (1 ≤ rsumN l ∧ 1 ≤ rsumSeg l ∧ rsumN l % rsumSeg l = 0) &&
      (r 0).isFor (cdiv (rsumN l * rsumBytes l) 64) false && (r 2).off && (r 3).off &&
      (if (r 1).words = 0 then decide (rsumN l / rsumSeg l ≤ 4080) else (r 1).isFor (cdiv (rsumN l / rsumSeg l) 16) true)
  | 0x0B => (r 0).off && (r 1).off && (r 2).off && (r 3).off && decide (bchkOff l % 64 = 0) &&
      decide (1 ≤ bchkLines l ∧ bchkLines l ≤ 49152 ∧ bchkOff l + 64 * bchkLines l ≤ dramBytes) &&
      decide (bchkTab l % 4 = 0 ∧ bchkTab l + 4 * cdiv (bchkLines l) 64 ≤ dramBytes)
  | _ => false
/-- No used range runs past word 98,303 (R198). -/
def cmdRangesOk (l : Line) : Bool :=
  [0, 1, 2, 3].all fun k => decide ((cmdRange l k).words = 0 ∨ (cmdRange l k).ba + (cmdRange l k).words ≤ 98304)
/-- CHK_BASE is none (R204). -/
def noChkBase : W32 := 0xFFFFFFFF#32
/-- The checks of R202. -/
def cmdOk (r : Region) (l : Line) (via : Path) : Bool :=
  cmdReservedOk l && cmdShapeOk l && cmdRangesOk l && !(cmdRecomp l && decide (r.chkBase = noChkBase)) &&
    !(cmdSigEn l && decide (via = .service))

-- Writes of the command window (R31, R201 to R204)

/-- Commands queued or running in an NBU (R215): a running command keeps its place in the queue of 64 until it completes. -/
def Nbu.load (n : Nbu) : Nat := n.queue.length + b2n n.running.isSome
/-- Some command of a region is queued or running. -/
def Region.working (r : Region) : Bool := r.nbus.any fun e => decide (e.2.load > 0)
/-- Outcome of a write of one line of a command window. -/
inductive WinOut where
  | done (s : State)
  | fail (st : Status)
  /-- the queue is full: the write waits for a free entry -/
  | full
/-- A running command of the NBU uses a query slot. -/
def Nbu.slotInUse (n : Nbu) (slot : Nat) : Bool :=
  match n.running with
  | some run => usesSlot run.cmd.cmd && decide (cmdSlot run.cmd.cmd = slot)
  | none => false
/-- Writes a line of a query slot; line 17 counts an arm (R203). -/
def Nbu.writeSlot (n : Nbu) (slot line : Nat) (l : Line) : Nbu :=
  let a := mget n.arms slot 0
  { n with
    slots := mset n.slots (18 * slot + line) l 0#512,
    arms := if line = 17 ∧ a.val < 15 then mset n.arms slot (a + 1) 0 else n.arms }
/-- A COMMAND line (R202). -/
def enqueueCmd (s : State) (c n : Nat) (l : Line) (via : Path) : WinOut :=
  let r := s.regionAt c
  let u := s.nbuAt c n
  if !cmdOk r l via then .fail .badDescriptor
  else if u.load ≥ 64 then .full
  else .done (s.setNbu c n { u with queue := u.queue ++ [⟨l, via⟩] })
/-- A QUERY line (R203). -/
def writeQuery (s : State) (c n slot line : Nat) (l : Line) : WinOut :=
  let u := s.nbuAt c n
  if u.slotInUse slot then .fail .operandBusy else .done (s.setNbu c n (u.writeSlot slot line l))
/-- A QUERY_ALL line (R203). -/
def writeQueryAll (s : State) (c slot line : Nat) (l : Line) : WinOut :=
  if (natsFrom 0 16).any fun n => (s.nbuAt c n).slotInUse slot then .fail .operandBusy
  else .done ((natsFrom 0 16).foldl (fun st n => st.modNbu c n fun u => u.writeSlot slot line l) s)
/-- The REGION_PARAM line (R204). -/
def writeParam (s : State) (c : Nat) (l : Line) : WinOut :=
  let v := bits l 31 0
  if (s.regionAt c).working then .fail .operandBusy
  else if bits l 511 32 ≠ 0 ∨ (v ≠ 0xFFFFFFFF ∧ (v % 4 ≠ 0 ∨ v > 0x5FFFFFC)) then .fail .badDescriptor
  else .done (s.modRegion c fun r => { r with chkBase := BitVec.ofNat 32 v })
/-- A write of one aligned line of an NBU's command window (R31, R201). -/
def windowWrite (s : State) (c n line : Nat) (l : Line) (via : Path) : WinOut :=
  if (s.regionAt c).mode ≠ .compute then .fail .stateConflict
  else if line < 256 then enqueueCmd s c n l via
  else if line < 328 then writeQuery s c n ((line - 256) / 18) ((line - 256) % 18) l
  else if 512 ≤ line ∧ line < 584 then writeQueryAll s c ((line - 512) / 18) ((line - 512) % 18) l
  else if line = 1024 then writeParam s c l
  else .fail .addrFault

-- Reads of the result window (R31, R213 to R216)

/-- Code of a region mode (R199). -/
def RMode.code : RMode → Nat
  | .normal => 0 | .compute => 1 | .drain => 2
/-- A result header (R214). -/
def resultHeader (cmd : Line) (st : Status) (fl : Flags) (kind lines : Nat) (detail : W32) (time : W64) : Line :=
  BitVec.ofNat 512 (cmdTag cmd + cmdOp cmd * 2 ^ 16 + st.code * 2 ^ 24 + fl.toNat * 2 ^ 32 + kind * 2 ^ 40 + lines * 2 ^ 48 +
    detail.toNat * 2 ^ 64 + time.toNat % 2 ^ 48 * 2 ^ 96)
/-- The STATUS line of an NBU (R215). -/
def statusLine (s : State) (c n : Nat) : Line :=
  let u := s.nbuAt c n
  let arms := (natsFrom 0 4).foldl (fun a k => a + (mget u.arms k 0).val * 2 ^ (56 + 4 * k)) 0
  BitVec.ofNat 512 ((s.regionAt c).mode.code + u.load * 2 ^ 8 + u.results.length * 2 ^ 16 + u.lastTag.toNat * 2 ^ 32 +
    u.lastStatus.toNat * 2 ^ 48 + arms + u.completed.toNat * 2 ^ 72 + u.yields.toNat * 2 ^ 120 + u.discarded.toNat * 2 ^ 168)
/-- Stale pages of a region. -/
def stalePages (s : State) (c : Nat) : Nat := (s.err.stale.filter fun k => decide (k / 49152 = c)).length
/-- The REGION_STATUS line (R215). -/
def regionStatusLine (s : State) (c : Nat) : Line :=
  let r := s.regionAt c
  let idle := decide (r.mode = .drain) && !r.working
  BitVec.ofNat 512 (r.mode.code + b2n idle * 2 ^ 8 + r.chkBase.toNat * 2 ^ 72 + stalePages s c * 2 ^ 120)
/-- Bytes of a line from a position on that its layout leaves unnamed: free values, drawn by the counter. -/
def fillFrom (k pos : Nat) : Nat :=
  (natsFrom pos (64 - pos)).foldl (fun a i => a + (Config.fillByte k i).toNat * 2 ^ (8 * i)) 0
/-- The lines of one head in the layout of R111; the head's count of R216 stands at bytes 12–15. -/
def groupHead (k : Nat) (t : Triple) (failed : W32) : List Line :=
  BitVec.ofNat 512 (t.m.toNat + t.l.toNat * 2 ^ 32 + t.dropped.toNat * 2 ^ 64 + failed.toNat * 2 ^ 96 + fillFrom k 16) ::
    linesOf 8 (t.o.flatMap fun x => leBytes x.toNat 4)
/-- Line k of a merge group's buffer. -/
def groupLine (free : Nat) (r : Region) (g k : Nat) : Line :=
  let b := (mget r.groups g MGroup.empty).buffer
  if b.isEmpty then (groupHead free (tripleEmpty 128 0#32) 0#32).getD (k % 9) 0#512 else b.getD k 0#512
/-- Line of a result window as a read that consumes nothing returns it (R213). -/
def peekLine (s : State) (c n line : Nat) : Line :=
  if line = 0 then statusLine s c n
  else if line < 256 then (s.nbuAt c n).results.headD 0#512
  else if 1024 ≤ line ∧ line < 1312 then groupLine s.free (s.regionAt c) ((line - 1024) / 72) ((line - 1024) % 72)
  else if line = 1536 then regionStatusLine s c
  else 0#512
/-- The read is of line 0 of a merge group. -/
def groupOfLine0 (line : Nat) : Option Nat :=
  if 1024 ≤ line ∧ line < 1312 ∧ (line - 1024) % 72 = 0 then some ((line - 1024) / 72) else none
/-- A read that consumes (R213), for every line but a group's line 0: a POP removes its line. -/
def consumeLine (s : State) (c n line : Nat) : Line × State :=
  let l := peekLine s c n line
  if 1 ≤ line ∧ line < 256 then (l, s.modNbu c n fun u => { u with results := u.results.drop 1 }) else (l, s)
/-- R216: a consuming read of line 0 starts a round, which the running ATTP commands of the group join. -/
def startRound (s : State) (c g : Nat) : State :=
  let r := s.regionAt c
  let grp := mget r.groups g MGroup.empty
  if grp.pendingFold then s
  else
    let join := fun (run : NbuRun) =>
      { run with inRound := run.inRound || (cmdMerge run.cmd.cmd && decide (cmdGroup run.cmd.cmd = g)) }
    let nbus := mall r.nbus Nbu.empty fun u => { u with running := u.running.map join }
    s.setRegion c { r with nbus := nbus, groups := mset r.groups g { grp with pendingFold := true } MGroup.empty }

-- The fold (R216)

/-- Partials of a head, in NBU order. -/
def headPartials (r : Region) (g h : Nat) : List Triple :=
  (natsFrom 0 16).filterMap fun n => mget? (mget r.nbus n Nbu.empty).partials (8 * g + h)
/-- The fold of one head, with its flags (R243); without partials it reads as empty. -/
def foldHead (r : Region) (g h : Nat) : Triple × Flags :=
  match headPartials r g h with
  | [] => (tripleEmpty 128 0#32, 0)
  | t :: ts => ts.foldl (fun a x => let m := mergeTriple a.1 x; (m.1, a.2 ||| m.2)) (t, 0)
/-- Flags of the fold of a group (R243). -/
def foldFlags (r : Region) (g : Nat) : Flags := (natsFrom 0 8).foldl (fun a h => a ||| (foldHead r g h).2) 0
/-- The group after its fold: the buffer, the partials cleared, the failure count started again. -/
def foldGroup (free : Nat) (r : Region) (g : Nat) : Region :=
  let grp := mget r.groups g MGroup.empty
  let buf := (natsFrom 0 8).flatMap fun h => groupHead (free + h) (foldHead r g h).1 grp.failed
  { r with
    groups := mset r.groups g { buffer := buf, pendingFold := false, failed := 0 } MGroup.empty,
    nbus := mall r.nbus Nbu.empty fun u => { u with
      partials := u.partials.filter (fun p => decide (p.1 / 8 ≠ g)),
      running := u.running.map fun run => if cmdGroup run.cmd.cmd = g then { run with inRound := false } else run } }
/-- The round of a group waits for a running command. -/
def roundBusy (r : Region) (g : Nat) : Bool :=
  r.nbus.any fun e => match e.2.running with
    | some run => run.inRound && cmdMerge run.cmd.cmd && decide (cmdGroup run.cmd.cmd = g)
    | none => false

end Sys2Proof.Machine
end

