-- ==== Sys2Proof/Machine/QuantOps.lean ====
section
/-! DEFINITION. The quantiser unit: ranges, scales and conversions (R54 to R58), the ops QSCAN, QCONV and DQ (R109, R110),
block checks (CHK, R121), and the optimiser step OPTU (R60, R61, R125, R126). -/

namespace Sys2Proof.Machine

-- Ranges (R54)

/-- The range of one granule: absmax or max in `lo` alone, or min and max; whether it holds a finite element; its flags. -/
structure Range where
  lo : Val
  hi : Val
  anyFin : Bool
  flags : Flags
/-- Largest and smallest finite elements (R54); 0 where there is none (R56). -/
def rangeOf (asym unsignedT : Bool) (xs : List Val) : Range :=
  let fin := xs.filter Val.isFin
  let fl := xs.foldl (fun a x => a ||| inFlags x) 0
  match fin with
  | [] => ⟨Val.zero, Val.zero, false, fl⟩
  | x :: t =>
    if asym then ⟨t.foldl Val.min x, t.foldl Val.max x, true, fl⟩
    else if unsignedT then ⟨t.foldl Val.max x, Val.zero, true, fl⟩
    else ⟨t.foldl (fun a y => Val.max a y.abs) x.abs, Val.zero, true, fl⟩
/-- A range record from which a scale is substituted by a row that names ZERO_RANGE (R56). -/
def rangeZero (t : Fmt) (asym : Bool) (r : Range) : Bool :=
  if !r.anyFin then true
  else if asym then r.lo.eq r.hi
  else if t.unsignedInt then !(Val.zero.lt r.lo)
  else if t = .mxfp4 then false
  else r.lo.isZero
/-- Block-scale exponent of a finite, non-zero absmax (R55, R56). -/
def mxExp (absmax : Val) : Int := max (-127) (floorLog2 absmax.snum.natAbs absmax.den - 2)

-- Scales and conversion (R55 to R57)

/-- Largest code magnitude of a symmetric target (R55). -/
def qmaxOf : Fmt → Nat
  | .int8s => 127 | .int4s => 7 | .e4m3 => 448 | .e5m2 => 57344 | .k4 => 7 | _ => 1
/-- Largest code of an unsigned target. -/
def utop (t : Fmt) : Nat := if t = .int4u then 15 else 255
/-- An FP32 scale from an exact quotient, rounded once, with SCALE_UNDERFLOW where it rounds to zero (R56). -/
def scale32 (v : Val) : Nat × Flags :=
  let e := fFP32.encode ⟨false, false⟩ v
  if (f32 e.1).isZero then (0, e.2 ||| Flag.scaleUnderflow) else e
/-- FP32 code of 1.0. -/
def one32 : Nat := 0x3F800000
/-- FP32 scale, zero point and flags of a granule from its range record (R55, R56). DESIGN CHOICE (log entry 63): where max = min ≠ 0
and the scale of that row rounds to zero, the scale and the zero point are 0 and both flags are set. -/
def makeScale (t : Fmt) (asym : Bool) (lo hi : Val) : Nat × Nat × Flags :=
  if asym then
    if lo.eq hi && lo.isZero then (one32, 0, Flag.zeroRange)
    else
      let span := if lo.eq hi then lo.abs else Val.add hi lo.neg
      let e := scale32 (Val.div span (Val.ofInt (utop t)))
      let fl := e.2 ||| flagIf (lo.eq hi) Flag.zeroRange
      if (f32 e.1).isZero then (0, 0, fl)
      else
        let q := Val.div lo.neg (f32 e.1)
        (e.1, (clampInt 0 (utop t) (roundInt q.snum q.den)).toNat, fl)
  else if t.unsignedInt then
    if !(Val.zero.lt lo) then (one32, 0, Flag.zeroRange)
    else let e := scale32 (Val.div lo (Val.ofInt (utop t))); (e.1, 0, e.2)
  else if lo.isZero then (one32, 0, Flag.zeroRange)
  else let e := scale32 (Val.div lo.abs (Val.ofInt (qmaxOf t))); (e.1, 0, e.2)
/-- Integer bounds of a target. -/
def intBounds : Fmt → Int × Int
  | .int8s => (-128, 127) | .int4s => (-8, 7) | .int8u => (0, 255) | .int4u => (0, 15) | _ => (-7, 7)
/-- One element converted with an FP32 scale and a zero point (R41, R57); a zero scale stores 0 (R56). -/
def qconvElem (t : Fmt) (satInf : Bool) (scale zp : Nat) (x : Val) : Nat × Flags :=
  let sc := f32 scale
  if sc.isZero then (0, inFlags x ||| Flag.scaleUnderflow)
  else
    match t.float? with
    | some ff =>
      let e := ff.encode ⟨false, satInf⟩ (Val.div x sc)
      (e.1, e.2 ||| inFlags x)
    | none =>
      let b := intBounds t
      let e := match x with
        | .fin .. =>
          let q := Val.div x sc
          let r := roundInt q.snum q.den + zp
          (toCode t.width (clampInt b.1 b.2 r), flagIf (decide (r < b.1 ∨ r > b.2)) Flag.sat)
        | _ => toIntCode t.width b.1 b.2 zp x
      (e.1, e.2 ||| inFlags x)
/-- A K4 vector: element codes, E4M3 scale and flags, from its absmax (R41, R42, R55 to R57). -/
def quantK4 (absmax : Val) (xs : List Val) : List Nat × Nat × Flags :=
  let fl := xs.foldl (fun a x => a ||| inFlags x) 0
  let zeros := List.replicate xs.length 0
  let zr := flagIf absmax.isZero Flag.zeroRange
  if fl ≠ 0 then (zeros, 0x7F, fl ||| zr)
  else if absmax.isZero then (zeros, 0x00, zr)
  else
    let q := Val.div absmax.abs (Val.ofInt 7)
    if q.lt (Val.scaled 1 (-10)) then (zeros, 0x00, Flag.scaleUnderflow)
    else
      let e := fE4M3.encode ⟨false, false⟩ q
      let sc := fE4M3.decode e.1
      let cs := xs.map fun x =>
        let v := Val.div x sc
        let r := roundInt v.snum v.den
        (toCode 4 (clampInt (-7) 7 r), flagIf (decide (r < -7 ∨ r > 7)) Flag.sat)
      let p := codesFlags cs
      (p.1, e.1, e.2 ||| p.2)
/-- An MXFP4 block: element codes, E8M0 scale and flags, from its absmax (R41, R42, R55 to R57). Of a range record that QSCAN never writes
the magnitude counts, and one that is not finite makes the block NaN (DESIGN CHOICE, log entry 84). -/
def quantMx (absmax : Val) (xs : List Val) : List Nat × Nat × Flags :=
  let fl := xs.foldl (fun a x => a ||| inFlags x) 0
  let zeros := List.replicate xs.length 0
  if fl ≠ 0 then (zeros, 0xFF, fl ||| flagIf (xs.all fun x => !x.isFin) Flag.zeroRange)
  else if absmax.isZero then (zeros, 0x00, 0)
  else if !absmax.isFin then (zeros, 0xFF, inFlags absmax)
  else
    let e := mxExp absmax
    let p := codesFlags (xs.map fun x => fE2M1.encode ⟨false, false⟩ (Val.mul x (Val.scaled 1 (-e))))
    (p.1, (e + 127).toNat, p.2)

-- QSCAN, QCONV, DQ (R109, R110)

/-- Elements of a granule (R109). -/
def granSize (r : Rec) : Nat :=
  match bits r 75 73 with
  | 0 => bits r 111 88
  | 1 => 32
  | 2 => 128
  | 3 => 256
  | _ => max 1 (bits r 127 112)
/-- Granules of an op's N elements: first element and number. -/
def granules (r : Rec) : List (Nat × Nat) :=
  let n := bits r 111 88
  let g := granSize r
  (natsFrom 0 (cdiv n (max 1 g))).map fun i => (i * g, min g (n - i * g))
/-- A row of elements without scale of their own. -/
def elemsFrom (rd : Nat → Byte) (la : Nat) (f : Fmt) (a n : Nat) : List Val :=
  (natsFrom a n).map fun i => f.elem (elemCode rd la f i) 0
/-- Issue cycles of a QU op (R59). -/
def quCtrs (r : Rec) : List (Nat × Nat) := [(13, cdiv (bits r 111 88) 64)]
/-- QSCAN (R54, R110). -/
def qscanCompute (c : Nat) (r : Rec) (s : State) : OpOut :=
  let rd := sramRd s c
  let t := recFmt r 68
  let asym := bit r 72
  let rs := (granules r).map fun g => rangeOf asym t.unsignedInt (elemsFrom rd (bits r 143 128) (recFmt r 64) g.1 g.2)
  let fl := rs.foldl (fun a x => a ||| x.flags ||| flagIf (rangeZero t asym x) Flag.zeroRange) 0
  let recs := rs.flatMap fun x =>
    leBytes (rnd32 x.lo).1 4 ++ (if asym then leBytes (rnd32 x.hi).1 4 else [])
  let exps := (rs.filter fun x => x.anyFin && !x.lo.isZero).map fun x => mxExp x.lo
  let wb : Int := match exps with
    | [] => -127
    | e :: es => es.foldl min e
  let aux := if t = .mxfp4 ∧ bits r 159 144 ≠ 0xFFFF then [(64 * bits r 159 144, leBytes (toCode 32 wb) 4)] else []
  { OpOut.results fl ((64 * bits r 175 160, recs) :: aux) with ctrs := quCtrs r }
/-- Ranges that QSCAN reads. -/
def qscanReads (r : Rec) : List (Nat × Nat) := [(bits r 143 128, (recFmt r 64).bytes (bits r 111 88))]
/-- A granule of an unsigned target scaled from zero whose largest element is at most zero, with a negative element: SAT (R56). -/
def negativeSat (t : Fmt) (asym : Bool) (hi : Val) (xs : List Val) : Flags :=
  flagIf (t.unsignedInt && !asym && !(Val.zero.lt hi) && xs.any fun x => x.lt Val.zero) Flag.sat
/-- What QCONV makes of one granule: codes, scale code, zero point and flags; an infinite range record is an infinite input
(R50). -/
def qconvGranule (t : Fmt) (asym satInf : Bool) (lo hi : Val) (xs : List Val) : List Nat × Nat × Nat × Flags :=
  let fr := inFlags lo ||| inFlags hi
  match t with
  | .k4 => let q := quantK4 lo xs; (q.1, q.2.1, 0, q.2.2 ||| fr)
  | .mxfp4 => let q := quantMx lo xs; (q.1, q.2.1, 0, q.2.2 ||| fr)
  | _ =>
    let sc := makeScale t asym lo hi
    let p := codesFlags (xs.map fun x => qconvElem t satInf sc.1 sc.2.1 x)
    (p.1, sc.1, sc.2.1, sc.2.2 ||| p.2 ||| negativeSat t asym lo xs ||| fr)
/-- Bytes of one scale (R110). -/
def scaleBytes (t : Fmt) : Nat := if t = .k4 ∨ t = .mxfp4 then 1 else 4
/-- QCONV (R57, R110). -/
def qconvCompute (c : Nat) (r : Rec) (s : State) : OpOut :=
  let rd := sramRd s c
  let t := recFmt r 68
  let asym := bit r 72
  let gs := granules r
  let aux := bits r 159 144
  let out := ((natsFrom 0 gs.length).zip gs).map fun ig =>
    let lo := f32 (f32At rd aux (if asym then 2 * ig.1 else ig.1))
    let hi := if asym then f32 (f32At rd aux (2 * ig.1 + 1)) else Val.zero
    qconvGranule t asym (bit r 76) lo hi (elemsFrom rd (bits r 143 128) (recFmt r 64) ig.2.1 ig.2.2)
  let fl := out.foldl (fun a x => a ||| x.2.2.2) 0
  let scs := out.flatMap fun x => leBytes x.2.1 (scaleBytes t)
  let scLa := bits r 191 176
  let zps := if asym then [(64 * (scLa + cdiv scs.length 64), out.map fun x => BitVec.ofNat 8 x.2.2.1)] else []
  { OpOut.results fl
      ((64 * bits r 175 160, packElems t.width (out.flatMap fun x => x.1)) :: (64 * scLa, scs) :: zps) with ctrs := quCtrs r }
/-- Ranges that QCONV reads. -/
def qconvReads (r : Rec) : List (Nat × Nat) :=
  qscanReads r ++ [(bits r 159 144, (granules r).length * (if bit r 72 then 8 else 4))]
/-- A K4 scale: its value, SCALE_SIGN for a negative non-zero one, which counts as its magnitude (R38). -/
def k4Scale (code : Nat) : Val × Flags :=
  let v := fE4M3.decode code
  (if v.isFin then v.abs else v, flagIf (v.isFin && v.isNeg && !v.isZero) Flag.scaleSign)
/-- A K4 element with its scale (R38): a zero scale means zero, with the sign of the element (DESIGN CHOICE, log entry 63). -/
def k4Elem (code : Nat) (sc : Val) : Val := if sc.isNan then .nan else Val.mul (Val.ofInt (sext 4 code)) sc
/-- DQ (R58, R110). -/
def dqCompute (c : Nat) (r : Rec) (s : State) : OpOut :=
  let rd := sramRd s c
  let f := recFmt r 64
  let fo := recFmt r 68
  let ff := fo.float?.getD fFP32
  let gs := granules r
  let la := bits r 143 128
  let aux := bits r 159 144
  let sb := gs.length * scaleBytes f
  let out := ((natsFrom 0 gs.length).zip gs).map fun ig =>
    let byteSc := (rd (64 * aux + ig.1)).toNat
    let zp := if bit r 72 then (rd (64 * (aux + cdiv sb 64) + ig.1)).toNat else 0
    let k4 := k4Scale byteSc
    let p := codesFlags ((natsFrom ig.2.1 ig.2.2).map fun i =>
      let code := elemCode rd la f i
      ff.encode ⟨false, false⟩ (match f with
        | .k4 => k4Elem code k4.1
        | .mxfp4 => mxVal (f.elem code 0) byteSc
        | _ => Val.mul (f.elem code zp) (f32 (f32At rd aux ig.1))))
    (p.1, p.2 ||| (match f with
      | .k4 => k4.2
      | .mxfp4 => 0
      | _ => inFlags (f32 (f32At rd aux ig.1))))
  let fl := out.foldl (fun a x => a ||| x.2) 0
  { OpOut.results fl [(64 * bits r 175 160, packElems fo.width (out.flatMap Prod.fst))] with ctrs := quCtrs r }
/-- Ranges that DQ reads. -/
def dqReads (r : Rec) : List (Nat × Nat) :=
  let f := recFmt r 64
  let n := (granules r).length
  let sb := n * scaleBytes f
  (bits r 143 128, f.bytes (bits r 111 88)) :: (bits r 159 144, sb) ::
    (if bit r 72 then [(bits r 159 144 + cdiv sb 64, n)] else [])

-- CHK (R121, R370)

/-- Check word of block b of a run of lines. -/
def blockCrc (rd : Nat → Byte) (la lines blk b : Nat) : Nat :=
  let n := min blk (lines - b * blk)
  crc32c ((natsFrom (64 * (la + b * blk)) (64 * n)).map rd)
/-- Block length of a CHK (R121). -/
def chkBlk (r : Rec) : Nat := if bits r 110 104 = 0 then 64 else bits r 110 104
/-- Blocks of a CHK. -/
def chkBlocks (r : Rec) : Nat := cdiv (bits r 103 88) (chkBlk r)
/-- CHK (R121). -/
def chkCompute (c : Nat) (r : Rec) (s : State) : OpOut :=
  let rd := sramRd s c
  let la := bits r 143 128
  let tb := bits r 159 144
  let crc := blockCrc rd la (bits r 103 88) (chkBlk r)
  if bit r 64 then
    match (natsFrom 0 (chkBlocks r)).find? fun b => decide (crc b ≠ f32At rd tb b) with
    | some b => OpOut.fail .checkMismatch 0 0 (BitVec.ofNat 192 (b * 2 ^ 32))
    | none => OpOut.nothing
  else OpOut.results 0 [(64 * tb, (natsFrom 0 (chkBlocks r)).flatMap fun b => leBytes (crc b) 4)]
/-- Ranges that CHK reads. -/
def chkReads (r : Rec) : List (Nat × Nat) :=
  (bits r 143 128, 64 * bits r 103 88) :: (if bit r 64 then [(bits r 159 144, 4 * chkBlocks r)] else [])

-- OPTU (R60, R61, R125, R126)

/-- Parameters of OPTU (R125). -/
structure OptPar where
  gscale : Val
  b1 : Val
  omb1 : Val
  b2 : Val
  omb2 : Val
  c1 : Val
  c2 : Val
  eps : Val
  lam : Val
  nlr : Val
/-- The parameters at their line. -/
def OptPar.at_ (rd : Nat → Byte) (la : Nat) : OptPar :=
  let p := fun i => f32 (f32At rd la i)
  { gscale := p 0, b1 := p 1, omb1 := p 2, b2 := p 3, omb2 := p 4, c1 := p 5, c2 := p 6, eps := p 7, lam := p 8, nlr := p 9 }
/-- One rounded VFU step of OPTU: the value with the flags so far. -/
def optR (v : Val) (fl : Flags) : Val × Flags := (f32 (rnd32 v).1, fl ||| (rnd32 v).2)
/-- One element of OPTU: m, v and the BF16 code of w′, with flags (R126). -/
def optElem (p : OptPar) (g m0 v0 msm msv : Val) (w : Nat) : Val × Val × Nat × Flags :=
  let wv := fBF16.decode w
  let ins := [g, msm, msv, wv, p.gscale, p.b1, p.omb1, p.b2, p.omb2, p.c1, p.c2, p.eps, p.lam, p.nlr]
  let g1 := optR (Val.mul g p.gscale) (ins.foldl (fun a x => a ||| inFlags x) 0)
  let m1 := optR (Val.mul m0 msm) g1.2
  let v1 := optR (Val.mul v0 msv) m1.2
  let a := optR (Val.mul m1.1 p.b1) v1.2
  let m := optR (Val.add (Val.mul p.omb1 g1.1) a.1) a.2
  let t := optR (Val.mul g1.1 p.omb2) m.2
  let b := optR (Val.mul v1.1 p.b2) t.2
  let v := optR (Val.add (Val.mul t.1 g1.1) b.1) b.2
  let mh := optR (Val.mul m.1 p.c1) v.2
  let vh := optR (Val.add (Val.mul v.1 p.c2) p.eps) mh.2
  let rr := vRsq fFP32 ⟨true, false⟩ vh.1
  let r := f32 rr.1
  let u := optR (Val.mul mh.1 r) (vh.2 ||| rr.2 ||| flagIf (r.isInf) Flag.infSeen)
  let d := optR (Val.add (Val.mul p.lam wv) u.1) u.2
  let w' := fBF16.encode ⟨true, false⟩ (Val.add (Val.mul p.nlr d.1) wv)
  (m.1, v.1, w'.1, d.2 ||| w'.2)
/-- What OPTU makes of one block of 256 elements. -/
structure OptBlock where
  m : List Nat
  v : List Nat
  sm : Nat
  sv : Nat
  w : List Nat
  flags : Flags
/-- One block of OPTU; the moments are requantised with scales found in the block (R60, R61). A moment block without a range sets ZERO_RANGE, as
a block of QCONV does (R50 names QSCAN, QCONV and KVAPP; DESIGN CHOICE, log entry 84). -/
def optBlock (rd : Nat → Byte) (wd : Nat → Nat) (r : Rec) (k : Nat) : OptBlock :=
  let par := OptPar.at_ rd (bits r 167 152)
  let ms := bits r 151 136
  let msm := f32 (f32At rd ms (2 * k))
  let msv := f32 (f32At rd ms (2 * k + 1))
  let es := (natsFrom (256 * k) 256).map fun i =>
    optElem par (Fmt.e5m2.elem (elemCode rd (bits r 103 88) .e5m2 i) 0) (Fmt.int8s.elem (elemCode rd (bits r 119 104) .int8s i) 0)
      (Fmt.int8u.elem (elemCode rd (bits r 135 120) .int8u i) 0) msm msv (wd i)
  let ms' := es.map fun e => e.1
  let vs' := es.map fun e => e.2.1
  let qm := qconvGranule .int8s false false (rangeOf false false ms').lo Val.zero ms'
  let qv := qconvGranule .int8u false false (rangeOf false true vs').lo Val.zero vs'
  { m := qm.1, v := qv.1, sm := qm.2.1, sv := qv.2.1, w := es.map fun e => e.2.2.1,
    flags := es.foldl (fun a e => a ||| e.2.2.2) (qm.2.2.2 ||| qv.2.2.2) }
/-- OPTU from its operands (R125, R126): results in SRAM and in the core's DRAM slot. -/
def optuCompute (c : Nat) (r : Rec) (s : State) : OpOut :=
  let rd := sramRd s c
  let n := bits r 87 64
  let wOff := bits r 194 168
  let wd := fun i => leNat (dramByte s c) (wOff + 2 * i) 2
  let bs := (natsFrom 0 (n / 256)).map fun k => optBlock rd wd r k
  { OpOut.results (bs.foldl (fun a b => a ||| b.flags) 0)
      [(64 * bits r 119 104, packElems 8 (bs.flatMap fun b => b.m)), (64 * bits r 135 120, packElems 8 (bs.flatMap fun b => b.v)),
        (64 * bits r 151 136, bs.flatMap fun b => leBytes b.sm 4 ++ leBytes b.sv 4)] with
    dwrites := [(wOff, bs.flatMap fun b => b.w.flatMap fun x => leBytes x 2)],
    ctrs := [(12, cdiv (14 * n) 32), (13, cdiv n 64)] }
/-- Ranges of SRAM that OPTU reads. -/
def optuReads (r : Rec) : List (Nat × Nat) :=
  let n := bits r 87 64
  [(bits r 103 88, n), (bits r 119 104, n), (bits r 135 120, n), (bits r 151 136, 8 * (n / 256)), (bits r 167 152, 40)]

end Sys2Proof.Machine
end

