-- ==== Sys2Proof/Machine/ChimneyOps.lean ====
section
/-! DEFINITION. The ops of the chimney: CHRD and CHWR (R117, R180), NBC CMD and NBC RESULT (R118), and what the chimney does
with the lines that NBC moves one by one. -/

namespace Sys2Proof.Machine

/-- Bytes of a core's DRAM slot. -/
def dramRd (s : State) (c : Nat) : Nat → Byte := dramByte s c
/-- The end of an op that met an uncorrectable word of DRAM: the record names the bank (R170). -/
def dramFail (s : State) (c off : Nat) : OpOut :=
  OpOut.fail .uncorrectable 0 (64 + bankOf off) (dramDetail s c off false)
/-- Reads ranges (slot offset, bytes) of a core's DRAM slot: the first word that cannot be delivered, if any. -/
def dramReads (s : State) (c : Nat) : List (Nat × Nat) → State × Option Nat
  | [] => (s, none)
  | (off, n) :: t =>
    let r := dramRead s c off n
    match r.2 with
    | some o => (r.1, some o)
    | none => dramReads r.1 c t

-- CHRD and CHWR (R117)

/-- LINES of CHRD and CHWR. -/
def chLines (r : Rec) : Nat := bits r 87 72
/-- DOFF. -/
def chOff (r : Rec) : Nat := bits r 122 96
/-- CHK_OFF. -/
def chTab (r : Rec) : Nat := bits r 170 144
/-- Words of the check table of n lines. -/
def tabWords (n : Nat) : Nat := cdiv n 64
/-- First block whose check differs from the table in DRAM. -/
def firstBadBlock (s : State) (c doff lines tab : Nat) : Option Nat :=
  (natsFrom 0 (tabWords lines)).find? fun b =>
    decide (blockCrc (dramRd s c) (doff / 64) lines 64 b ≠ leNat (dramRd s c) (tab + 4 * b) 4)
/-- The check words of a run of lines in a core's SRAM, as bytes. -/
def sramTable (s : State) (c la lines : Nat) : List Byte :=
  (natsFrom 0 (tabWords lines)).flatMap fun b => leBytes (blockCrc (sramRd s c) la lines 64 b) 4
/-- CHRD (R117): the lines read, and with BCHK the first block that differs. A mismatch ends the op after its lines have been
written. -/
def chrdCompute (c : Nat) (r : Rec) (s : State) : OpOut :=
  let n := chLines r
  let lines := [(64 * bits r 143 128, (natsFrom (chOff r) (64 * n)).map (dramRd s c))]
  match (if bit r 64 then firstBadBlock s c (chOff r) n (chTab r) else none) with
  | some b => { OpOut.fail .checkMismatch 0 96 (BitVec.ofNat 192 (b * 2 ^ 32 + (chOff r + 4096 * b) * 2 ^ 64)) with writes := lines }
  | none => OpOut.results 0 lines
/-- Ranges of DRAM that CHRD reads. -/
def chrdReads (r : Rec) : List (Nat × Nat) :=
  (chOff r, 64 * chLines r) :: (if bit r 64 then [(chTab r, 4 * tabWords (chLines r))] else [])
/-- CHWR (R117): the lines for DRAM, and with BCHK their check table. -/
def chwrCompute (c : Nat) (r : Rec) (s : State) : OpOut :=
  let n := chLines r
  let la := bits r 143 128
  { OpOut.nothing with
    dwrites := (chOff r, (natsFrom (64 * la) (64 * n)).map (sramRd s c)) ::
      (if bit r 64 then [(chTab r, sramTable s c la n)] else []) }
/-- Ranges of SRAM that CHWR reads. -/
def chwrReads (r : Rec) : List (Nat × Nat) := [(bits r 143 128, 64 * chLines r)]
/-- Runs a computation after reads of DRAM (R170) and of SRAM (R84). -/
def computeDram (s : State) (c sub : Nat) (dreads reads : List (Nat × Nat)) (f : State → OpOut) : State × OpOut :=
  let d := dramReads s c dreads
  match d.2 with
  | some o => (d.1, dramFail d.1 c o)
  | none => computeOp d.1 c sub reads f
/-- The weights that OPTU reads (R125). -/
def optuDreads (r : Rec) : List (Nat × Nat) := [(bits r 194 168, 2 * bits r 87 64)]

-- Results written to DRAM when an op ends (R169, R219)

/-- One range of an op's results: the lines before the first one that is busy or cannot be written, and the status and slot
offset of that line. -/
def commitRange (s : State) (c off : Nat) (bs : List Byte) : State × Option (Status × Nat) :=
  match busyIn s c off bs.length with
  | some o =>
    let w := dramWrite s c off (bs.take (o - off))
    (w.1, some (.operandBusy, o))
  | none =>
    let w := dramWrite s c off bs
    match w.2 with
    | some o => (w.1, some (.uncorrectable, o))
    | none => (w.1, none)
/-- Every range in turn; the first that fails stops the rest. -/
def commitDram (s : State) (c : Nat) : List (Nat × List Byte) → State × Option (Status × Nat)
  | [] => (s, none)
  | (off, bs) :: t =>
    let w := commitRange s c off bs
    match w.2 with
    | some e => (w.1, some e)
    | none => commitDram w.1 c t

-- NBC CMD and NBC RESULT (R118)

/-- ACTION of NBC. -/
def nbcAction (r : Rec) : Nat := bits r 65 64
/-- NBU of NBC. -/
def nbcUnit (r : Rec) : Nat := bits r 71 68
/-- COUNT of NBC. -/
def nbcCount (r : Rec) : Nat := bits r 79 72
/-- Window line that an NBC reaches next. -/
def nbcLine (r : OpRun) : Nat := bits r.rcd 125 112 + r.pos
/-- The op has moved one more line. -/
def nbcMoved (r : OpRun) : OpRun := { r with pos := r.pos + 1, busy := decide (r.pos + 1 < nbcCount r.rcd) }
/-- NBC CMD writes its next line (R201, R202): a full queue holds it. -/
def nbcCmdMove (s : State) (c : Nat) (r : OpRun) : Option State :=
  let la := bits r.rcd 111 96 + r.pos
  let n := nbcUnit r.rcd
  match windowWrite s c n (nbcLine r) (rdLine s.mem (sramDpa c (64 * la))) .chimney with
  | .full => none
  | .fail st => some (updRun s c (r.stop st (64 + n) 0))
  | .done _ =>
    let rd := sramRead s c (64 * la) 64
    match rd.2 with
    | some o => some (updRun rd.1 c (r.stop .uncorrectable (16 + sramBank o) (sramDetail rd.1 c o)))
    | none =>
      match windowWrite rd.1 c n (nbcLine r) (rdLine rd.1.mem (sramDpa c (64 * la))) .chimney with
      | .done s' => some (updRun s' c (nbcMoved r))
      | _ => none
/-- NBC RESULT has its next line, which it writes to SRAM. -/
def nbcTake (s : State) (c : Nat) (r : OpRun) (l : Line) : State :=
  let w := writeLine s c (nbcMoved r) (bits r.rcd 111 96 + r.pos) (bytesOf l 64)
  updRun w.1 c w.2
/-- NBC RESULT reads its next line (R213): line 0 of a group starts a round and waits for the fold (R216). -/
def nbcResultMove (s : State) (c : Nat) (r : OpRun) : Option State :=
  match groupOfLine0 (nbcLine r) with
  | some g =>
    if (mget (s.regionAt c).groups g MGroup.empty).pendingFold then none else some (startRound s c g)
  | none =>
    let x := consumeLine s c (nbcUnit r.rcd) (nbcLine r)
    some (nbcTake x.2 c r x.1)
/-- The NBC that the chimney of a core runs, if it still has lines to move. -/
def nbcRun (s : State) (c : Nat) : Option OpRun :=
  (s.coreAt c).inflight.find? fun r => decide (r.unit = .chimney) && decide (opOf r.rcd = 0x10) && r.busy
/-- Moves one line of the running NBC, if one can move; a region in a mode that admits no access ends it (R31, R118). -/
def nbcMove (s : State) (c : Nat) : Option State :=
  match nbcRun s c with
  | none => none
  | some r =>
    match nbcAction r.rcd with
    | 0 => nbcCmdMove s c r
    | 1 => if (s.regionAt c).mode = .normal then some (updRun s c (r.stop .stateConflict (64 + nbcUnit r.rcd) 0)) else nbcResultMove s c r
    | _ => none
/-- Moves every line of the running NBC that can move now. -/
def pumpNbc : Nat → State → Nat → State
  | 0, s, _ => s
  | n + 1, s, c =>
    match nbcMove s c with
    | some s' => pumpNbc n s' c
    | none => s
/-- Lines and rounds of one NBC. -/
def pumpChimney (s : State) (c : Nat) : State := pumpNbc 512 s c

end Sys2Proof.Machine
end

