-- ==== Sys2Proof/Machine/Clocks.lean ====
section
/-! DEFINITION. Reference inputs, frequency steps and global time: the commands of chapter 11. -/

namespace Sys2Proof.Machine

-- References (R318 to R321)

/-- A reference input. -/
def State.refAt (s : State) (r : Ref) : RefIn :=
  match r with
  | .a => s.clk.refA
  | .b => s.clk.refB
/-- Replaces a reference input. -/
def State.setRef (s : State) (r : Ref) (v : RefIn) : State :=
  match r with
  | .a => { s with clk := { s.clk with refA := v } }
  | .b => { s with clk := { s.clk with refB := v } }
/-- The other reference. -/
def otherRef : Ref → Ref
  | .a => .b
  | .b => .a
/-- Starts a glitch-free switch or failover (R320). -/
def startSwitch (s : State) (r : Ref) : State := { s with clk := { s.clk with switchTo := some r, holdover := false } }
/-- The root PLL's record with detail REF_LOST (R321). -/
def refRecord (s : State) (cls : ErrClass) : Report := { unit := hearthUnit s 264, status := 0, cls := cls, code := 6 }
/-- The root PLL holds over (R321). -/
def holdOver (s : State) : State :=
  report { s with clk := { s.clk with holdover := true, switchTo := none } } (refRecord s .contained)
/-- Loss of the active reference (R321), also while a switch is in progress (R330). -/
def loseActive (s : State) (r : Ref) : State :=
  match s.clk.switchTo with
  | some x => if x ≠ r && (s.refAt x).ready then report s (refRecord s .corrected) else holdOver s
  | none =>
    if (s.refAt (otherRef r)).ready && s.clk.autoFailover then report (startSwitch s (otherRef r)) (refRecord s .corrected)
    else holdOver s

/-- The loss of a reference is a loss of the active one, or of the target of a switch whose active one is lost already: then both are
(R330). -/
def losesRoot (s : State) (r : Ref) : Bool :=
  decide (s.clk.active = r) || (decide (s.clk.switchTo = some r) && !(s.refAt s.clk.active).present)
/-- REFERENCE_LOSS (R318, R321, R330): 8 missing edges are a loss; a frequency outside ±300 ppm ends READY alone. -/
def execReferenceLoss (e : RefFall) (s : State) : Res :=
  let r := e.ref
  let v := s.refAt r
  if !v.present then .next s
  else
    match e.what with
    | .tolerance => .next (s.setRef r { v with ready := false })
    | .edges =>
      let s := s.setRef r ⟨false, false, satAdd 8 v.losses 1⟩
      if losesRoot s r && s.clk.rootLocked && !s.clk.holdover then .next (loseActive s r) else .next s
/-- REFERENCE_READY (R318, R321): edges make a reference PRESENT, and 1.024 ms in tolerance READY; in holdover the lost reference, or
the other with AUTO_FAILOVER, is then taken. -/
def execReferenceReady (e : RefRise) (s : State) : Res :=
  let r := e.ref
  let v := s.refAt r
  match e.what with
  | .edges => .next (s.setRef r { v with present := true })
  | .qualified =>
    if !v.present then .next s
    else
      let s := s.setRef r { v with ready := true }
      if s.clk.holdover && (decide (s.clk.active = r) || s.clk.autoFailover) then .next (startSwitch s r) else .next s
/-- Outcome of a write of CLK_SRC_SEL.SRC (R319). -/
def switchResult (s : State) (r : Ref) : Status :=
  if s.clk.switchTo.isSome then .stateConflict
  else if s.clk.active = r && !s.clk.holdover then .ok
  else if !(s.refAt r).ready then .srcNotReady
  else .ok
/-- A request of the reference r (R319); ignored in SAFE and before READY (R255, R446). -/
def requestSwitch (s : State) (r : Ref) : State :=
  if !s.dev.ready || s.dev.state = .safe then s
  else
    let st := switchResult s r
    let go := decide (st = .ok) && !(decide (s.clk.active = r) && !s.clk.holdover)
    let s := { s with clk := { s.clk with switchResult := st } }
    if go then startSwitch s r else s
/-- REFERENCE_SWITCH_REQUEST (R319). -/
def execReferenceSwitchRequest (r : Ref) (s : State) : Res := .next (requestSwitch s r)
/-- REFERENCE_SWITCH_COMPLETE (R320): the target becomes active; a target lost meanwhile leaves the PLL in holdover. -/
def execReferenceSwitchComplete (s : State) : Res :=
  match s.clk.switchTo with
  | none => .next s
  | some r =>
    if (s.refAt r).present then .next { s with clk := { s.clk with active := r, switchTo := none } } else .next (holdOver s)
/-- Entry to SAFE for a clock fault (R322): the root PLL runs free, and relocks with a reset only. -/
def clockSafe (s : State) (r : Report) : State :=
  let s := enterSafe s r
  { s with clk := { s.clk with rootLocked := false, holdover := false, switchTo := none } }
/-- HOLDOVER_EXPIRY (R321, R322). -/
def execHoldoverExpiry (s : State) : Res :=
  if s.clk.holdover then .next (clockSafe s (refRecord s .deviceFatal)) else .next s
/-- TIMEBASE_LOCK_LOSS (R321): global time is held. -/
def execTimebaseLockLoss (s : State) : Res :=
  if !s.clk.timebaseLocked then .next s
  else
    let s := { s with clk := { s.clk with timebaseLocked := false }, time := { s.time with held := true } }
    .next (clockSafe s { unit := hearthUnit s 265, status := 0, cls := .deviceFatal })

-- Frequency steps (R323, R324)

/-- CAP of a tier in CLK_STEP_CAP. -/
def capOf (s : State) (t : Nat) : Nat := bits s.clk.stepCap (3 * t + 2) (3 * t)
/-- CLK_STEP.FLOOR of a tier: the slower of the ageing and bypass floors (R329, R368). -/
def TierClk.floor (k : TierClk) : Nat := max k.floorAge k.floorBypass
/-- Fastest code that a tier may run at (R323, R359). -/
def limitOf (s : State) (t : Nat) : Nat := max (capOf s t) (max (s.clkAt t).floor (s.clkAt t).thermal)
/-- Lowest set-point of a step, mV (R333). -/
def vfLow : Nat → Nat
  | 0 => 820 | 1 => 750 | 2 => 700 | 3 => 660 | _ => 620
/-- VCT set-point of a step: the fused value and its raise (R333, R366). -/
def setpointOf (s : State) (t step : Nat) : Nat := mget s.fuse.vf (5 * t + step) (vfLow step) + mget (s.ageAt t).raise step 0
/-- Requests a step (R323, R324): one per tier at a time, no faster than the limits, to a code that differs. -/
def requestStep (s : State) (t step : Nat) : State :=
  let k := s.clkAt t
  if k.target.isSome || k.stopped || decide (step < limitOf s t) || decide (step = k.cur) || decide (step > 4) then s
  else s.modClk t fun k => { k with target := some step }
/-- No unit of the tier runs an op, and no Weevil slice (R323). -/
def tierDrained (s : State) (t : Nat) : Bool :=
  (s.core.all fun e => !decide (tierOf e.1 = t) || (e.2.inflight.isEmpty && e.2.queued.isEmpty)) &&
    !(s.weevil.running && decide (tierOf s.weevil.core = t))
/-- The divider changes and the quadrants restart; the compute rail takes the step's set-point (R323, R333). -/
def finishStep (s : State) (t step : Nat) : State :=
  let s := s.modClk t fun k => { k with cur := step, target := none, toBypass := false, phase := 0 }
  let s := s.modPwr t fun v => { v with setpoint := setpointOf s t step }
  { s with clk := { s.clk with steps := s.clk.steps + 1 } }
/-- FREQ_STEP_REQUEST (R323). -/
def execFreqStepRequest (t : TierId) (step : Fin 5) (s : State) : Res := .next (requestStep s t.val step.val)
/-- FREQ_STEP_STOP (R323, R336): after the drain the divider changes; a move to bypass closes its switch meanwhile. -/
def execFreqStepStop (t : TierId) (s : State) : Res :=
  let k := s.clkAt t.val
  match k.target with
  | none => .next s
  | some step =>
    if k.stopped || !tierDrained s t.val then .next s
    else
      let s' := finishStep s t.val (max step (limitOf s t.val))
      if k.toBypass then .next (s'.modPwr t.val fun v => { v with bypass := true }) else .next s'
/-- Withdraws a pending step that may be withdrawn, and counts it (R324, R333). -/
def withdrawStep (s : State) (t : Nat) : State :=
  let k := s.clkAt t
  if k.target.isNone || k.toBypass then s
  else
    let s := s.modClk t fun k => { k with target := none }
    { s with clk := { s.clk with deferred := satAdd 16 s.clk.deferred 1 } }
/-- FREQ_STEP_WITHDRAW (R324, R330, R333). -/
def execFreqStepWithdraw (t : TierId) (s : State) : Res := .next (withdrawStep s t.val)

-- Global time (R326, R329)

/-- FIREFLY_PULSE (R326): at every instant at which bits [19:0] of the counter become zero; each tier that it reaches follows it. -/
def execFireflyPulse (reached : BitVec 8) (s : State) : Res :=
  if !s.clk.timebaseLocked || s.time.held || decide (s.nowNat % 2 ^ 20 ≠ 0) then .next s
  else .next { s with time := { s.time with
      tierSync := s.time.tierSync ||| reached,
      missRun := s.time.missRun.filter fun e => !bit reached e.1 } }
/-- FIREFLY_MISS (R326): the fourth miss in a row clears the tier's bit and writes a record. -/
def execFireflyMiss (t : TierId) (s : State) : Res :=
  let run := mget s.time.missRun t.val 0 + 1
  let s1 := { s with time := { s.time with missed := satAdd 8 s.time.missed 1, missRun := mset s.time.missRun t.val run 0 } }
  if run = 4 then
    let s2 := { s1 with time := { s1.time with tierSync := s1.time.tierSync &&& ~~~(BitVec.ofNat 8 (2 ^ t.val)) } }
    .next (reportContained s2 (tierUnit s2 t.val) .ok)
  else .next s1

/-- CAP as CLK_STEP_CAP holds it: codes 5 to 7 are written as 4 (R329). -/
def clampCap (v : W64) : BitVec 24 :=
  BitVec.ofNat 24 ((natsFrom 0 8).foldl (fun a t => a + min 4 (bits v (3 * t + 2) (3 * t)) * 2 ^ (3 * t)) 0)
/-- Requests the step that a tier's limits need (R445). -/
def requestNeeded (s : State) (t : Nat) : State :=
  if (s.clkAt t).cur < limitOf s t then requestStep s t (limitOf s t) else s
/-- A write of CLK_STEP_CAP (R329, R445); ignored in SAFE and before READY. -/
def writeStepCap (s : State) (v : W64) : State :=
  if !s.dev.ready || s.dev.state = .safe then s
  else (natsFrom 0 8).foldl requestNeeded { s with clk := { s.clk with stepCap := clampCap v } }
/-- CLK_STEP_CAP_WRITE (R445). -/
def execClkStepCapWrite (value : W64) (s : State) : Res := .next (writeStepCap s value)

/-- This device follows a master (R310, R329). -/
def followsMaster (s : State) : Bool := (masterPort s).isSome
/-- A write of TIME_ADJ.STEP_NS (R329); ignored on a follower with ADJ_IGNORED, and in SAFE. -/
def adjStep (s : State) (v : W64) : State :=
  if !s.dev.ready || s.dev.state = .safe then s
  else if followsMaster s then { s with time := { s.time with adjIgnored := true } }
  else { s with time := { s.time with now := s.time.now + BitVec.ofNat 64 (bits v 31 0) } }
/-- A write of TIME_ADJ.SLEW_PPB (R329): clamped to ±100,000. -/
def adjSlew (s : State) (v : W64) : State :=
  if !wholeMap s then s
  else if followsMaster s then { s with time := { s.time with adjIgnored := true } }
  else { s with time := { s.time with slew := BitVec.ofInt 18 (clampInt (-100000) 100000 (sext 18 (bits v 49 32))) } }
/-- TIME_ADJ_STEP (R329, R445). -/
def execTimeAdjStep (value : W64) (s : State) : Res := .next (adjStep s value)
/-- TIME_ADJ_SLEW (R329, R445). -/
def execTimeAdjSlew (value : W64) (s : State) : Res := .next (adjSlew s value)

end Sys2Proof.Machine
end

