-- ==== Sys2Proof/Machine/Sensors.lean ====
section
/-! DEFINITION. Temperature sensors and their zones (R356), and the cross-check of the start (R410). -/

namespace Sys2Proof.Machine

/-- Sensors in each zone of a layer (R356): four in a compute layer, one in any other. -/
def zoneSensors (l : Nat) : Nat := if l % 2 = 0 ∧ l > 0 then 4 else 1
/-- The first sensor of a layer: sensors are numbered by layer, then zone. -/
def layerBase (l : Nat) : Nat := (natsFrom 0 l).foldl (fun a k => a + 16 * zoneSensors k) 0
/-- The sensors of a zone that are not excluded. -/
def sensorsOf (bad : List Nat) (l z : Nat) : List Nat :=
  (natsFrom (layerBase l + z * zoneSensors l) (zoneSensors l)).filter fun i => !bad.contains i
/-- Sensor temperature of a zone: the highest reading of its sensors. -/
def zoneReading (bad : List Nat) (dc : List Int) (l z : Nat) : Int :=
  match sensorsOf bad l z with
  | [] => 0
  | i :: t => t.foldl (fun a j => max a (dc.getD j 0)) (dc.getD i 0)

/-- Inserts a reading into a rising list. -/
def insertInt (x : Int) : List Int → List Int
  | [] => [x]
  | y :: t => if x ≤ y then x :: y :: t else y :: insertInt x t
/-- Twice the median of an even number of readings. -/
def twiceMedian (xs : List Int) : Int :=
  let ys := xs.foldr insertInt []
  ys.getD (ys.length / 2 - 1) 0 + ys.getD (ys.length / 2) 0
/-- Sensors of a layer that read more than 5 K from its median (R410). -/
def farSensors (dc : List Int) (l : Nat) : List Nat :=
  let ids := natsFrom (layerBase l) (16 * zoneSensors l)
  let m := twiceMedian (ids.map fun i => dc.getD i 0)
  ids.filter fun i => decide ((2 * dc.getD i 0 - m).natAbs > 100)
/-- A layer has a zone that is left without a sensor. -/
def zoneBlind (bad : List Nat) (l : Nat) : Bool := (natsFrom 0 16).any fun z => (sensorsOf bad l z).isEmpty

/-- Sensor temperature of a zone. -/
def Layer.temp (v : Layer) (z : Nat) : Int := mget v.sensor z 0
/-- Control temperature of a zone (R357, R361, R362). -/
def Layer.control (v : Layer) (z : Nat) : Int :=
  if v.suspect then max (max (v.temp z) (mget v.estimate z 0)) (v.proxy.getD (v.temp z)) else v.temp z
/-- The forecast that the device acts on (R357). -/
def Layer.acted (v : Layer) (z : Nat) : Int := v.control z + (mget v.forecast z 0 - mget v.estimate z 0)

end Sys2Proof.Machine
end

