-- ==== Sys2Proof/Machine/Table.lean ====
section
/-! DEFINITION. Page tables of the region controllers and their mirrors (R228 to R230). -/

namespace Sys2Proof.Machine

-- Entries (R229)

/-- STATE codes of R229: 0 INVALID, 1 SPARE, 2 OPEN, 3 FULL, 4 HELD. -/
def pteState (e : BitVec 128) : Nat := bits e 2 0
/-- CTX. -/
def pteCtx (e : BitVec 128) : Nat := bits e 15 8
/-- LAYER. -/
def pteLayer (e : BitVec 128) : Nat := bits e 22 16
/-- SEQ. -/
def pteSeq (e : BitVec 128) : Nat := bits e 37 24
/-- COUNT. -/
def pteCount (e : BitVec 128) : Nat := bits e 46 40
/-- BGRP. -/
def pteGroup (e : BitVec 128) : Nat := bits e 49 48
/-- FBA. -/
def pteFba (e : BitVec 128) : Nat := bits e 80 64
/-- An entry with STATE, SEQ and COUNT replaced. -/
def pteWith (e : BitVec 128) (st seq count : Nat) : BitVec 128 :=
  BitVec.ofNat 128 (e.toNat - pteState e - pteSeq e * 2 ^ 24 - pteCount e * 2 ^ 40 + st % 8 + seq % 2 ^ 14 * 2 ^ 24 + count % 128 * 2 ^ 40)
/-- Entry i of a table. -/
def pteAt (r : Region) (i : Nat) : BitVec 128 := mget r.table i 0#128
/-- The entry holds a page of a context-layer in OPEN or FULL. -/
def pteHolds (e : BitVec 128) (ctx layer : Nat) : Bool :=
  decide ((pteState e = 2 ∨ pteState e = 3) ∧ pteCtx e = ctx ∧ pteLayer e = layer)
/-- The entry is valid. -/
def pteValid (e : BitVec 128) : Bool := decide (pteState e ≠ 0)
/-- Fragments of two frames share a bank word (R228). -/
def frameMeets (a b : BitVec 128) : Bool :=
  decide (pteGroup a = pteGroup b ∧ pteFba a < pteFba b + 33 ∧ pteFba b < pteFba a + 33)
/-- A word of a frame lies in the mirror. -/
def frameInMirror (m : Nat) (e : BitVec 128) : Bool :=
  (natsFrom 0 4).any fun f => (natsFrom (pteFba e) 33).any fun ba =>
    let o := baOff (pteGroup e + 4 * f) ba
    decide (m ≤ o ∧ o < m + 513 * 64)

-- The mirror (R230)

/-- Line 0 of the mirror. -/
def mirrorHead (r : Region) : List Byte :=
  leBytes (r.gen.toNat + (r.table.filter fun e => pteValid e.2).length * 2 ^ 32) 64
/-- Line 1 + k of the mirror. -/
def mirrorLine (r : Region) (k : Nat) : List Byte :=
  [0, 1, 2, 3].flatMap fun j => bytesOf (pteAt r (4 * k + j)) 16
/-- The region controller writes one line of its own region. -/
def writeOwn (s : State) (c off : Nat) (bs : List Byte) : State :=
  { dramWritePage s c off bs.length with mem := wrBytes s.mem (dramDpa c off) bs }
/-- Writes the lines of the changed entries, then line 0. -/
def writeMirror (s : State) (c : Nat) (changed : List Nat) : State :=
  match (s.regionAt c).mirror with
  | none => s
  | some m =>
    let s := ((changed.map (· / 4)).foldl addOnce []).foldl (fun st k => writeOwn st c (m + 64 * (1 + k)) (mirrorLine (st.regionAt c) k)) s
    writeOwn s c m (mirrorHead (s.regionAt c))
/-- Entries replaced in a table. -/
def putEntries (t : SMap (BitVec 128)) (es : List (Nat × BitVec 128)) : SMap (BitVec 128) :=
  es.foldl (fun t e => mset t e.1 e.2 0#128) t
/-- One change of a region's table: GEN rises by 1 and the mirror follows (R230). -/
def editTable (s : State) (c : Nat) (es : List (Nat × BitVec 128)) : State :=
  if es.isEmpty then s
  else
    writeMirror (s.modRegion c fun r => { r with table := putEntries r.table es, gen := r.gen + 1 }) c (es.map Prod.fst)
/-- Every HELD entry of a region becomes SPARE (R236). -/
def releaseHeld (s : State) (c : Nat) : State :=
  editTable s c (((s.regionAt c).table.filter fun e => decide (pteState e.2 = 4)).map fun e => (e.1, pteWith e.2 1 (pteSeq e.2) 0))
/-- A region's table replaced as a whole by a restore (R392). -/
def replaceTable (s : State) (c : Nat) (t : SMap (BitVec 128)) : State :=
  if (s.regionAt c).table = t then s
  else
    let old := (s.regionAt c).table
    writeMirror (s.modRegion c fun r => { r with table := t, gen := r.gen + 1 }) c (old.map Prod.fst ++ t.map Prod.fst)

end Sys2Proof.Machine
end

