-- ==== Sys2Proof/Machine/Barriers.lean ====
section
/-! DEFINITION. Barriers of partition, tray and pod scope (R120, R306, R307), snapshots (R132, R133, R390, R391), rotation
exchanges (R364), quiesce (R133, R158), and the counters and program counter of a core that goes on. -/

namespace Sys2Proof.Machine

-- The next record

/-- The next record, or HALTED behind the last one (R96). -/
def advance (s : State) (c : Nat) : State :=
  let n := recordsOf s c
  s.modCore c fun k =>
    if k.pc + 1 ≥ n then { k with seq := .halted, wait := none } else { k with seq := .running, wait := none, pc := k.pc + 1 }
/-- Increments a sync counter (R98): one at its limit stays there, and the core stops with COUNTER_OVERFLOW. -/
def bumpCnt (s : State) (c ctr : Nat) (r : Report) : State :=
  let v := mget (s.coreAt c).cnt ctr 0
  if v = BitVec.allOnes 24 then
    opFault s c { r with unit := coreUnit s c 104, status := Status.badDescriptor.code, code := 1 }
  else s.modCore c fun k => { k with cnt := mset k.cnt ctr (v + 1) 0 }
/-- DONE of a record that has completed with OK (R98). -/
def doneRec (s : State) (c index : Nat) (rcd : Rec) : State :=
  if bit rcd 12 then bumpCnt s c (bits rcd 11 8) (opReport s c 104 index rcd .ok 0 0) else s
/-- Every unit of a core has drained. -/
def Core.drained (k : Core) : Bool := k.inflight.isEmpty && k.queued.isEmpty
/-- The record at a core's program counter. -/
def recNow (s : State) (c : Nat) : Rec := recAt s c (s.coreAt c).pc

-- Barrier tokens (R290, R306, R307)

/-- A plan's job. -/
def jobOf (s : State) (p : Nat) : W32 :=
  match (s.part? p).bind Partition.plan with
  | some pl => pl.job
  | none => 0
/-- The slots of this tray that a plan's link table names, other than this device's: its member peers (R303, R307). -/
def trayMembers (s : State) (p : Nat) : List Nat :=
  match (s.part? p).bind Partition.plan with
  | none => []
  | some pl =>
    (natsFrom 0 8).filter fun slot => decide (slot ≠ s.slot) && pl.links.any fun l =>
      if l.peerTray = 0xFFFF then peerSlot s l.port slot else decide (l.peerTray = s.lnk.tray.toNat ∧ l.peerSlot = slot)
/-- A BARRIER control flit (R290). -/
def tokenPayload (scope barId kind : Nat) (job unit : W32) : BitVec 2048 :=
  BitVec.ofNat 2048 (2 + scope * 2 ^ 8 + barId * 2 ^ 16 + kind * 2 ^ 24 + job.toNat * 2 ^ 32 + unit.toNat * 2 ^ 64)
/-- Sends a token over a port, whose unit address it names (R290). -/
def sendToken (s : State) (port scope barId kind : Nat) (job : W32) : State :=
  sendControl s port 1 (tokenPayload scope barId kind job (portUnit s port))
/-- Sends a token to every member peer of the tray over the lowest-numbered UP port to each (R307). -/
def sendMembers (s : State) (p scope barId kind : Nat) : State :=
  (trayMembers s p).foldl (fun st slot => match portToSlot st slot with
    | some port => sendToken st port scope barId kind (jobOf st p)
    | none => st) s
/-- The port that this device holds on the tree edge of a dimension (R306). -/
def ownEdge (s : State) (r : Nat) : Option Nat :=
  match treeEdge s r with
  | some (slot, port) => if slot = s.slot then some port else none
  | none => none
/-- Dimensions toward this tray's children in the tree (R306). -/
def childDims (s : State) : List Nat :=
  let t := s.lnk.tray.toNat
  let h := if t = 0 then 0 else t.log2 + 1
  (natsFrom h (9 - h)).filter fun r => decide (t + 2 ^ r < s.lnk.nTrays)
/-- Sends RELEASE down every tree edge that this device holds. -/
def sendDown (s : State) (p barId : Nat) : State :=
  (childDims s).foldl (fun st r => match ownEdge st r with
    | some port => sendToken st port 2 barId 1 (jobOf st p)
    | none => st) s
/-- Sends ARRIVE to the parent tray, where this device holds that edge. -/
def sendUpEdge (s : State) (p barId : Nat) : State :=
  match ownEdge s s.lnk.tray.toNat.log2 with
  | some port => sendToken s port 2 barId 0 (jobOf s p)
  | none => s

-- The arrivals of a barrier

/-- A barrier of a partition, if anyone has arrived. -/
def barAt (s : State) (p barId : Nat) : Option Barrier := s.bars.find? fun b => decide (b.part = p ∧ b.barId = barId)
/-- Replaces a barrier, or lists it. -/
def setBar (s : State) (b : Barrier) : State :=
  if (barAt s b.part b.barId).isSome then
    { s with bars := s.bars.map fun x => if x.part = b.part ∧ x.barId = b.barId then b else x }
  else { s with bars := s.bars ++ [b] }
/-- Removes a barrier. -/
def dropBar (s : State) (p barId : Nat) : State := { s with bars := s.bars.filter fun b => decide (¬(b.part = p ∧ b.barId = barId)) }
/-- A barrier that nobody has reached. -/
def Barrier.fresh (p barId scope : Nat) : Barrier :=
  { part := p, barId := barId, scope := scope, snap := false, timeSync := false, arrived := [], members := [], children := [],
    sentArrive := false, sentUp := false, released := false }
/-- Every core of the partition has arrived. -/
def localDone (s : State) (b : Barrier) : Bool :=
  match s.part? b.part with
  | some v => !v.cores.isEmpty && v.cores.all fun c => b.arrived.contains c
  | none => false
/-- The arrivals of the whole tray are here. -/
def trayDone (s : State) (b : Barrier) : Bool := b.sentArrive && (trayMembers s b.part).all fun m => b.members.contains m
/-- Dimensions toward child trays whose tree edge a slot of this tray holds. -/
def childEdges (s : State) (slot : Nat) : List Nat :=
  (childDims s).filter fun r => decide ((treeEdge s r).map Prod.fst = some slot)
/-- Every child tray has arrived: over an edge of this device, or by the ARRIVE that the device with the edge hands on behind its own
(R307; log entry 28). -/
def childrenDone (s : State) (b : Barrier) : Bool :=
  (childDims s).all fun r =>
    match treeEdge s r with
    | some (slot, _) =>
      if slot = s.slot then b.children.contains (s.lnk.tray.toNat + 2 ^ r)
      else decide (1 + (childEdges s slot).length ≤ b.members.count slot)
    | none => false
/-- A snapshot is wanted at the partition's next SNAP barrier (R133). -/
def snapWanted (s : State) (p : Nat) : Bool :=
  match s.part? p with
  | some v => decide (v.state = .running) && (v.snapReq.isSome || v.quiesce.isSome)
  | none => false
/-- A snapshot of the partition in a state of R390. -/
def snapIn (s : State) (p st : Nat) : Option Snapshot := s.snaps.find? fun x => decide (x.part = p ∧ x.state = st)
/-- The device holds the tree's root, where a pod barrier ends. -/
def rootTray (s : State) : Bool := decide (s.lnk.tray = 0) || decide (s.lnk.nTrays = 1)
/-- A copy is due at a barrier (R133, R391): every core has arrived, a snapshot is wanted, none is under way, and the device has not
sent its ARRIVE. A request that comes behind the ARRIVE is for the next SNAP barrier (DEDUCED, log entry 85). -/
def copyDue (s : State) (b : Barrier) : Bool :=
  b.snap && localDone s b && !b.sentArrive && !b.released && snapWanted s b.part && (snapIn s b.part 1).isNone &&
    (snapIn s b.part 2).isNone
/-- Tokens that a barrier can send now: ARRIVE to the tray once every core has arrived and a wanted copy has ended (R307,
R391), ARRIVE up the tree once the tray and its children are complete, RELEASE from the root. -/
def stepBar (s : State) (b : Barrier) : State :=
  let s := if b.scope ≥ 1 ∧ localDone s b ∧ !b.sentArrive ∧ !copyDue s b ∧ !(b.snap && (snapIn s b.part 1).isSome) then
      setBar (sendMembers s b.part b.scope b.barId 0) { b with sentArrive := true }
    else s
  match barAt s b.part b.barId with
  | none => s
  | some b =>
    if b.scope = 2 ∧ trayDone s b ∧ childrenDone s b then
      if rootTray s then (if b.released then s else setBar (sendDown s b.part b.barId) { b with released := true })
      else if b.sentUp then s
      else setBar (sendUpEdge s b.part b.barId) { b with sentUp := true }
    else s
/-- The barrier has completed at this device. -/
def barDone (s : State) (b : Barrier) : Bool :=
  if b.scope = 0 then localDone s b else if b.scope = 1 then trayDone s b else b.sentArrive && b.released

-- Snapshots (R132, R133, R390)

/-- Slot offsets of the area that a snapshot of a partition takes, by core. -/
def areasOf (s : State) (p area : Nat) : List (Nat × Nat) :=
  match (s.part? p).bind Partition.plan with
  | some pl => pl.snaps.map fun a => (a.core, if area = 0 then a.area0 else a.area1)
  | none => []
/-- Bytes of the areas of a partition's cores. -/
def areaBytes (s : State) (p c : Nat) : Nat :=
  match (s.part? p).bind Partition.plan with
  | some pl => match pl.snaps.find? fun a => decide (a.core = c) with
    | some a => a.bytes
    | none => 0
  | none => 0
/-- Bytes of a snapshot's contents: SRAM, stream buffers, and the rest of the sequencer and counter state (R132, R133). -/
def snapContents : Nat := sramBytes + 49152 + 16384
/-- Blocks of 4 KiB of the contents, each with a word in the check table (R390). -/
def snapBlocks : Nat := 784
/-- First byte of the contents of an area: behind the header line. -/
def areaData (a : Nat × Nat) : Nat := dramDpa a.1 a.2 + 64
/-- The check table of an area's contents as they stand (R390). -/
def areaTable (m : Mem) (a : Nat × Nat) : List Byte :=
  (natsFrom 0 snapBlocks).flatMap fun b => leBytes (blockCrc (rdByte m) (areaData a / 64) (snapContents / 64) 64 b) 4
/-- The check table that an area holds. -/
def heldTable (m : Mem) (a : Nat × Nat) : List Byte := rdBytes m (areaData a + snapContents) (4 * snapBlocks)
/-- The header line of a snapshot's area (R390). -/
def snapHeader (x : Snapshot) (time : W64) (tableCrc : Nat) : Nat :=
  x.number % 2 ^ 32 + x.state * 2 ^ 32 + x.scope * 2 ^ 34 + x.epoch.toNat * 2 ^ 40 + time.toNat * 2 ^ 64 + tableCrc * 2 ^ 128
/-- Writes the header line of every area. -/
def writeHeaders (s : State) (x : Snapshot) : State :=
  x.offsets.foldl (fun st a =>
    writeOwn st a.1 a.2 (leBytes (snapHeader x (mget x.time (tierOf a.1) 0) (crc32c (heldTable st.mem a))) 64)) s
/-- Bytes whose values the spec leaves open are written. -/
def freeBytes (s : State) (a n : Nat) : State :=
  { s with mem := wrBytes s.mem a ((natsFrom 0 n).map fun i => Config.freeByte (s.free + i)), free := s.free + n }
/-- The copy writes one core's area (R132, R133, R390): its SRAM, its other contents, whose layout no rule gives, the check table, and
page table and mode behind it (DEDUCED, log entry 13). -/
def fillArea (s : State) (a : Nat × Nat) : State :=
  let d := areaData a
  let s := freeBytes { s with mem := copyMem s.mem (sramDpa a.1 0) d sramBytes } (d + sramBytes) (snapContents - sramBytes)
  let s := { s with mem := wrBytes s.mem (d + snapContents) (areaTable s.mem a) }
  freeBytes s (d + snapContents + 4 * snapBlocks) 32769
/-- A copy covers the area's pages with new words: their marks and stale bits go (R169). -/
def freshArea (s : State) (c off n : Nat) : State :=
  (pageParts (n / 2048 + 2) off n).foldl (fun st q => dramWritePage st c q.1 q.2) s
/-- What a snapshot keeps of a core (R95, R132): no accumulators; the cycle counter as its value. -/
def captureCore (s : State) (c : Nat) : Core :=
  { s.coreAt c with acc := [], inflight := [], queued := [], cycBase := s.rawCycles c, frozen := none, scrubLine := [], scrubStart := 0 }
/-- What a snapshot keeps of a region: page table, GEN left out, and mode. -/
def captureRegion (r : Region) : Region := { Region.empty with mode := r.mode, table := r.table }
/-- Replaces or lists a snapshot; the area's earlier one is gone. -/
def putSnap (s : State) (x : Snapshot) : State :=
  { s with snaps := (s.snaps.filter fun y => decide (¬(y.offsets = x.offsets ∨ (y.part = x.part ∧ y.state ≠ 3)))) ++ [x] }
/-- The area that the next snapshot takes: not the one of the last taken (R132). -/
def nextArea (s : State) (p : Nat) : Nat :=
  match (s.part? p).bind Partition.lastSnap with
  | some n => match s.snaps.find? fun x => decide (x.part = p ∧ x.number = n ∧ x.state = 3) with
    | some x => 1 - x.area
    | none => 0
  | none => 0
/-- First uncorrectable word of the partition's SRAM, met by the copy. -/
def copyReads (s : State) : List Nat → State × Option (Nat × Nat)
  | [] => (s, none)
  | c :: cs =>
    let r := sramRead s c 0 sramBytes
    match r.2 with
    | some o => (r.1, some (c, o))
    | none => copyReads r.1 cs
/-- TIME of the headers of a snapshot: each core takes its own tier's copy of global time (R326). -/
def snapTime (s : State) (v : Partition) : SMap W64 := v.cores.foldl (fun m c => mset m (tierOf c) (s.tierTime (tierOf c)) 0) []
/-- A copy of a core's SRAM, for a snapshot or an exchange, meets an uncorrectable word: a fault of its core (R84, R388). -/
def sramLost (s : State) (c o : Nat) : State :=
  opFault (noteBank s c (sramBank o)) c
    { unit := coreUnit s c (16 + sramBank o), status := Status.uncorrectable.code, cls := .partitionFatal,
      detail := sramDetail s c o }
/-- Starts the copy of a snapshot (R132): its contents are those of the partition at this instant. -/
def beginCopy (s : State) (p scope : Nat) : State :=
  match s.part? p with
  | none => s
  | some v =>
    let rd := copyReads s v.cores
    let s := rd.1
    match rd.2 with
    | some (c, o) => sramLost s c o
    | none =>
      let area := nextArea s p
      let x : Snapshot :=
        { part := p, number := v.nextSnap, area := area, state := 1, scope := scope, epoch := v.epoch, time := snapTime s v,
          quiet := v.quiesce.isSome,
          cores := v.cores.foldl (fun m c => mset m c (captureCore s c) Core.empty) [],
          streams := s.stream.filter fun e => v.cores.contains (e.1 / 96),
          routes := s.routes.filter fun r => decide (r.owner = p) && v.cores.contains r.core,
          regions := v.cores.foldl (fun m c => mset m c (captureRegion (s.regionAt c)) Region.empty) [],
          offsets := areasOf s p area }
      let s := x.offsets.foldl (fun st a => fillArea (freshArea st a.1 a.2 (areaBytes st p a.1)) a) s
      putSnap (writeHeaders s x) x
/-- A snapshot counts as taken (R132, R391): the headers say so, with the time of the barrier's completion, which at a partition barrier
was the copy's start (R390); HELD pages become SPARE, a snapshot taken after the resume ends the recovery episode (R394), and the
descriptor that asked completes. -/
def takeSnap (s : State) (x : Snapshot) : State :=
  match s.part? x.part with
  | none => { s with snaps := s.snaps.map fun z => if z = x then { x with state := 3 } else z }
  | some v =>
    let y := { x with state := 3, time := if x.scope = 0 then x.time else snapTime s v }
    let s := writeHeaders { s with snaps := s.snaps.map fun z => if z = x then y else z } y
    let after := decide (v.state = .running ∧ x.epoch = v.epoch)
    let s := v.cores.foldl releaseHeld s
    let s := if v.snapReq.isSome then finishEvery s (isPartSnapshot x.part) .ok 0 else s
    s.modPart x.part fun v => { v with
      snapReq := none, lastSnap := some x.number, nextSnap := x.number + 1, faults := if after then 0 else v.faults }

-- Going on behind a barrier

/-- The corrected counter at a TIME_SYNC barrier (R328). -/
def syncCount (s : State) (c : Nat) : BitVec 48 :=
  let t := tierOf c
  BitVec.ofNat 48 (roundHalf ((s.tierTime t).toNat * 68) (10 * stepDiv (s.clkAt t).cur))
/-- Sets a core's offset (R120, R328). -/
def syncCore (s : State) (c : Nat) : State :=
  let raw := s.rawCycles c
  let g := syncCount s c
  s.modCore c fun k => { k with offset := g - raw }
/-- A completed barrier with TIME_SYNC sets the offset of every core, in the same instant (R120, R328). -/
def syncAll (s : State) (b : Barrier) : State :=
  match s.part? b.part with
  | some v => if b.timeSync then v.cores.foldl syncCore s else s
  | none => s
/-- One core behind a completed barrier: BAR without NOWAIT lets it go on; a NOWAIT barrier counts its DONE. -/
def passBar (b : Barrier) (hold : Bool) (s : State) (c : Nat) : State :=
  let k := s.coreAt c
  match k.nowait.find? fun e => decide (e.1.val = b.barId) with
  | some e =>
    let s := s.modCore c fun k => { k with nowait := k.nowait.erase e }
    doneRec s c e.2 (recAt s c e.2)
  | none =>
    match k.wait with
    | some (.bar id _) =>
      if id.val = b.barId then
        let s := doneRec (advance s c) c k.pc (recAt s c k.pc)
        if hold && decide ((s.coreAt c).seq = .running) then s.modCore c fun k => { k with seq := .stopped } else s
      else s
    | _ => s
/-- Ends a barrier: every core of the partition goes on, or stops there for a quiesce whose snapshot was taken (R133). -/
def passAll (s : State) (b : Barrier) (hold : Bool) : State :=
  match s.part? b.part with
  | none => dropBar s b.part b.barId
  | some v => v.cores.foldl (passBar b hold) (dropBar s b.part b.barId)

-- Rotations (R364)

/-- A core's forecast, as the device acts on it (R357). -/
def forecastOf (s : State) (c : Nat) : Int := (s.layerAt (2 * tierOf c + 2)).acted (zoneOf c)
/-- The member that a test prefers. -/
def pick (better : Nat → Nat → Bool) : List Nat → Option Nat
  | [] => none
  | c :: cs => some (cs.foldl (fun a x => if better x a then x else a) c)
/-- Zone and tier of two cores differ. -/
def otherZone (a b : Nat) : Bool := decide (zoneOf a ≠ zoneOf b ∨ tierOf a ≠ tierOf b)
/-- The two cores of an exchange: the hottest member, and the coolest in another zone. -/
def rotationPair (s : State) (members : List Nat) : Option (Nat × Nat) :=
  match pick (fun a b => decide (forecastOf s a > forecastOf s b)) members with
  | none => none
  | some h =>
    (pick (fun a b => decide (forecastOf s a < forecastOf s b)) (members.filter (otherZone h))).map fun k => (h, k)
/-- At a rotation point, a completed partition barrier of their BAR_ID, every set with an exchange wanted begins it: its two cores hold
issue (R363, R364). -/
def startRotation (s : State) (b : Barrier) : State :=
  match s.part? b.part with
  | none => s
  | some v =>
    match v.plan with
    | none => s
    | some pl =>
      let due := pl.rots.filter fun r =>
        decide (b.scope = 0 ∧ r.barId = b.barId) && v.rotWanted.contains r.set && v.rotating.all fun x => decide (x.set ≠ r.set)
      let new := due.filterMap fun r => (rotationPair s r.members).map fun q => (⟨r.set, q.1, q.2⟩ : Rotation)
      s.modPart b.part fun v => { v with rotating := v.rotating ++ new }
/-- What a core takes over from the other in an exchange: sequencer state without accumulators; scrubbing stays. -/
def Core.moved (mine other : Core) (base : BitVec 48) : Core :=
  { other with acc := mine.acc, cycBase := base, frozen := mine.frozen, scrubLine := mine.scrubLine, scrubStart := mine.scrubStart,
               inflight := [], queued := [] }
/-- The input half of a stream takes over a receive buffer and its position. -/
def Stream.movedIn (mine other : Stream) : Stream :=
  { mine with buf := other.buf, recvPos := other.recvPos, recvCrc := other.recvCrc, recvSince := other.recvSince, passed := other.passed }
/-- The output half of a stream takes over a send position. -/
def Stream.movedOut (mine other : Stream) : Stream :=
  { mine with sendPos := other.sendPos, sendCrc := other.sendCrc, sendSince := other.sendSince }
/-- Stream i of two cores, as far as the partition holds it at both, is exchanged; what other partitions' routes hold stays. -/
def exchangeStream (p a b : Nat) (s : State) (i : Nat) : State :=
  let ka := a * 96 + i
  let kb := b * 96 + i
  let x := s.streamAt ka
  let y := s.streamAt kb
  let ins := decide (inOwner s ka = some p ∧ inOwner s kb = some p)
  let outs := decide (outOwner s ka = some p ∧ outOwner s kb = some p)
  let move := fun (m o : Stream) => (if outs then Stream.movedOut else fun m _ => m) ((if ins then Stream.movedIn else fun m _ => m) m o) o
  (s.setStream ka (move x y)).setStream kb (move y x)
/-- The other core of an exchange. -/
def swapped (a b c : Nat) : Nat := if c = a then b else if c = b then a else c
/-- What an exchange moves beside the cores' state: the partition's own routes of the two routers (R95), and the arrivals at its
barriers. -/
def exchangePlaces (s : State) (p a b : Nat) : State :=
  { s with
    routes := s.routes.map fun r => if r.owner = p then { r with core := swapped a b r.core } else r
    bars := s.bars.map fun x => if x.part = p then { x with arrived := x.arrived.map (swapped a b) } else x }
/-- Exchanges SRAM, sequencer state and receive buffers of two cores of a partition; every word of both SRAMs is written (R84), and the
credits of the senders follow the buffers (R137). -/
def exchangeCores (s : State) (p a b : Nat) : State :=
  let ka := s.coreAt a
  let kb := s.coreAt b
  let ra := s.rawCycles a
  let rb := s.rawCycles b
  let ta := s.quadCycles a
  let tb := s.quadCycles b
  let ma := sliceMem s.mem (sramDpa a 0) sramBytes
  let mb := sliceMem s.mem (sramDpa b 0) sramBytes
  let mem := clearMem (clearMem s.mem (sramDpa a 0) sramBytes) (sramDpa b 0) sramBytes
  let mem := mb.foldl (fun m x => wrByte m (x.1 + sramDpa a 0 - sramDpa b 0) x.2) mem
  let mem := ma.foldl (fun m x => wrByte m (x.1 + sramDpa b 0 - sramDpa a 0) x.2) mem
  let s := { s with mem := mem, err := { s.err with sram := clearMarks (clearMarks s.err.sram (sramDpa a 0)) (sramDpa b 0) } }
  let s := (s.setCore a (ka.moved kb (ta - rb))).setCore b (kb.moved ka (tb - ra))
  let s := exchangePlaces ((natsFrom 0 96).foldl (exchangeStream p a b) s) p a b
  ((natsFrom (96 * a) 96) ++ natsFrom (96 * b) 96).foldl matchCredit s

/-- A region of some of these cores waits for its admission to COMPUTE (R340, R392). -/
def awaitsModes (s : State) (cores : List Nat) : Bool :=
  s.pwr.tiers.any fun e => e.2.queue.any fun a => decide (a.kind = .nbu) && cores.contains a.target

-- The commands

/-- A line that a partition sent has not reached its consumer's receive buffer: it stands in a port controller, or on a link within
the mesh; what a peer has sent is not among them (R158). -/
def linesOnWires (s : State) (p : Nat) : Bool :=
  s.stream.any fun e => !e.2.wire.isEmpty && (match ctlSource e.1, facing e.1 with
    | some o, _ => decide (outOwner s o = some p)
    | none, some f => decide (inOwner s e.1 = some p) || decide (outOwner s f = some p)
    | none, none => false)
/-- Some route of a partition holds a line (R158). -/
def routesHold (s : State) (p : Nat) : Bool :=
  s.routes.any fun r => decide (r.owner = p) && !(s.streamAt (streamKey r.core r.inPort r.inStream)).buf.isEmpty
/-- A flit carries lines of a stream (R289). -/
def carriesLine (f : Flit) (st : Nat) : Bool := decide (bits f.header 3 2 = 1 ∧ bits f.header 7 4 = st)
/-- A port over which a partition sends has a flit of lines that its peer has not acknowledged (R158, R291). -/
def flitsOut (s : State) (p : Nat) : Bool :=
  s.lnk.ports.any fun e => (natsFrom 0 16).any fun st =>
    decide (outOwner s (streamKey (portCore e.1) 5 st) = some p) && e.2.replay.any fun f => carriesLine f st
/-- Every route of a partition is empty, and every line that it sent has reached its consumer's receive buffer (R158). -/
def linesSettled (s : State) (p : Nat) : Bool := !(routesHold s p || linesOnWires s p || flitsOut s p)
/-- The copy of a snapshot may begin: no step of a tier of the partition is pending (R330), and for a quiesce its lines have settled, so
that the buffers hold them all (R132, R158). -/
def copyMay (s : State) (v : Partition) (p : Nat) : Bool :=
  (v.cores.all fun c => (s.clkAt (tierOf c)).target.isNone) && (v.quiesce.isNone || linesSettled s p)
/-- A barrier at which a snapshot is copied: at partition scope it has completed, and its offsets are set (R120, R328). -/
def copyAt (s : State) (b : Barrier) : State :=
  beginCopy (if b.scope = 0 then setBar (syncAll s b) { b with released := true } else s) b.part b.scope
/-- The cores go on behind a completed barrier. -/
def goOn (s : State) (b : Barrier) (hold : Bool) : State := startRotation (passAll s b hold) b
/-- BARRIER_COMPLETE (R120, R307): the cores go on; a wanted snapshot is copied first (R133, R391). -/
def execBarrierComplete (p : PartId) (barId : Fin 16) (s : State) : Res :=
  match barAt s p.val barId.val, s.part? p.val with
  | some b, some v =>
    if copyDue s b then .next (if copyMay s v p.val then copyAt s b else s)
    else if !barDone s b || (b.released && decide (b.scope < 2)) || (b.snap && (snapIn s p.val 1).isSome) then .next s
    else
      match snapIn s p.val 2, v.state with
      | some x, .running =>
        .next (goOn (syncAll (if b.snap then takeSnap s x else s) b) b (b.snap && x.quiet && v.quiesce.isSome))
      | some x, _ => .next (dropBar (if b.snap then takeSnap s x else s) p.val barId.val)
      | none, .running => .next (goOn (syncAll s b) b false)
      | none, .recovering =>
        if !v.restored || awaitsModes s v.cores then .next s
        else .next ((passAll (syncAll s b) b false).modPart p.val fun v => { v with
          state := .running, runSince := s.time.now, restored := false })
      | none, _ => .next (dropBar s p.val barId.val)
  | some b, none => if barDone s b then .next (dropBar s p.val barId.val) else .next s
  | none, _ => .next s
/-- SNAPSHOT_TAKEN (R132, R391): the copy of every core has ended. At a partition barrier the snapshot counts as taken and the cores go
on; otherwise the device now sends its ARRIVE. -/
def execSnapshotTaken (p : PartId) (s : State) : Res :=
  match snapIn s p.val 1, s.part? p.val with
  | some x, some v =>
    if v.state ≠ .running then .next s
    else
      match s.bars.find? fun b => decide (b.part = p.val) && b.snap with
      | some b =>
        if b.scope = 0 then .next (goOn (takeSnap s x) b (x.quiet && v.quiesce.isSome))
        else
          let y := { x with state := 2 }
          .next (stepBar (writeHeaders { s with snaps := s.snaps.map fun z => if z = x then y else z } y) b)
      | none => .next s
  | _, _ => .next s
/-- A core arrives at a barrier (R120). DESIGN CHOICE (log entry 66): where the BAR records of one barrier differ in SCOPE, SNAP or TIME_SYNC,
the last to arrive decides. At tray and pod scope a wanted snapshot is copied before the ARRIVE (R391). -/
def arrive (s : State) (c : Nat) (rcd : Rec) : State :=
  match s.ownerOf c with
  | none => s
  | some p =>
    let id := bits rcd 67 64
    let b := (barAt s p id).getD (Barrier.fresh p id (bits rcd 72 71))
    let b := { b with scope := bits rcd 72 71, snap := bit rcd 70, timeSync := bit rcd 69, arrived := addOnce b.arrived c }
    let s := setBar s b
    let s := if b.scope ≥ 1 ∧ copyDue s b ∧ ((s.part? p).map fun v => copyMay s v p) = some true then copyAt s b else s
    match barAt s p id with
    | some b => stepBar s b
    | none => s
/-- A core waiting in a SNAP BAR arrives once its units have drained (R120); an IDLE slot then begins (R122). -/
def afterDrain (s : State) (c : Nat) : State :=
  let k := s.coreAt c
  if !k.drained then s
  else
    match k.wait with
    | some (.bar id true) =>
      match s.ownerOf c with
      | some p =>
        if ((barAt s p id.val).map fun b => b.arrived.contains c) = some true then s else arrive s c (recNow s c)
      | none => s
    | some (.idle n none) => s.modCore c fun k => { k with wait := some (.idle n (some (s.rawCycles c))) }
    | _ => s
/-- Partitions of a job. -/
def jobParts (s : State) (job : W32) : List Nat :=
  (s.part.filter fun e => decide ((e.2.plan.map Plan.job) = some job)).map Prod.fst
/-- A token changes a barrier of a partition, which then sends what it can. -/
def tokenAt (s : State) (p scope barId : Nat) (f : Barrier → Barrier) : State :=
  let b := f ((barAt s p barId).getD (Barrier.fresh p barId scope))
  stepBar (setBar s b) b
/-- The token came over the tree edge of another tray. -/
def fromOtherTray (s : State) (port : Nat) : Bool :=
  match (s.portAt port).peer with
  | some i => decide (bits i.unit 31 23 ≠ s.lnk.tray.toNat)
  | none => false
/-- ARRIVE (R307): of a device of the tray, or of a child tray, which this device hands on to its tray. -/
def takeArrive (s : State) (port : Nat) (tok : BarToken) : State :=
  (jobParts s tok.job).foldl (fun st p =>
    if fromOtherTray st port then
      tokenAt (sendMembers st p tok.scope.val tok.barId.val 0) p tok.scope.val tok.barId.val fun b =>
        { b with children := insertNat (bits tok.unit 31 23) b.children }
    else tokenAt st p tok.scope.val tok.barId.val fun b => { b with members := b.members ++ [bits tok.unit 22 20] }) s
/-- RELEASE (R307): down the tree, and to the tray from the device that holds the edge. -/
def takeRelease (s : State) (port : Nat) (tok : BarToken) : State :=
  (jobParts s tok.job).foldl (fun st p =>
    match barAt st p tok.barId.val with
    | none => st
    | some b =>
      if b.released || decide (b.scope ≠ 2) then st
      else
        let st := if fromOtherTray st port then sendMembers st p 2 tok.barId.val 1 else st
        sendDown (setBar st { b with released := true }) p tok.barId.val) s
/-- BARRIER_ARRIVE (R307). -/
def execBarrierArrive (p : PortId) (tok : BarToken) (s : State) : Res :=
  if portUp s (p.val + 1) then .next (takeArrive s (p.val + 1) tok) else .next s
/-- BARRIER_RELEASE (R307). -/
def execBarrierRelease (p : PortId) (tok : BarToken) (s : State) : Res :=
  if portUp s (p.val + 1) then .next (takeRelease s (p.val + 1) tok) else .next s
/-- Two cores can be exchanged: both have drained, no line is on its way to them within the mesh, and no slice of Weevil runs on
them. -/
def canExchange (s : State) (a b : Nat) : Bool :=
  (s.coreAt a).drained && (s.coreAt b).drained &&
    (s.stream.all fun e => e.2.wire.isEmpty || decide (e.1 / 96 ≠ a ∧ e.1 / 96 ≠ b) || (facing e.1).isNone) &&
    !(s.weevil.running && decide (s.weevil.core = a ∨ s.weevil.core = b))
/-- ROTATION_COMPLETE (R364): both cores have drained and take each other's place; an uncorrectable word that the exchange reads is a fault
of its core (R84). -/
def execRotationComplete (p : PartId) (set : Fin 16) (s : State) : Res :=
  match s.part? p.val with
  | none => .next s
  | some v =>
    match v.rotating.find? fun x => decide (x.set = set.val) with
    | none => .next s
    | some x =>
      if v.state ≠ .running || !canExchange s x.hot x.cool then .next s
      else
        let rd := copyReads s [x.hot, x.cool]
        match rd.2 with
        | some (c, o) => .next (sramLost rd.1 c o)
        | none =>
          .next ((exchangeCores rd.1 p.val x.hot x.cool).modPart p.val fun v => { v with
            rotations := v.rotations + 1, rotating := v.rotating.filter fun y => decide (y.set ≠ set.val),
            rotWanted := v.rotWanted.filter fun y => decide (y ≠ set.val) })
/-- A quiesce stops the partition's cores at any record boundary: no SNAP barrier, or a core HALTED (R133). -/
def boundaryQuiesce (s : State) (v : Partition) : Bool :=
  !(match v.plan with
    | some pl => pl.hasSnap
    | none => false) || v.cores.any fun c => decide ((s.coreAt c).seq = .halted)
/-- A core has stopped for a quiesce. -/
def quiesced (s : State) (boundary : Bool) (c : Nat) : Bool :=
  let k := s.coreAt c
  k.drained && match k.seq with
    | .halted => true
    | .stopped => true
    | .running => boundary
    | _ => false
/-- QUIESCE_COMPLETE (R133, R158): every core has stopped and every route is empty. -/
def execQuiesceComplete (p : PartId) (s : State) : Res :=
  match s.part? p.val with
  | none => .next s
  | some v =>
    if v.state ≠ .running || v.quiesce.isNone || !(v.cores.all (quiesced s (boundaryQuiesce s v))) ||
        !linesSettled s p.val then .next s
    else
      let s := v.cores.foldl (fun st c => st.modCore c fun k => if k.seq = .running then { k with seq := .stopped } else k) s
      .next (settleRouters (dropSnapReq ((endQuiesce s p.val .ok).modPart p.val fun v => { v with state := .quiesced }) p.val))
/-- SNAP_RELEASE_TIMEOUT (R396): the RELEASE of a SNAP barrier has not come; the partition enters FAILED. -/
def execSnapReleaseTimeout (p : PartId) (s : State) : Res :=
  match s.part? p.val, s.bars.find? fun b => decide (b.part = p.val) && b.undecided s.snaps with
  | some v, some b =>
    if v.state ≠ .recovering then .next s
    else
      let s := { dropBar s p.val b.barId with snaps := s.snaps.filter fun x => decide (¬(x.part = p.val ∧ x.state = 2)) }
      let s := failPartition s p.val
      .next (report s { unit := hearthUnit s 256, status := Status.timeout.code, cls := .partitionFatal, part := some p.val, code := 0x11 })
  | _, _ => .next s

end Sys2Proof.Machine
end

