-- ==== Sys2Proof/Machine/Pcie.lean ====
section
/-! DEFINITION. The PCIe function as its host configures it (R252 to R255): identity, configuration, and the MSI-X table and
pending bits of BAR4. -/

namespace Sys2Proof.Machine

-- Identity and configuration (R252, R253)

/-- What the function answers in configuration space about itself (R252, R253). -/
structure PciId where
  vendor : Nat
  device : Nat
  revision : Nat
  /-- base class, subclass and programming interface -/
  classCode : Nat
  subVendor : Nat
  subsystem : Nat
  /-- Interrupt Pin: no INTx -/
  intPin : Nat
  /-- vectors of the MSI-X table -/
  vectors : Nat
  deriving DecidableEq, Repr

/-- The identity of the function (R253): the subsystem ID tells the grade. -/
def pciId (s : State) : PciId :=
  { vendor := 0x1F5E, device := 0x4B17, revision := 1, classCode := 0x120000, subVendor := 0x1F5E,
    subsystem := match s.fuse.grade with
      | .a4 => 0x00A4
      | .a3 => 0x00A3,
    intPin := 0, vectors := 2048 }
/-- A configuration register as the host reads it. -/
def readCfg (s : State) : CfgReg → Nat
  | .atomicEnable => b2n s.hst.atomicEn
  | .maxPayload => s.hst.maxPayload
  | .maxRead => s.hst.maxRead
  | .bar2Size => s.hst.bar2Log2
  | .powerState => b2n s.hst.d3hot
  | .msixControl => b2n s.hst.msixEn + 2 * b2n s.hst.msixMask
  | .aerUncStatus => s.hst.aer.uncStatus.toNat
  | .aerUncMask => s.hst.aer.uncMask.toNat
  | .aerUncSeverity => s.hst.aer.uncSeverity.toNat
  | .aerCorStatus => s.hst.aer.corStatus.toNat
  | .aerCorMask => s.hst.aer.corMask.toNat

/-- Configuration space as a conventional reset of the link leaves it (log entry 75). -/
def Hst.unconfigured (h : Hst) : Hst :=
  { h with
    linkUp := false, linkRate := 0, linkWidth := 0, busMaster := false, atomicEn := false, maxPayload := 0, maxRead := 2,
    bar2Log2 := 39, d3hot := false, msixEn := false, msixMask := false, msix := [], pendingIrq := [] }

-- Advanced Error Reporting (R252; log entry 75)

/-- Changes the registers of Advanced Error Reporting. -/
def modAer (s : State) (f : Aer → Aer) : State := { s with hst := { s.hst with aer := f s.hst.aer } }
/-- The function has met a request that it does not support: bit 20, and for a read, as an advisory non-fatal error, bit 13. -/
def noteUnsupported (read : Bool) (s : State) : State :=
  modAer s fun a => { a with uncStatus := a.uncStatus ||| 0x100000, corStatus := if read then a.corStatus ||| 0x2000 else a.corStatus }
/-- A read of the function's own has met Completion Timeout: bit 14. -/
def noteTimeout (s : State) : State := modAer s fun a => { a with uncStatus := a.uncStatus ||| 0x4000 }

-- Everything that was held while the device could issue no request (R256)

/-- Vectors that are pending and no longer masked send their messages. -/
def sendPending (s : State) : State :=
  if !s.canMaster then s
  else
    let go := s.hst.pendingIrq.filter fun v => !s.hst.masks v
    { s with hst := { s.hst with
        pendingIrq := s.hst.pendingIrq.filter s.hst.masks, irqs := go.foldl (fun m v => mmod m v 0 (· + 1)) s.hst.irqs } }
/-- Everything that was held while the device could issue no request, in order (R256). -/
def releaseHeldWrites (s : State) : State :=
  if !s.canMaster then s
  else
    let mem := s.hst.held.foldl (fun m w => wrBytes m w.1 w.2) s.hostMem
    let irqs := s.hst.heldIrq
    let s := { s with hostMem := mem, hst := { s.hst with held := [], heldIrq := [] } }
    sendPending (flushLog 4097 (irqs.foldl raiseVector s))

-- Writes of the host

/-- A write of a configuration register: a code that the function does not support changes nothing. -/
def writeCfg (s : State) (r : CfgReg) (v : Nat) : State :=
  match r with
  | .atomicEnable => { s with hst := { s.hst with atomicEn := decide (v % 2 = 1) } }
  | .maxPayload => if v ≤ 2 then { s with hst := { s.hst with maxPayload := v } } else s
  | .maxRead => if v ≤ 5 then { s with hst := { s.hst with maxRead := v } } else s
  | .bar2Size => if 30 ≤ v ∧ v ≤ 39 then { s with hst := { s.hst with bar2Log2 := v } } else s
  | .powerState => releaseHeldWrites { s with hst := { s.hst with d3hot := decide (v % 2 = 1) } }
  | .msixControl =>
    sendPending { s with hst := { s.hst with msixEn := decide (v % 2 = 1), msixMask := decide (v / 2 % 2 = 1) } }
  | .aerUncStatus => modAer s fun a => { a with uncStatus := a.uncStatus &&& ~~~(BitVec.ofNat 32 v) }
  | .aerUncMask => modAer s fun a => { a with uncMask := BitVec.ofNat 32 v }
  | .aerUncSeverity => modAer s fun a => { a with uncSeverity := BitVec.ofNat 32 v }
  | .aerCorStatus => modAer s fun a => { a with corStatus := a.corStatus &&& ~~~(BitVec.ofNat 32 v) }
  | .aerCorMask => modAer s fun a => { a with corMask := BitVec.ofNat 32 v }
/-- A doubleword of BAR4 as the host reads it (R254): the MSI-X table, the pending bits, and zero elsewhere. -/
def readBar4 (s : State) (off : Nat) : W32 :=
  if off < 0x8000 then BitVec.ofNat 32 ((mget s.hst.msix (off / 16) msixFresh).toNat / 2 ^ (32 * (off / 4 % 4)))
  else if off < 0x8100 then
    BitVec.ofNat 32 ((natsFrom 0 32).foldl (fun a k => a + b2n (s.hst.pendingIrq.contains ((off - 0x8000) / 4 * 32 + k)) * 2 ^ k) 0)
  else 0
/-- A table entry with one of its doublewords replaced; of Vector Control only the mask bit is kept. -/
def setDword (e : BitVec 128) (k : Nat) (v : Nat) : BitVec 128 :=
  let v := if k = 3 then v % 2 else v
  (e &&& ~~~(BitVec.ofNat 128 (0xFFFFFFFF * 2 ^ (32 * k)))) ||| BitVec.ofNat 128 (v * 2 ^ (32 * k))
/-- A write of one doubleword of BAR4 (R254): only the table takes it. -/
def writeBar4 (s : State) (off v : Nat) : State :=
  if off < 0x8000 then
    sendPending { s with hst := { s.hst with
      msix := mset s.hst.msix (off / 16) (setDword (mget s.hst.msix (off / 16) msixFresh) (off / 4 % 4) v) msixFresh } }
  else s

end Sys2Proof.Machine
end

