-- ==== Sys2Proof/Machine/Sequencer.lean ====
section
/-! DEFINITION. The core sequencer (R95 to R98, R123, R127): issue in list order, the units' queues, start and end of an op,
retry (R130, R372), and the ops that the sequencer carries out itself (R119 to R124). -/

namespace Sys2Proof.Machine

-- Address advance (R99, R123)

/-- Address fields 0 to 3 of an op: high and low bit, and the bytes or lines by which the field counts, as a quotient. An AUX_LA
of QSCAN that names no address, 0xFFFF, is no address field (R102, R109; DESIGN CHOICE, log entry 94). -/
def addrFields (r : Rec) : List (Nat × Nat × Nat × Nat) :=
  match opOf r with
  | 0x01 | 0x02 | 0x03 | 0x04 => [(143, 128, 1, 1), (159, 144, 1, 1), (175, 160, 1, 1), (191, 176, 1, 1)]
  | 0x05 => [(143, 128, 1, 1), (159, 144, 1, 1)]
  | 0x06 | 0x07 | 0x08 =>
    [(143, 128, 1, 1), (159, 144, if opOf r = 0x06 ∧ bits r 159 144 = 0xFFFF then 0 else 1, 1), (175, 160, 1, 1), (191, 176, 1, 1)]
  | 0x09 => [(143, 128, 1, 1), (159, 144, 1, 1), (175, 160, 1, 1)]
  | 0x0A => [(111, 96, 1, 1), (127, 112, 1, 1)]
  | 0x0B | 0x0C => [(143, 128, 1, 1)]
  | 0x0E | 0x0F => [(143, 128, 1, 1), (122, 96, 64, 1), (170, 144, 4, 64)]
  | 0x10 => [(111, 96, 1, 1), (125, 112, 1, 1)]
  | 0x13 => [(143, 128, 1, 1), (159, 144, 1, 1)]
  | 0x17 => [(103, 88, 1, 1), (119, 104, 1, 1), (135, 120, 1, 1), (151, 136, 1, 1)]
  | _ => []
/-- Stride k of a LOOP. -/
def strideOf (l : Rec) (k : Nat) : Int := sbits l (111 + 16 * k) (96 + 16 * k)
/-- Lines by which the enclosing loops advance address field k. -/
def loopAdvance (s : State) (c k : Nat) : Int :=
  (s.coreAt c).loops.foldl (fun a e => a + e.iter * strideOf (recAt s c e.index) k) 0
/-- A field with an advance applied. -/
def bumpField (r : Rec) (f : Nat × Nat × Nat × Nat) (d : Int) : Rec :=
  setField r f.1 f.2.1 ((bits r f.1 f.2.1 : Int) + d * (f.2.2.1 : Int) / (f.2.2.2 : Int)).toNat
/-- A record as it issues: with IND its address fields are advanced (R123). -/
def resolveRec (s : State) (c : Nat) (r : Rec) : Rec :=
  if bit r 14 then
    ((natsFrom 0 4).zip (addrFields r)).foldl (fun a e => bumpField a e.2 (loopAdvance s c e.1)) r
  else r

-- Issue (R97)

/-- A quiesce at a record boundary (R133), or an exchange of the core (R364), holds issue. -/
def heldBack (s : State) (v : Partition) (c : Nat) : Bool :=
  (v.quiesce.isSome && boundaryQuiesce s v) || v.rotating.any fun x => decide (x.hot = c ∨ x.cool = c)
/-- The core's partition is RUNNING, with its plan, and nothing holds issue: no pending step of its tier (R323), no stopped
clock, no quiesce and no exchange. -/
def canIssue (s : State) (c : Nat) : Bool :=
  let k := s.coreAt c
  let ck := s.clkAt (tierOf c)
  match s.ownerOf c with
  | none => false
  | some p => match s.part? p with
    | none => false
    | some v =>
      decide (v.state = .running) && v.plan.isSome && decide (k.seq = .running) && ck.target.isNone && !ck.stopped &&
        k.frozen.isNone && !heldBack s v c
/-- The PRE test (R97). -/
def preMet (k : Core) (r : Rec) : Bool := !bit r 36 || decide (bits r 63 40 ≤ (mget k.cnt (bits r 35 32) 0).toNat)
/-- PRE_VALUE is subtracted at issue. -/
def takePre (k : Core) (r : Rec) : Core :=
  if bit r 36 then { k with cnt := mset k.cnt (bits r 35 32) (mget k.cnt (bits r 35 32) 0 - BitVec.ofNat 24 (bits r 63 40)) 0 } else k
/-- The record at the program counter may issue now. -/
def mayIssue (s : State) (c : Nat) (op : Nat) : Bool :=
  canIssue s c && decide (opOf (recNow s c) = op) && preMet (s.coreAt c) (recNow s c)

/-- The fetch of the record at the program counter through the side read port (R81, R84, R96): a corrected word is counted,
and an uncorrectable one ends the op as it issues. -/
def fetched (s : State) (c : Nat) (go : State → State) : State :=
  let k := s.coreAt c
  let rd := sramRead s c (32 * k.pc) 32
  match rd.2 with
  | some o =>
    opFault (noteBank rd.1 c (sramBank o)) c
      (opReport rd.1 c (16 + sramBank o) k.pc (recNow rd.1 c) .uncorrectable 0 (sramDetail rd.1 c o))
  | none => go rd.1

-- Units (R71, R97, R127)

/-- The unit that carries out a record. -/
def unitOf (r : Rec) : OpUnit :=
  match opOf r with
  | 0x01 | 0x02 | 0x03 => .arrays (Fin.ofNat 16 (bits r 67 64))
  | 0x04 | 0x05 | 0x09 | 0x0A | 0x17 => .vfu
  | 0x06 | 0x07 | 0x08 => .qu
  | 0x0B => .snd (Fin.ofNat 6 (bits r 66 64))
  | 0x0C => .rcv (Fin.ofNat 6 (bits r 66 64))
  | 0x0D => .router
  | 0x0E | 0x0F | 0x10 => .chimney
  | 0x13 => .chk
  | _ => .sequencer
/-- What an op holds while it runs: 0–3 arrays, 4 the broadcast, 5 VFU, 6 QU, 7–12 send and 13–18 receive engines of the
ports, 19 router, 20 chimney, 21 block-check unit. -/
def holdsOf (r : Rec) : List Nat :=
  match opOf r with
  | 0x01 | 0x02 => 4 :: selected (bits r 67 64)
  | 0x03 => selected (bits r 67 64)
  | 0x04 | 0x09 | 0x0A => [5]
  | 0x05 => 5 :: (redPorts (bits r 79 74)).map (7 + ·) ++ (redPorts (bits r 73 68)).map (13 + ·)
  | 0x06 | 0x07 | 0x08 => [6]
  | 0x0B => [7 + bits r 66 64]
  | 0x0C => [13 + bits r 66 64]
  | 0x0D => [19]
  | 0x0E | 0x0F | 0x10 => [20]
  | 0x13 => [21]
  | 0x17 => [5, 6, 20]
  | _ => []
/-- Two ops need one unit. -/
def clash (a b : Rec) : Bool := (holdsOf a).any fun x => (holdsOf b).contains x
/-- Cycles of an MMA or MMAP until its last product has reached the accumulators (R127). -/
def feedCycles (r : Rec) : Nat := 6 + mmCycles r (MmRec.ofRec r) (mmaTiles r)
/-- The accumulation of a running MMA or MMAP has ended, and it only reads out (R71, R127): by the cycles that it has run. -/
def readsOut (s : State) (c : Nat) (x : OpRun) : Bool :=
  isMm x.rcd && bit x.rcd 85 && decide (x.status = .ok) && decide (feedCycles x.rcd ≤ (s.quadCycles c - x.began).toNat)
/-- Running ops, in the order of their start, leave what another needs: each holds none of it, or only reads out, is the last on its
arrays, and may be overlapped (R71, R97). -/
def leaveFree (s : State) (c : Nat) (r : Rec) : List OpRun → Bool
  | [] => true
  | x :: xs =>
    (!clash x.rcd r || (readsOut s c x && mayOverlap x.rcd r && xs.all fun y => (sharedArrays x.rcd y.rcd).isEmpty)) && leaveFree s c r xs
/-- Nothing that runs, and nothing that waits ahead, holds what the op needs. -/
def freeFor (s : State) (c : Nat) (ahead : List OpQueued) (r : Rec) : Bool :=
  leaveFree s c r (s.coreAt c).inflight && ahead.all fun x => !clash x.rcd r
/-- The queue of 4 of each of the op's units has room (R97); the broadcast is no unit. -/
def queueRoom (k : Core) (r : Rec) : Bool :=
  ((holdsOf r).filter (decide <| · ≠ 4)).all fun u => decide ((k.queued.filter fun x => (holdsOf x.rcd).contains u).length < 4)
/-- An op that has started waits n cycles for a readout on the arrays that it shares: ARRAY_STALL (R73, R76, R93). -/
def stallShared (s : State) (c : Nat) (a b : Rec) (n : Nat) : State :=
  if isMm a && isMm b then s.modCore c fun k => (sharedArrays a b).foldl (fun k i => bumpCtr k (4 + i) n) k else s

-- Start of an op

/-- Lines that a RCV, a RED or an NBC RESULT writes reach the op list or lie past the SRAM (R96, R102). -/
def streamHits (s : State) (c : Nat) (r : Rec) : Bool :=
  let bad := fun (la : Nat) => decide (la < opListLines s c) || decide (la ≥ sramLines)
  match opOf r with
  | 0x0C => (natsFrom 0 (bits r 87 72)).any fun i => bad (lineAddr r i)
  | 0x05 => bit r 84 && (natsFrom (bits r 159 144) (redLines r)).any bad
  | 0x10 => decide (nbcAction r = 1) && (natsFrom (bits r 111 96) (nbcCount r)).any bad
  | _ => false
/-- A streaming op with its lines still to move. -/
def OpOut.streaming : OpOut := { OpOut.nothing with busy := true }
/-- VFU cycles of a RED (R93). -/
def redOut (s : State) (c : Nat) (r : Rec) : OpOut :=
  if streamHits s c r then OpOut.fail .addrFault 0 101 0
  else { OpOut.streaming with busy := decide (redLines r > 0), ctrs := [(12, cdiv (bits r 111 92) 32)] }
/-- NBC MODE asks for a region mode when it starts (R118, R199): the outcome, or an admission that is still to come. -/
inductive ModeOut where
  | now (s : State) (st : Status)
  | admission (s : State)
/-- Region mode request (R199). -/
def decideMode (s : State) (c mode : Nat) : ModeOut :=
  let r := s.regionAt c
  if mode = r.mode.code then .now s .ok
  else
    match mode, r.mode with
    | 1, .normal =>
      .admission (s.modPwr (tierOf c) fun v => { v with queue := v.queue ++
        [{ kind := .nbu, target := c, phase := 0, waited := false, again := false, bubbles := 0 }] })
    | 1, _ => .now (s.modRegion c fun r => { r with mode := .compute }) .ok
    | 2, .compute => .now (s.modRegion c fun r => { r with mode := .drain }) .ok
    | 2, _ => .now s .stateConflict
    | _, _ =>
      if r.working then .now s .stateConflict
      else
        .now (s.modRegion c fun r => { r with
          mode := .normal, groups := [],
          nbus := mall r.nbus Nbu.empty fun u => { u with
            results := [], slots := [], arms := [], partials := [],
            discarded := BitVec.ofNat 16 (satAdd 16 u.discarded.toNat u.results.length) } }) .ok
/-- A mode request reaches the region controller, which decides requests in the order in which they arrive (R200): behind one that
waits for its admission, it waits too. -/
def requestMode (s : State) (c : Nat) (q : ModeReq) : ModeOut :=
  if !(s.regionAt c).modeReqs.isEmpty then .admission (s.modRegion c fun r => { r with modeReqs := r.modeReqs ++ [q] })
  else
    match decideMode s c q.mode with
    | .now s st => .now s st
    | .admission s => .admission (s.modRegion c fun r => { r with modeReqs := [q] })
/-- XFWD (R116): the outcome at its end. -/
def xfwdOutcome (s : State) (c : Nat) (r : Rec) : State × Status :=
  let ip := bits r 66 64
  let is := bits r 70 67
  let op := bits r 73 71
  let os := bits r 77 74
  let owner := s.ownerOf c
  let k := streamKey c ip is
  let ko := streamKey c op os
  let reservedBy := fun (e : Nat × Partition) => match e.2.plan with
    | some pl => decide (some e.1 ≠ owner) && (pl.reservedIn.contains k || pl.reservedOut.contains ko)
    | none => false
  match routeOn s c ip is with
  | some x =>
    if some x.owner ≠ owner then (s, .transitBusy)
    else if bit r 78 then (dropOrphans { s with routes := s.routes.erase x } c ip is, .ok)
    else (s, .stateConflict)
  | none =>
    if bit r 78 then (s, .ok)
    else if s.part.any reservedBy then (s, .transitBusy)
    else
      ({ s with routes := s.routes ++ [{ core := c, inPort := ip, inStream := is, outPort := op, outStream := os,
                                         owner := owner.getD 0, declared := false, left := bits r 103 80 }] }, .ok)
/-- What a record does when its unit starts it. -/
def computeRec (s : State) (c : Nat) (r : Rec) : State × OpOut :=
  let sub := subOf (unitOf r)
  let failed := (s.chimAt c).failed
  match opOf r with
  | 0x01 => computeOp s c sub (mmaReads r) (mmaCompute c r)
  | 0x02 => computeOp s c sub (mmapReads r) (mmapCompute c r)
  | 0x03 => computeOp s c sub (ewaReads r) (ewaCompute c r)
  | 0x04 => computeOp s c sub (vfnReads r) (vfnCompute c r)
  | 0x05 => (s, redOut s c r)
  | 0x06 => computeOp s c sub (qscanReads r) (qscanCompute c r)
  | 0x07 => computeOp s c sub (qconvReads r) (qconvCompute c r)
  | 0x08 => computeOp s c sub (dqReads r) (dqCompute c r)
  | 0x09 => computeOp s c sub (smxReads r) (smxCompute c r)
  | 0x0A => computeOp s c sub (smxmReads r) (smxmCompute c r)
  | 0x0B => (s, OpOut.streaming)
  | 0x0C => (s, if streamHits s c r then OpOut.fail .addrFault 0 sub 0 else OpOut.streaming)
  | 0x0E => if failed then (s, OpOut.fail .quarantined 0 96 0) else computeDram s c sub (chrdReads r) [] (chrdCompute c r)
  | 0x0F => if failed then (s, OpOut.fail .quarantined 0 96 0) else computeOp s c sub (chwrReads r) (chwrCompute c r)
  | 0x10 =>
    if failed then (s, OpOut.fail .quarantined 0 96 0)
    else if nbcAction r = 2 then
      match requestMode s c ⟨none, bits r 67 66, false⟩ with
      | .now s st => (s, { OpOut.nothing with status := st, sub := 96 })
      | .admission s => (s, OpOut.streaming)
    else (s, if streamHits s c r then OpOut.fail .addrFault 0 96 0 else OpOut.streaming)
  | 0x13 => computeOp s c sub (chkReads r) (chkCompute c r)
  | 0x17 => computeDram s c sub (optuDreads r) (optuReads r) (optuCompute c r)
  | _ => (s, OpOut.nothing)
/-- A running op from its computation. -/
def runOf (s : State) (c index : Nat) (r : Rec) (o : OpOut) (retried : Option (Nat × BitVec 192)) : OpRun :=
  { unit := unitOf r, index := index, rcd := r, status := o.status, flags := o.flags, writes := o.writes, dwrites := o.dwrites,
    accs := o.accs, ctrs := o.ctrs, gated := o.gated, began := s.quadCycles c, pos := 0, busy := o.busy,
    retried := retried, sub := if o.sub = 0 then subOf (unitOf r) else o.sub, detail := o.detail }
/-- Starts an op on its unit. -/
def startRec (s : State) (c index : Nat) (r : Rec) (retried : Option (Nat × BitVec 192)) : State :=
  let x := computeRec s c r
  let run := runOf x.1 c index r x.2 retried
  x.1.modCore c fun k => { k with inflight := k.inflight ++ [run] }
/-- The first op that waits and can start, with those ahead of it. -/
def nextStart (s : State) (c : Nat) : List OpQueued → List OpQueued → Option OpQueued
  | _, [] => none
  | ahead, x :: xs => if freeFor s c ahead x.rcd then some x else nextStart s c (ahead ++ [x]) xs
/-- A pass of GEMV, or a first tile, too short to hide the readout that it overlaps waits for the rest of it (R73, R76). -/
def overlapStall (s : State) (c : Nat) (r : Rec) : State :=
  let n := mmCycles r (MmRec.ofRec r) (if bits r 7 0 = 1 ∧ bit r 68 then mmaTiles r else 1)
  (s.coreAt c).inflight.foldl (fun st x => stallShared st c x.rcd r (16 * mmReadBanks x.rcd - n)) s
/-- Starts every waiting op that can start, in issue order. -/
def startQueued : Nat → State → Nat → State
  | 0, s, _ => s
  | n + 1, s, c =>
    match nextStart s c [] (s.coreAt c).queued with
    | some x =>
      let s := (overlapStall s c x.rcd).modCore c fun k => { k with queued := k.queued.erase x }
      startQueued n (startRec s c x.index x.rcd none) c
    | none => s
/-- What waits and may overlap a readout started when the accumulation before it had ended (R71, R76, R97): shown before the next event of
the core's ops (DESIGN CHOICE, log entry 86). -/
def startAtReadout (s : State) (c : Nat) : State :=
  let old := (s.coreAt c).inflight
  let now := s.quadCycles c
  let ago := fun (x : OpRun) => ((old.filter fun y => clash y.rcd x.rcd).map fun y => (now - y.began).toNat - feedCycles y.rcd).min?.getD 0
  (startQueued 128 s c).modCore c fun k => { k with
    inflight := k.inflight.take old.length ++
      (k.inflight.drop old.length).map fun x => { x with began := now - BitVec.ofNat 48 (ago x) } }
/-- Moves whatever can move in a core after a change of its ops. -/
def settle (s : State) (c : Nat) : State := pumpChimney (pumpAll (startQueued 128 s c) c) c
/-- Issues the record at the program counter to its unit (R97). -/
def issueOp (s : State) (c : Nat) : State :=
  let s := startAtReadout s c
  let k := s.coreAt c
  let r := recNow s c
  let q : OpQueued := { unit := unitOf r, index := k.pc, rcd := resolveRec s c r }
  let s := s.modCore c fun k => { takePre k r with queued := k.queued ++ [q] }
  settle (advance s c) c
/-- A tile op of an opcode issues, when it may and its unit has room. -/
def issueTile (s : State) (c op : Nat) (also : Rec → Bool) : State :=
  if mayIssue s c op && also (recNow s c) && queueRoom (s.coreAt c) (recNow s c) then fetched s c fun st => issueOp st c else s

-- End of an op

/-- The run holds array a. -/
def OpRun.onArray (r : OpRun) (a : Nat) : Bool :=
  match r.unit with
  | .arrays m => m.val.testBit a
  | _ => false
/-- Cycles for which an array has run ops of a list: they follow each other, and may overlap (R76, R93). -/
def busyFor (now : BitVec 48) (l : List OpRun) (a : Nat) : Nat :=
  (((l.filter fun r => r.onArray a).map fun r => (now - r.began).toNat).max?).getD 0
/-- Cycles of a run on its arrays, those that a run left behind counts left out, and its other counters (R93). -/
def countRun (s : State) (c : Nat) (r : OpRun) : State :=
  let now := s.quadCycles c
  s.modCore c fun k =>
    let rest := (k.dropRun r.unit).inflight
    let k := (natsFrom 0 4).foldl (fun k a =>
      if r.onArray a then bumpCtr k a (busyFor now [r] a - busyFor now rest a) else k) k
    let k := r.ctrs.foldl (fun k e => bumpCtr k e.1 e.2) k
    r.gated.foldl (fun k g =>
      let t := (mget k.gatedRem g.1 0).val + g.2
      { bumpCtr k (8 + g.1) (t / 64) with gatedRem := mset k.gatedRem g.1 (Fin.ofNat 64 t) 0 }) k
/-- Writes an op's results in SRAM; an uncorrectable word that they cover in part stops them (R84). -/
def commitSram (s : State) (c : Nat) : List (Nat × List Byte) → State × Option Nat
  | [] => (s, none)
  | (off, bs) :: t =>
    let w := sramWrite s c off bs
    match w.2 with
    | some o => (w.1, some o)
    | none => commitSram w.1 c t
/-- Ends a run with a status (R129). -/
def failRun (s : State) (c : Nat) (r : OpRun) (st : Status) : State :=
  let s := countRun s c r
  let s := if st = .uncorrectable ∧ 16 ≤ r.sub ∧ r.sub < 48 then noteBank s c (r.sub - 16) else s
  afterDrain (settle (endOp s c r st) c) c
/-- The next MMA or MMAP on the same arrays, where it may not overlap the readout of an op that ends and waits for nothing else, has waited
for that readout: 16 cycles per bank (R73, R76, R94). -/
def readoutStall (s : State) (c : Nat) (r : OpRun) : State :=
  match (s.coreAt c).queued.find? fun q => isMm q.rcd && !(sharedArrays r.rcd q.rcd).isEmpty with
  | some q =>
    let s' := s.modCore c fun k => k.dropRun r.unit
    if !mayOverlap r.rcd q.rcd && freeFor s' c ((s.coreAt c).queued.takeWhile fun x => decide (x ≠ q)) q.rcd then
      stallShared s c r.rcd q.rcd (16 * mmReadBanks r.rcd)
    else s
  | none => s
/-- Refused cycles that traffic on the tier service path has cost a CHRD or CHWR (R178): no row shows them, so their number is free
(log entry 81). -/
def chimneyDelay (s : State) (c : Nat) (r : OpRun) : State :=
  let row := if opOf r.rcd = 0x0E then some 15 else if opOf r.rcd = 0x0F then some 16 else none
  match row with
  | some i => s.draw.modCore c fun k => bumpCtr k i (Config.freeWord s.free).toNat
  | none => s
/-- Ends a run with OK: its results are written, FLAGS and counters follow, DONE is counted, and waiting ops start (R97, R98). -/
def finishRun (s : State) (c : Nat) (r : OpRun) : State :=
  let w := commitSram s c r.writes
  match w.2 with
  | some o => failRun w.1 c { r with sub := 16 + sramBank o, detail := sramDetail w.1 c o } .uncorrectable
  | none =>
    let d := commitDram w.1 c r.dwrites
    match d.2 with
    | some (st, o) =>
      failRun d.1 c { r with
        sub := 64 + bankOf o,
        detail := dramDetail d.1 c o false } st
    | none =>
      let s := readoutStall (countRun (chimneyDelay d.1 c r) c r) c r
      let s := s.modCore c fun k => { k.dropRun r.unit with
        flags := k.flags ||| r.flags, acc := r.accs.foldl (fun m e => mset m e.1 e.2 Acc.empty) k.acc }
      let s := match r.retried with
        | some (sub, det) =>
          let rep := { opReport s c sub r.index r.rcd .residueFault 0x0A det with cls := .contained, part := s.ownerOf c }
          (report s rep).modCore c fun k => { k with faultTime := some (unitTime s rep.unit) }
        | none => s
      afterDrain (settle (doneRec s c r.index r.rcd) c) c
/-- Starts an op again in its place among those that run (R130). -/
def restartRun (s : State) (c : Nat) (r : OpRun) (fault : Nat × BitVec 192) : State :=
  let x := computeRec s c r.rcd
  let run := runOf x.1 c r.index r.rcd x.2 (some fault)
  x.1.modCore c fun k => { k with inflight := k.inflight.map fun y => if y = r then run else y }
/-- A residue mismatch (R64, R130, R372): the window of 1 s runs from the fault, then from the record of a retry that has succeeded. -/
def residueRun (s : State) (c : Nat) (r : OpRun) (sub problem expected observed : Nat) : State :=
  let det := detOp r.flags problem 0 ||| detSyn (expected + 256 * observed)
  let second := residueFaultTwice s c
  let rep := opReport s c sub r.index r.rcd .residueFault 0 det
  let s := s.modCore c fun k => { k with faultTime := some (unitTime s rep.unit) }
  if second then quarantineCore ((countRun s c r).modCore c fun k => k.dropRun r.unit) c false rep
  else if bit r.rcd 13 && r.retried.isNone then
    settle (restartRun (countRun s c r) c r (sub, det)) c
  else afterDrain (settle (opFault (countRun (s.modCore c fun k => k.dropRun r.unit) c r) c rep) c) c
/-- A record whose unit checks residues (R63, R79, R90): a readout of MMA or MMAP; EWA MUL, ADD and SCALE; of the VFU the significand
products of MUL, FMA, SMX, SMXM and OPTU. -/
def residueOp (r : Rec) : Bool :=
  match opOf r with
  | 0x01 | 0x02 => bit r 85
  | 0x03 => decide (bits r 70 68 ≤ 2)
  | 0x04 => decide (bits r 71 64 = 2 ∨ bits r 71 64 = 3)
  | 0x09 | 0x0A | 0x17 => true
  | _ => false
/-- A residue mismatch can show in the op: on an array that it uses, or in the VFU (R63, R64). -/
def residueIn (r : OpRun) (array : Nat) : Bool :=
  residueOp r.rcd && match r.unit with
  | .arrays m => decide (1 ≤ array) && m.val.testBit (array - 1)
  | .vfu => decide (array = 0)
  | _ => false
/-- What DETAIL byte 1 of a mismatch on an array names when the hardware names no problem: the array, or the first problem of an
MMAP (R376; log entry 64). -/
def residueName (r : OpRun) (array : Nat) : Nat :=
  if opOf r.rcd = 2 then ((usedSlots r.rcd (splitOf (bits r.rcd 70 69)).2.2).map Prod.snd).headD 0 else array
/-- CRC-8 failures of a chimney group are counted; 16 within 1 ms pause the group (R180). -/
def countCrc (s : State) (c g n : Nat) : State :=
  let k := s.chimAt c
  let recent := ((mget k.fails g []).filter fun t => s.within t 1000000) ++ List.replicate n s.time.now
  let k := { k with fails := mset k.fails g recent [] }
  s.setChim c (if recent.length ≥ 16 then { k with paused := insertNat g k.paused } else k)
/-- The group carries the op's data. -/
def groupInUse (s : State) (c g : Nat) : Bool :=
  !(s.chimAt c).disabled.contains g && !(s.chimAt c).paused.contains g
/-- Counts the failures of an op's transfers, each in a group that carried its data (R180). -/
def countCrcs (s : State) (c : Nat) (fails : List CrcFail) : State :=
  fails.foldl (fun st f => if groupInUse st c f.group.val then countCrc st c f.group.val f.times.val else st) s
/-- A transfer of which the first try and 3 repeats have failed (R180). -/
def crcLost (s : State) (c : Nat) (fails : List CrcFail) : Option Nat :=
  (fails.find? fun f => decide (f.times = 4) && groupInUse s c f.group.val).map fun f => f.group.val
/-- An op that moves data over the chimney. -/
def overChimney (r : OpRun) : Bool := (holdsOf r.rcd).contains 20
/-- A check word stands beside the last line that an op took, and has not arrived (R115). -/
def awaitsCheck (s : State) (c : Nat) (r : OpRun) : Bool :=
  let heads := fun (p st : Nat) =>
    let v := s.streamAt (streamKey c p st)
    v.buf.isEmpty && (match v.wire with
      | .check _ :: _ => true
      | _ => false)
  match opOf r.rcd with
  | 0x0C => heads (bits r.rcd 66 64) (bits r.rcd 70 67)
  | 0x05 => (redPorts (bits r.rcd 73 68)).any fun p => heads p (bits r.rcd 83 80)
  | _ => false
/-- Ends a run whose computation has a status of its own; a CHRD with a failed check has written its lines (R117). -/
def endRun (s : State) (c : Nat) (r : OpRun) : State :=
  match r.status with
  | .ok =>
    if opOf r.rcd = 0x0D then
      let x := xfwdOutcome s c r.rcd
      if x.2 = .ok then finishRun x.1 c r else failRun x.1 c r x.2
    else finishRun s c r
  | .residueFault => residueRun s c r r.sub (bits r.detail 7 0) (bits r.detail 15 8) (bits r.detail 23 16)
  | st =>
    if opOf r.rcd = 0x0E ∧ st = .checkMismatch then
      let w := commitSram s c r.writes
      match w.2 with
      | some o => failRun w.1 c { r with sub := 16 + sramBank o, detail := sramDetail w.1 c o } .uncorrectable
      | none => failRun w.1 c r st
    else failRun s c r st
/-- An op that started before and still reads out on something that the op holds: its results come first (R97). -/
def waitsForEarlier (s : State) (c : Nat) (r : OpRun) : Bool :=
  ((s.coreAt c).inflight.takeWhile fun x => decide (x ≠ r)).any fun x => clash x.rcd r.rcd
/-- The op of a unit ends, with what the hardware met (R97, R98, R129, R130, R180). -/
def opEnds (c : CoreId) (u : OpUnit) (hw : OpHw) (s : State) : Res :=
  match (s.coreAt c.val).inflight.find? fun r => decide (r.unit = u) with
  | none => .next s
  | some r =>
    if r.busy || awaitsCheck s c.val r || waitsForEarlier s c.val r then .next s
    else
      match hw with
      | .clean => .next (endRun s c.val r)
      | .residue a e o =>
        if residueIn r a.val && decide (r.status = .ok) then .next (residueRun s c.val r (if a.val = 0 then 101 else a.val) (residueName r a.val) e.val o.val)
        else .next (endRun s c.val r)
      | .residueProblem a q e o =>
        if residueIn r a.val && decide (opOf r.rcd = 2 ∧ r.status = .ok) then .next (residueRun s c.val r a.val q.val e.val o.val)
        else .next (endRun s c.val r)
      | .chimneyCrc fails =>
        if !overChimney r then .next (endRun s c.val r)
        else
          let t := countCrcs s c.val fails
          match crcLost s c.val fails, r.status with
          | some g, .ok => .next (failRun t c.val { r with sub := 96, detail := detLoc g 0 } .checkMismatch)
          | _, _ => .next (endRun t c.val r)

/-- OP_COMPLETE (R97): what overlapped the readout has started; the op of a unit ends. -/
def execOpComplete (c : CoreId) (u : OpUnit) (hw : OpHw) (s : State) : Res := opEnds c u hw (startAtReadout s c.val)

-- Ops of the sequencer (R119 to R124)

/-- A datapath counter at this moment, with the cycles of the runs under way (R93, R119). -/
def ctrNow (s : State) (c i : Nat) : BitVec 48 :=
  let k := s.coreAt c
  mget k.ctr i 0 + BitVec.ofNat 48 (if i < 4 then busyFor (s.quadCycles c) k.inflight i else 0)
/-- What a WAIT counts from: the counter, or the cycle count, at issue (R119). -/
def waitBase (s : State) (c src index : Nat) : BitVec 48 := if src = 1 then ctrNow s c index else s.rawCycles c
/-- The condition of a WAIT holds (R119). -/
def waitMet (s : State) (c src index : Nat) (value base : BitVec 48) : Bool :=
  match src with
  | 0 => decide (value.toNat ≤ (mget (s.coreAt c).cnt index 0).toNat)
  | 1 => decide (value ≤ ctrNow s c index - base)
  | 2 => decide (value.toNat ≤ (s.streamAt (streamKey c (index / 16) (index % 16))).buf.length)
  | 3 => decide (value ≤ s.corrCycles c)
  | _ => decide (value ≤ s.rawCycles c - base)
/-- A WAIT completes: SYNC subtracts its value, DONE is counted, and issue goes on. -/
def endWait (s : State) (c src index : Nat) (value : BitVec 48) : State :=
  let k := s.coreAt c
  let r := recNow s c
  let s := if src = 0 then s.modCore c fun k => { k with cnt := mset k.cnt index (mget k.cnt index 0 - value.setWidth 24) 0 } else s
  doneRec (advance s c) c k.pc r
/-- The sequencer holds issue. -/
def holdIssue (s : State) (c : Nat) (w : Waiting) : State := s.modCore c fun k => { k with seq := .waiting, wait := some w }
/-- WAIT (R119). -/
def startWait (s : State) (c : Nat) : State :=
  let r := recNow s c
  let s := s.modCore c fun k => takePre k r
  let src := bits r 67 64
  let index := bits r 75 68
  let value := BitVec.ofNat 48 (bits r 127 80)
  let base := waitBase s c src index
  if waitMet s c src index value base then endWait s c src index value else holdIssue s c (.wait src index value base)
/-- BAR (R120): with NOWAIT the core goes on; a SNAP barrier waits for the drain first. -/
def startBar (s : State) (c : Nat) : State :=
  let k := s.coreAt c
  let r := recNow s c
  let s := s.modCore c fun k => takePre k r
  let id := Fin.ofNat 16 (bits r 67 64)
  if bit r 68 && !bit r 70 then
    arrive (advance (s.modCore c fun k' => { k' with nowait := k'.nowait ++ [(id, k.pc)] }) c) c r
  else if bit r 70 then afterDrain (holdIssue s c (.bar id true)) c
  else arrive (holdIssue s c (.bar id false)) c r
/-- IDLE (R122). -/
def startIdle (s : State) (c : Nat) : State :=
  let r := recNow s c
  afterDrain (holdIssue (s.modCore c fun k => takePre k r) c (.idle (bits r 87 64) none)) c
/-- Accumulators whose contents are undefined (R122): free values. -/
def freeAccs (n : Nat) : SMap Acc :=
  (natsFrom 0 4096).map fun i =>
    let w := fun j => (Config.freeWord (n + 4 * i + j)).toNat
    (i, ⟨BitVec.ofNat 88 (w 0 + w 1 * 2 ^ 64), (w 2 % 2 ^ 16 : Nat) - 2 ^ 15, (w 2).testBit 16, (w 2).testBit 17, (w 2).testBit 18,
      Fin.ofNat 7 (w 2 / 2 ^ 19), BitVec.ofNat 32 (w 3)⟩)
/-- The slot of an IDLE has lasted its cycles (R122): the accumulators are undefined behind it. -/
def endIdle (s : State) (c : Nat) : State :=
  let k := s.coreAt c
  let r := recNow s c
  let s := { s.modCore c fun k => { k with acc := freeAccs s.free } with free := s.free + 16384 }
  doneRec (advance s c) c k.pc r
/-- LOOP (R123). -/
def runLoop (s : State) (c : Nat) : State :=
  let k := takePre (s.coreAt c) (recNow s c)
  let r := recNow s c
  let count := bits r 79 64
  let stack := match k.loops with
    | e :: es => if e.index = k.pc then e :: es else ⟨k.pc, 0⟩ :: e :: es
    | [] => [⟨k.pc, 0⟩]
  match stack with
  | e :: es =>
    let i := e.iter + 1
    if count = 0 ∨ i < count then s.setCore c { k with loops := ⟨e.index, i⟩ :: es, pc := bits r 90 80 }
    else advance (s.setCore c { k with loops := es }) c
  | [] => s

-- SIG (R124, R131)

/-- The COMPUTE channel of the core's partition that a handle names (R131, R260). -/
def sigChannel (s : State) (c : Nat) (handle : W32) : Option Nat :=
  let ch := bits handle 17 0
  let v := s.chanAt ch
  let bound := decide (v.kind = 0) && decide (s.ownerOf c = some v.part)
  if v.live && decide (v.state ≠ .closing) && decide (v.gen = bits handle 31 18) && bound then some ch else none
/-- The request to the batch former that a signal carries, from the batch core of a plan with a mailbox (R248); BATCH_ID means
something in a DONE only. DEDUCED (log entry 72): with a reserved KIND or a reserved bit set it is no request. -/
def batchRequest (s : State) (c : Nat) (g : SigSlot) : Option Nat :=
  match (planOf s c).bind Plan.batch with
  | some b =>
    let v := g.value
    let kind := bits v 1 0
    let zeros := decide (bits v 7 2 = 0 ∧ bits v 31 16 = 0 ∧ kind ≠ 3)
    if b.core = c && decide (g.handle = 1) && zeros then some kind else none
  | none => none
/-- A signal's slot is free again, and its DONE counts. -/
def endSig (s : State) (c : Nat) (g : SigSlot) : State :=
  let s := s.modCore c fun k => { k with sig := none }
  if g.doneEn then bumpCnt s c g.doneCtr (opReport s c 104 g.index (recAt s c g.index) .ok 0 0) else s
/-- A dropped signal (R131). -/
def dropSig (s : State) (c : Nat) (g : SigSlot) : State :=
  endSig (report s { opReport s c 104 g.index (recAt s c g.index) .badHandle 0 0 with cls := .contained, part := s.ownerOf c }) c g
/-- DETAIL of a signal's completion record (R124). -/
def sigDetail (c : Nat) (g : SigSlot) : BitVec 128 :=
  BitVec.ofNat 128 (g.value.toNat + g.flags.toNat * 2 ^ 32 + c * 2 ^ 40 + g.index * 2 ^ 56)
/-- Writes a core's pending signal when its channel is OPEN; a signal that no channel takes is dropped. -/
def deliverSig (s : State) (c : Nat) : State :=
  match (s.coreAt c).sig with
  | none => s
  | some g =>
    match sigChannel s c g.handle with
    | some ch =>
      let v := s.chanAt ch
      if v.state ≠ .open then s
      else
        let rec_ : CRec := { seq := v.signals, status := 0, inGroup := false, opcode := 0xFF, time := s.time.now, tag := 0,
                             detail := sigDetail c g }
        let s := (putRecord s ch rec_).modChan ch fun v => { v with signals := v.signals + 1 }
        endSig (if g.irq then raiseChannel s ch else s) c g
    | none => if (batchRequest s c g).isSome then s else dropSig s c g
/-- Delivers the signals that wait for a channel. -/
def deliverSigs (s : State) : State :=
  (s.core.filter fun e => e.2.sig.isSome).foldl (fun st e => deliverSig st e.1) s
/-- SIG (R124): it takes the signal slot. -/
def startSig (s : State) (c : Nat) : State :=
  let k := s.coreAt c
  let r := recNow s c
  let g : SigSlot := { handle := BitVec.ofNat 32 (bits r 95 64), value := BitVec.ofNat 32 (bits r 127 96), irq := bit r 129,
                       flags := k.flags, index := k.pc, doneEn := bit r 12, doneCtr := bits r 11 8 }
  let s := s.modCore c fun k => { takePre k r with sig := some g, flags := if bit r 128 then 0 else k.flags }
  deliverSig (advance s c) c

-- Timeouts (R97, R99, R134)

/-- The op at the program counter, or the one on which the sequencer waits, ends with TIMEOUT (R97, R127); the latter also while the
partition is RECOVERING and its reset has not come (R129, R134, R395). The slot of an IDLE does not, nor does a record that is held
back (R133, log entry 59). -/
def timeoutNext (s : State) (c : Nat) : State :=
  let k := s.coreAt c
  let slot := match k.wait with
    | some (.idle _ (some _)) => true
    | _ => false
  let runsOut := match (s.ownerOf c).bind s.part? with
    | some v =>
      match k.seq, v.state with
      | .waiting, .running => true
      | .waiting, .recovering => !v.restored
      | .running, .running => !heldBack s v c
      | _, _ => false
    | none => false
  if slot || !runsOut then s else opFault s c (opReport s c 104 k.pc (recNow s c) .timeout 0 0)
/-- An op that has issued and waits for its unit ends with TIMEOUT, which bounds that wait too (R97). -/
def failQueued (s : State) (c : Nat) (q : OpQueued) : State :=
  let s := s.modCore c fun k => { k with queued := k.queued.erase q }
  afterDrain (settle (opFault s c (opReport s c (subOf q.unit) q.index q.rcd .timeout 0 0)) c) c
/-- OP_TIMEOUT (R97, R99, R134): of the next record; of the op that a unit runs, the signal slot, or a barrier joined with NOWAIT; or of an
op that waits in a unit's queue, also behind one that runs. -/
def execOpTimeout (c : CoreId) (u : TimedOp) (s : State) : Res :=
  match u with
  | .next => .next (timeoutNext s c.val)
  | .running .sequencer =>
    match (s.coreAt c.val).sig with
    | some g =>
      .next (opFault (s.modCore c.val fun k => { k with sig := none }) c.val
        (opReport s c.val 104 g.index (recAt s c.val g.index) .timeout 0 0))
    | none => .next s
  | .running (.barrier id) =>
    match (s.coreAt c.val).nowait.find? fun e => decide (e.1 = id) with
    | some e =>
      .next (opFault (s.modCore c.val fun k => { k with nowait := k.nowait.erase e }) c.val
        (opReport s c.val 104 e.2 (recAt s c.val e.2) .timeout 0 0))
    | none => .next s
  | .running u =>
    match (s.coreAt c.val).inflight.find? fun r => decide (r.unit = u) with
    | some r => .next (failRun s c.val r .timeout)
    | none => .next s
  | .queued u n =>
    match ((s.coreAt c.val).queued.filter fun q => decide (q.unit = u))[n.val]? with
    | some q => .next (failQueued s c.val q)
    | none => .next s

end Sys2Proof.Machine
end

