-- ==== Sys2Proof/WellFormed.lean ====
section
/-! DEFINITION. Which commands are well formed: a payload has the length its kind of event has. Everything else an operand
type already says. A command that is not well formed ends in Fault.malformedCommand. -/

namespace Sys2Proof

/-- Bytes of a PCIe write: 1 to the 512 of the largest payload (R252). -/
def bar2WriteOk (data : List Byte) : Bool := decide (1 ≤ data.length ∧ data.length ≤ 512)
/-- Bytes of a PCIe read: 1 to 4,096, the largest request of PCIe. -/
def bar2ReadOk (len : Nat) : Bool := decide (1 ≤ len ∧ len ≤ 4096)
/-- Bytes of a BAR0 write: 1 to 512 (R252). -/
def regWriteOk (data : List Byte) : Bool := decide (1 ≤ data.length ∧ data.length ≤ 512)
/-- One sensor temperature for each zone of each of 17 layers (R356), index 16·layer + zone. -/
def sensorOk (dc : List Int) : Bool := decide (dc.length = 656)
/-- One current for each tier, and for each core the activity of it and its home region, weighted by the fused coefficients (R343). -/
def damperOk (amps activity : List Nat) : Bool := decide (amps.length = 8 ∧ activity.length = 2048)
/-- The guard band of each core of a tier at each step (R365), at the present set-point and at each raise of 5 to 40 mV above
it that the refit tries (R366), in 0.1 %: index 1280·(raise ÷ 5) + 256·step + core of the tier; and
one ring-oscillator ratio for each core. -/
def ageingOk (guard : List Int) (ratios : List Nat) : Bool := decide (guard.length = 11520 ∧ ratios.length = 256)
/-- The 104 bytes of a debug response (R423). -/
def dbgResponseOk (data : List Byte) : Bool := decide (data.length = 104)
/-- IVR phases of each group (R332). -/
def railPhases : Rail → Nat
  | .vct => 48 | .vdl => 24 | .vda => 8
/-- The phase exists in its group (R332). -/
def phaseOk (r : Rail) (phase : Nat) : Bool := decide (phase < railPhases r)

/-- The command is well formed. -/
def Instr.wf : Instr → Bool
  | .bar2Read _ len => bar2ReadOk len
  | .bar2Write _ data => bar2WriteOk data
  | .damperUpdate _ amps activity => damperOk amps activity
  | .sensorSample dc => sensorOk dc
  | .analogueSelftest (.secondPass _ dc) => sensorOk dc
  | .ageingMeasurement _ guard ratios => ageingOk guard ratios
  | .dbgResponse data => dbgResponseOk data
  | .registerWrite _ data => regWriteOk data
  | .ivrPhaseFailure _ r phase => phaseOk r phase
  | _ => true

end Sys2Proof
end

