-- ==== Sys2Proof/Machine/Dpa.lean ====
section
/-! DEFINITION. Device physical addresses (R24 to R31): where an address lies, reads and writes over the service paths, and
BAR2. -/

namespace Sys2Proof.Machine

-- Places (R24 to R28)

/-- Where a device physical address lies. -/
inductive Place where
  | dram (c off : Nat)
  | cmdWindow (c off : Nat)
  | resWindow (c off : Nat)
  | sram (c off : Nat)
  | hearth (off : Nat)
  | hole
  deriving DecidableEq, Repr

/-- First address behind the core SRAM space (R24). -/
def sramEnd : Nat := 0x4200000000
/-- First address of hearth SRAM, and its bytes (R24). -/
def hearthBase : Nat := 0x5000000000
/-- Bytes of hearth SRAM (R12, R24). -/
def hearthBytes : Nat := 0x8000000
/-- The place of an address (R24, R25, R28). -/
def placeOf (a : Nat) : Place :=
  if a < 0x4000000000 then
    let c := a / 2 ^ 27
    let off := a % 2 ^ 27
    if off < dramBytes then .dram c off else if off < 0x7000000 then .cmdWindow c off else .resWindow c off
  else if a < sramEnd then
    let c := (a - 0x4000000000) / 2 ^ 22
    let off := (a - 0x4000000000) % 2 ^ 22
    if off < sramBytes then .sram c off else .hole
  else if hearthBase ≤ a ∧ a < hearthBase + hearthBytes then .hearth (a - hearthBase)
  else .hole
/-- Bytes from an address to the end of the piece in which it lies: a data range, one window line, or anything of a hole. -/
def pieceRoom (a n : Nat) : Nat :=
  match placeOf a with
  | .dram _ off => dramBytes - off
  | .cmdWindow _ off => 64 - off % 64
  | .resWindow _ off => 64 - off % 64
  | .sram _ off => sramBytes - off
  | .hearth off => hearthBytes - off
  | .hole => if a < sramEnd ∧ a ≥ 0x4000000000 then 2 ^ 22 - a % 2 ^ 22 else n
/-- A request cut into pieces: address and length. -/
def dpaPieces : Nat → Nat → Nat → List (Nat × Nat)
  | 0, _, _ => []
  | k + 1, a, n =>
    if n = 0 then []
    else
      let m := min n (pieceRoom a n)
      (a, m) :: dpaPieces k (a + m) (n - m)
/-- The pieces of a request of n bytes. -/
def piecesOf (a n : Nat) : List (Nat × Nat) := dpaPieces (n / 64 + 3) a n
/-- NBU of a window offset (R27). -/
def winNbu (off : Nat) : Nat := off / 0x100000 % 16
/-- Line of a window offset (R201, R213). -/
def winLine (off : Nat) : Nat := off % 0x100000 / 64

-- Failures (R30, R31)

/-- Why an access fails: its status, and the unit, DETAIL and partition of its record. -/
structure DpaFail where
  status : Status
  unit : W32
  detail : BitVec 192
  part : Option Nat
  deriving DecidableEq, Repr

/-- A failure at a hole or at hearth SRAM: the PCIe interface decides it. -/
def holeFail (s : State) : DpaFail := ⟨.addrFault, hearthUnit s 288, 0, none⟩
/-- A failure at a unit of a core. -/
def unitFail (s : State) (c sub : Nat) (st : Status) (det : BitVec 192) : DpaFail := ⟨st, coreUnit s c sub, det, s.ownerOf c⟩
/-- The CONTAINED record of a failing access (R30, R170, R185). -/
def reportFail (s : State) (f : DpaFail) : State :=
  report s { unit := f.unit, status := f.status.code, cls := .contained, part := f.part, detail := f.detail }
/-- The same record of an access that a descriptor of a channel causes: its DETAIL names the channel's handle and the SEQ (R376). -/
def reportDesc (s : State) (ch : Nat) (d : Line) (f : DpaFail) : State :=
  report s { unit := f.unit, status := f.status.code, cls := .contained, part := f.part, opSpace := 3, opcode := descOp d,
             detail := f.detail ||| detDesc s ch d }
/-- The unit concerned, as a completion record names it: none for a hole. -/
def DpaFail.concerned (f : DpaFail) (s : State) : W32 := if f.unit = hearthUnit s 288 then noUnit else f.unit
/-- What refuses an access to a core's SRAM (R31). -/
def sramGate (s : State) (c : Nat) : Option Status :=
  if s.isQuar c then some .quarantined
  else
    match s.ownerState c with
    | .loading | .running | .recovering => some .stateConflict
    | _ => none

-- Hearth SRAM, which only management firmware reaches (R12, R24, R29; log entry 70)

/-- Bytes of hearth SRAM from an offset on. -/
def hearthRd (s : State) (off n : Nat) : List Byte := rdBytes s.mem (hearthBase + off) n
/-- Management firmware writes hearth SRAM. -/
def hearthWr (s : State) (off : Nat) (bs : List Byte) : State := { s with mem := wrBytes s.mem (hearthBase + off) bs }

-- Reads

/-- A read of populated SRAM (R84). -/
def readSram (s : State) (c off n : Nat) : State × Except DpaFail (List Byte) :=
  let r := sramRead s c off n
  match r.2 with
  | some o => (noteBank r.1 c (sramBank o), .error (unitFail s c (16 + sramBank o) .uncorrectable (sramDetail r.1 c o)))
  | none => (r.1, .ok (rdBytes r.1.mem (sramDpa c off) n))
/-- A read of DRAM data (R168, R170). -/
def readDram (s : State) (c off n : Nat) : State × Except DpaFail (List Byte) :=
  let r := dramRead s c off n
  match r.2 with
  | some o => (r.1, .error (unitFail s c (64 + bankOf o) .uncorrectable (dramDetail r.1 c o false)))
  | none => (r.1, .ok (if (dramMarks s c off n).isEmpty then rdBytes s.mem (dramDpa c off) n else (natsFrom off n).map (dramByte s c)))
/-- A read that consumes nothing of part of a result-window line (R31, R213). -/
def readWindow (s : State) (c off n : Nat) : State × Except DpaFail (List Byte) :=
  if (s.regionAt c).mode = .normal then (s, .error (unitFail s c (64 + winNbu off) .stateConflict 0))
  else (s.draw, .ok (((bytesOf (peekLine s c (winNbu off) (winLine off)) 64).drop (off % 64)).take n))
/-- A read of one piece by BAR2 or a channel (R31). -/
def readPiece (s : State) (a n : Nat) : State × Except DpaFail (List Byte) :=
  match placeOf a with
  | .hole | .hearth _ => (s, .error (holeFail s))
  | .cmdWindow c off => (s, .error (unitFail s c (64 + winNbu off) .addrFault 0))
  | .resWindow c off => readWindow s c off n
  | .dram c off => readDram s c off n
  | .sram c off =>
    match sramGate s c with
    | some st => (s, .error (unitFail s c 0 st 0))
    | none => readSram s c off n
/-- Reads pieces in order; the first that fails fails the request (R30). -/
def readPieces (s : State) : List (Nat × Nat) → State × Except DpaFail (List Byte)
  | [] => (s, .ok [])
  | (a, n) :: t =>
    let r := readPiece s a n
    match r.2 with
    | .error f => (r.1, .error f)
    | .ok bs =>
      let q := readPieces r.1 t
      match q.2 with
      | .error f => (q.1, .error f)
      | .ok cs => (q.1, .ok (bs ++ cs))
/-- A read request of n bytes. -/
def dpaRead (s : State) (a n : Nat) : State × Except DpaFail (List Byte) := readPieces s (piecesOf a n)

-- Writes

/-- Outcome of a write request. -/
inductive DpaOut where
  | done (s : State)
  | fail (s : State) (f : DpaFail)
  /-- a command whose NBU's queue is full: it waits (R202) -/
  | full (c n : Nat) (l : Line)
/-- A write of DRAM data (R169, R219): it fails as a whole. -/
def writeDram (s : State) (c off : Nat) (bs : List Byte) : DpaOut :=
  match busyIn s c off bs.length with
  | some o => .fail s (unitFail s c (64 + bankOf o) .operandBusy (detWord o false false))
  | none =>
    let w := dramWrite s c off bs
    match w.2 with
    | some o => .fail w.1 (unitFail s c (64 + bankOf o) .uncorrectable (dramDetail w.1 c o false))
    | none => .done w.1
/-- A write of populated SRAM (R84). -/
def writeSram (s : State) (c off : Nat) (bs : List Byte) : DpaOut :=
  let w := sramWrite s c off bs
  match w.2 with
  | some o => .fail (noteBank w.1 c (sramBank o)) (unitFail s c (16 + sramBank o) .uncorrectable (sramDetail w.1 c o))
  | none => .done w.1
/-- A write in the command window (R31, R201): only one aligned line as a whole request has an effect. -/
def writeWindow (s : State) (c off : Nat) (bs : List Byte) (whole : Nat) : DpaOut :=
  let n := winNbu off
  if (s.regionAt c).mode ≠ .compute then .fail s (unitFail s c (64 + n) .stateConflict 0)
  else if bs.length ≠ 64 ∨ whole ≠ 64 ∨ off % 64 ≠ 0 then .fail s (unitFail s c (64 + n) .addrFault 0)
  else
    match windowWrite s c n (winLine off) (lineOfBytes bs) .service with
    | .done s' => .done s'
    | .fail st => .fail s (unitFail s c (64 + n) st 0)
    | .full => .full c n (lineOfBytes bs)
/-- A write of one piece of a request of `whole` bytes (R31). -/
def writePiece (s : State) (a whole : Nat) (bs : List Byte) : DpaOut :=
  match placeOf a with
  | .hole | .hearth _ => .fail s (holeFail s)
  | .resWindow c off => .fail s (unitFail s c (64 + winNbu off) .addrFault 0)
  | .cmdWindow c off => writeWindow s c off bs whole
  | .dram c off => writeDram s c off bs
  | .sram c off =>
    match sramGate s c with
    | some st => .fail s (unitFail s c 0 st 0)
    | none => writeSram s c off bs
/-- What a request that fails leaves: no byte of it is written, and what its failing piece counted stays (R30). -/
def unwritten (s t : State) : State := { s with ras := { s.ras with bankAt := t.ras.bankAt, bankQuar := t.ras.bankQuar }, memc := t.memc }
/-- Writes pieces in order on behalf of a request that began in state s0. -/
def writePieces (s0 : State) (whole : Nat) : State → List (Nat × Nat) → List Byte → DpaOut
  | s, [], _ => .done s
  | s, (a, n) :: t, bs =>
    match writePiece s a whole (bs.take n) with
    | .done s' => writePieces s0 whole s' t (bs.drop n)
    | .fail s' f => .fail (unwritten s0 s') f
    | .full c k l => .full c k l
/-- A write request: all of it or nothing (R30). -/
def dpaWrite (s : State) (a : Nat) (bs : List Byte) : DpaOut := writePieces s bs.length s (piecesOf a bs.length) bs

-- BAR2 (R29 to R31)

/-- BAR2 covers the request: the device is READY and not in D3hot, and every byte lies in the aperture. -/
def inBar2 (s : State) (dpa n : Nat) : Bool := s.dev.ready && !s.hst.d3hot && decide (dpa + n ≤ 2 ^ s.hst.bar2Log2)
/-- The outcome of a BAR2 access, as its sender sees it. -/
def bar2Out (s : State) (data : Option (List Byte)) (fail : Option Status) : State :=
  { s with out := { s.out with bar2 := data, bar2Fail := fail } }
/-- A BAR2 read is served. -/
def bar2ReadNow (s : State) (a n : Nat) : State :=
  let r := dpaRead s a n
  match r.2 with
  | .ok bs => bar2Out r.1 (some bs) none
  | .error f => noteUnsupported true (bar2Out (reportFail r.1 f) none (some f.status))
/-- A service-path write waits for a free entry of an NBU's queue (R202). -/
def waitWindow (s : State) (c n : Nat) (l : Line) : State := s.modNbu c n fun u => { u with waitWrite := some ⟨l, .service⟩ }
/-- A BAR2 write is served: written, discarded, or waiting for a free entry of a command queue (R202). -/
def bar2WriteNow (s : State) (a : Nat) (bs : List Byte) : State :=
  match dpaWrite s a bs with
  | .done s' => bar2Out s' none none
  | .fail s' f => bar2Out (reportFail s' f) none (some f.status)
  | .full c n l => bar2Out (waitWindow s c n l) none none

-- The order of a service path at a region (R185)

/-- The record of a window write over a service path that has failed (R30). -/
def serviceFail (s : State) (c n : Nat) (st : Status) : State :=
  report s { unit := coreUnit s c (64 + n), status := st.code, cls := .contained, part := s.ownerOf c }
/-- A window write over a service path is served. -/
def windowNow (s : State) (c n line : Nat) (l : Line) : State :=
  match windowWrite s c n line l .service with
  | .done s' => s'
  | .fail st => serviceFail s c n st
  | .full => waitWindow s c n l
/-- The core whose home region an address reaches. -/
def regionOfDpa (a : Nat) : Option Nat :=
  match placeOf a with
  | .dram c _ | .cmdWindow c _ | .resWindow c _ => some c
  | _ => none
/-- A KV_RESULT that a region has begun to serve waits for a fold (R213, R216). -/
def resultWaits (s : State) (c : Nat) : Bool :=
  s.hst.chans.any fun x => x.2.q.any fun e => decide (e.phase = .running ∧ descOp e.desc = 0x54 ∧ bits e.desc 74 64 = c)
/-- An access that a service path has accepted waits at the region: a write or a descriptor's unit for a free entry of a command
queue, or a read for a fold. -/
def pathBusy (s : State) (c : Nat) : Bool :=
  ((s.regionAt c).nbus.any fun e => e.2.waitWrite.isSome || e.2.waitDesc.isSome) || resultWaits s c
/-- No access waits at the region. -/
def pathFree (s : State) (c : Nat) : Bool := (s.regionAt c).behind.isEmpty && !pathBusy s c
/-- One access is served. -/
def serveReq (s : State) (c : Nat) : PathReq → State
  | .read a n => bar2ReadNow s a n
  | .write a bs => bar2WriteNow s a bs
  | .window n line l => windowNow s c n line l
/-- Serves the accesses that waited, up to one that has to wait itself. -/
def drainPath : Nat → State → Nat → State
  | 0, s, _ => s
  | k + 1, s, c =>
    match (s.regionAt c).behind with
    | [] => s
    | q :: qs => if pathBusy s c then s else drainPath k (serveReq (s.modRegion c fun r => { r with behind := qs }) c q) c
/-- Every access that waits at a region and can go on does. -/
def settlePath (s : State) (c : Nat) : State := drainPath (s.regionAt c).behind.length s c
/-- Every region serves what can go on. -/
def settlePaths (s : State) : State := (s.region.map Prod.fst).foldl settlePath s
/-- A service path accepts an access to a region: it completes after those accepted before (R185). -/
def acceptReq (s : State) (c : Nat) (q : PathReq) : State :=
  let s := settlePath s c
  if pathFree s c then serveReq s c q else s.modRegion c fun r => { r with behind := r.behind ++ [q] }
/-- BAR2_READ (R30, R31): data, or a completion with Unsupported Request. -/
def execBar2Read (dpa : BitVec 40) (len : Nat) (s : State) : Res :=
  if !bar2ReadOk len then .fault .malformedCommand
  else if !s.hst.linkUp then .next s
  else if !inBar2 s dpa.toNat len then .next (noteUnsupported true (bar2Out s none none))
  else
    match regionOfDpa dpa.toNat with
    | some c => .next (acceptReq s c (.read dpa.toNat len))
    | none => .next (bar2ReadNow s dpa.toNat len)
/-- BAR2_WRITE (R30, R31). -/
def execBar2Write (dpa : BitVec 40) (data : List Byte) (s : State) : Res :=
  if !bar2WriteOk data then .fault .malformedCommand
  else if !s.hst.linkUp then .next s
  else if !inBar2 s dpa.toNat data.length then .next (noteUnsupported false (bar2Out s none none))
  else
    match regionOfDpa dpa.toNat with
    | some c => .next (acceptReq s c (.write dpa.toNat data))
    | none => .next (bar2WriteNow s dpa.toNat data)

end Sys2Proof.Machine
end

