-- ==== Sys2Proof/Machine/NbuOps.lean ====
section
/-! DEFINITION. The near-bank units at work (R202, R203, R206 to R222): writes of their windows, start, operations and end
of a command, and reads that consume. -/

namespace Sys2Proof.Machine

-- Words of a bank (R197, R198, R220)

/-- Bytes of NBU n's bank, by byte address 64·BA + i. -/
def bankRd (s : State) (c n : Nat) : Nat → Byte := fun a => dramByte s c (baOff n (a / 64) + a % 64)
/-- The words of a range. -/
def Rng.list (r : Rng) : List Nat := natsFrom r.ba r.words
/-- A page of NBU n all of whose 32 words a command has read (R222). -/
def readWhole (n : Nat) (bas : List Nat) (page : Nat) : Bool :=
  decide (page % 16 = n) && (natsFrom (32 * (page / 16)) 32).all fun ba => bas.contains ba
/-- Reads words in order: the first that cannot be delivered, if any. -/
def readEach (s : State) (c n : Nat) : List Nat → State × Option Nat
  | [] => (s, none)
  | ba :: t =>
    let r := dramRead s c (baOff n ba) 64
    match r.2 with
    | some _ => (r.1, some ba)
    | none => readEach r.1 c n t
/-- Reads the words of a command that has read others before: the first that cannot be delivered, if any; a stale page read whole has
its parity written again (R222). -/
def readAfter (s : State) (c n : Nat) (before bas : List Nat) : State × Option Nat :=
  let r := readEach s c n bas
  let good := match r.2 with
    | some ba => bas.takeWhile fun x => decide (x ≠ ba)
    | none => bas
  (freshPages r.1 c (readWhole n (before ++ good)), r.2)
/-- Reads the first words of a command. -/
def readWords (s : State) (c n : Nat) (bas : List Nat) : State × Option Nat := readAfter s c n [] bas
/-- Bytes of words from a word on, cut at rows, with slot offsets. -/
def rowChunks (n : Nat) : Nat → Nat → List Byte → List (Nat × List Byte)
  | 0, _, _ => []
  | k + 1, ba, bs =>
    if bs.isEmpty then []
    else
      let m := 32 - ba % 32
      (baOff n ba, bs.take (64 * m)) :: rowChunks n k (ba + m) (bs.drop (64 * m))
/-- Bytes written from a word on. -/
def writesAt (n ba : Nat) (bs : List Byte) : List (Nat × List Byte) := rowChunks n (bs.length / 64 + 2) ba bs
/-- Bytes filled up to whole words; what the filling holds is a free value. -/
def fillWords (k : Nat) (bs : List Byte) : List Byte :=
  bs ++ (natsFrom bs.length ((64 - bs.length % 64) % 64)).map (Config.fillByte k)
/-- The bytes of a word with some of them replaced. -/
def patch (old : List Byte) (at_ : Nat) (new : List Byte) : List Byte :=
  old.take at_ ++ new ++ old.drop (at_ + new.length)
/-- A word of a bank as bytes. -/
def wordBytes (rd : Nat → Byte) (ba : Nat) : List Byte := (natsFrom (64 * ba) 64).map rd

-- Results of an operation

/-- What an operation leaves in its running command. -/
structure NbuOut where
  status : Status
  flags : Flags
  detail : W32
  loc : Option Nat
  data : List Line
  writes : List (Nat × List Byte)
  partials : List Triple

/-- An operation that ends with OK. -/
def NbuOut.ok (fl : Flags) (writes : List (Nat × List Byte)) : NbuOut :=
  { status := .ok, flags := fl, detail := 0, loc := none, data := [], writes := writes, partials := [] }
/-- An operation that ends with a status and its DETAIL. -/
def NbuOut.fail (st : Status) (detail : Nat) (loc : Option Nat) : NbuOut :=
  { NbuOut.ok 0 [] with status := st, detail := BitVec.ofNat 32 detail, loc := loc }
/-- An operation that met a word that cannot be delivered. -/
def NbuOut.bad (n ba : Nat) : NbuOut := NbuOut.fail .uncorrectable ba (some (baOff n ba))
/-- Results for a range, or for the result queue when the range is not used. -/
def NbuOut.results (n : Nat) (r : Rng) (fl : Flags) (bs : List Byte) : NbuOut :=
  if r.words = 0 then { NbuOut.ok fl [] with data := linesOf (cdiv bs.length 64) bs } else NbuOut.ok fl (writesAt n r.ba bs)
/-- Runs a computation after its reads. -/
def afterReads (s : State) (c n : Nat) (bas : List Nat) (f : State → NbuOut) : State × NbuOut :=
  let r := readWords s c n bas
  match r.2 with
  | some ba => (r.1, NbuOut.bad n ba)
  | none => (r.1.draw, f r.1)

-- Attention (R207)

/-- The exact sum of values (R207): NaN with NaN or with infinities of both signs; an exact zero is +0. -/
def sumExact (xs : List Val) : Val :=
  if xs.any Val.isNan || (xs.any (fun x => x.isInf && x.isNeg) && xs.any fun x => x.isInf && !x.isNeg) then .nan
  else
    match xs.find? Val.isInf with
    | some x => x
    | none =>
      let d := xs.foldl (fun a x => Nat.lcm a x.den) 1
      Val.ofRat (xs.foldl (fun a x => a + x.snum * (d / x.den : Nat)) 0) d
/-- Byte i of a query slot (R203). -/
def slotByte (slot : List Line) (i : Nat) : Byte := byteAt (slot.getD (i / 64) 0#512) (i % 64)
/-- FP32 number at a byte of a query slot. -/
def slotF32 (slot : List Line) (i : Nat) : Val := f32 (leNat (slotByte slot) i 4)
/-- QSCALE, M_REF and RL_REF of a head (R203). -/
def qScale (slot : List Line) (h : Nat) : Val := slotF32 slot (1024 + 4 * h)
/-- M_REF. -/
def mRef (slot : List Line) (h : Nat) : Val := slotF32 slot (1056 + 4 * h)
/-- RL_REF. -/
def rlRef (slot : List Line) (h : Nat) : Val := slotF32 slot (1088 + 4 * h)
/-- A K4 vector of 128 elements in a word, with its scale code. -/
structure KVec where
  codes : List Nat
  scale : Nat
/-- The vector of token t in a range, with the scale at a byte of the scale words. -/
def kvecAt (rd : Nat → Byte) (r sc : Rng) (t pos : Nat) : KVec :=
  ⟨(natsFrom 0 128).map fun j => elemAt rd (64 * (r.ba + t)) 4 j, (rd (64 * sc.ba + pos)).toNat⟩
/-- Flags of the scale of a vector (R38). -/
def KVec.flags (v : KVec) : Flags := (k4Scale v.scale).2 ||| flagIf (k4Scale v.scale).1.isNan Flag.nanSeen
/-- Step 1: the score of a token, rounded once. -/
def scoreOf (slot : List Line) (h : Nat) (k : KVec) : Nat × Flags :=
  let q := (natsFrom 0 128).map fun j => fE4M3.decode (slotByte slot (128 * h + j)).toNat
  let dot := sumExact ((q.zip k.codes).map fun e => Val.mul e.1 (Val.ofInt (sext 4 e.2)))
  let r := rnd32 (Val.mul (Val.mul dot (k4Scale k.scale).1) (qScale slot h))
  (r.1, r.2 ||| k.flags ||| inFlags (qScale slot h) ||| flagIf (q.any Val.isNan) Flag.nanSeen)
/-- Scores of a head. -/
def scoresOf (slot : List Line) (h : Nat) (ks : List KVec) : List (Nat × Flags) := ks.map (scoreOf slot h)
/-- Step 4: l and o of a head from the weights of its tokens; any NaN makes the head NaN. -/
def weighted (m : W32) (ps : List Val) (vs : List KVec) : Triple × Flags :=
  let sc := vs.map fun v => (k4Scale v.scale).1
  let fl := vs.foldl (fun a v => a ||| v.flags) (0 : Flags)
  if (v32 m).isNan || ps.any Val.isNan || sc.any Val.isNan then (tripleNan 128 0#32, fl ||| Flag.nanSeen)
  else
    let l := w32r (sumExact ps)
    let pv := (ps.zip sc).map fun e => Val.mul e.1 e.2
    let o := (natsFrom 0 128).map fun j =>
      w32r (sumExact ((pv.zip vs).map fun e => Val.mul e.1 (Val.ofInt (sext 4 (e.2.codes.getD j 0)))))
    (⟨m, l.1, o.map Prod.fst, 0#32⟩, o.foldl (fun a x => a ||| x.2) (fl ||| l.2))
/-- Steps 2 to 4: the triple of a head. -/
def attnHead (scores : List (Nat × Flags)) (vs : List KVec) : Triple × Flags :=
  let ss := scores.map fun x => f32 x.1
  let m := ss.foldl Val.max (.inf true)
  let ps := ss.map fun x => fE4M3.decode (vExp2 fE4M3 ⟨true, false⟩ (f32 (rnd32 (Val.add x m.neg)).1)).1
  let r := weighted (BitVec.ofNat 32 (rnd32 m).1) ps vs
  (r.1, scores.foldl (fun a x => a ||| x.2) r.2)
/-- g of a head: the mass of its tokens under M_REF. -/
def massOf (slot : List Line) (h : Nat) (scores : List (Nat × Flags)) : Val :=
  let gs := scores.map fun x => f32 (vExp2 fFP32 ⟨true, false⟩ (f32 (rnd32 (Val.add (f32 x.1) (mRef slot h).neg)).1)).1
  r32 (sumExact gs)
/-- The new score of a fragment. -/
def newScore (slot : List Line) (heads : Nat) (scores : List (List (Nat × Flags))) (old decay : Nat) : Nat × Flags :=
  let terms := (natsFrom 0 heads).map fun h => Val.mul (massOf slot h (scores.getD h [])) (rlRef slot h)
  let r := rnd32 (Val.add (Val.mul (f32 old) (f32 decay)) (r32 (sumExact terms)))
  let ins := f32 old :: f32 decay :: (natsFrom 0 heads).flatMap fun h => [mRef slot h, rlRef slot h]
  (r.1, ins.foldl (fun a x => a ||| inFlags x) (r.2 ||| flagIf (f32 r.1).isNan Flag.nanSeen))
/-- The bytes of triples in the layout of R111, a head's lines in turn. -/
def tripleBytes (k : Nat) (ts : List Triple) : List Byte :=
  ((natsFrom 0 ts.length).zip ts).flatMap fun e =>
    (leBytes e.2.m.toNat 4 ++ leBytes e.2.l.toNat 4 ++ leBytes e.2.dropped.toNat 4 ++ (natsFrom 12 52).map (Config.fillByte (k + e.1))) ++
      e.2.o.flatMap fun x => leBytes x.toNat 4
/-- Flags of a list of triples. -/
def joinFlags (ts : List (Triple × Flags)) : Flags := ts.foldl (fun a x => a ||| x.2) 0
/-- The key vectors of a command. -/
def keysOf (rd : Nat → Byte) (l : Line) : List KVec :=
  (natsFrom 0 (cmdNtok l)).map fun t => kvecAt rd (cmdRange l 0) (cmdRange l 2) t t
/-- The value vectors of a command. -/
def valuesOf (rd : Nat → Byte) (l : Line) : List KVec :=
  (natsFrom 0 (cmdNtok l)).map fun t => kvecAt rd (cmdRange l 1) (cmdRange l 2) t (cmdNtok l + t)
/-- ATTP (R207). -/
def attpRun (s : State) (c n : Nat) (run : NbuRun) : State × NbuOut :=
  let l := run.cmd.cmd
  let sw := cmdRange l 3
  let words := (cmdRange l 0).list ++ (cmdRange l 1).list ++ (cmdRange l 2).list ++ (if cmdScoreEn l then sw.list else [])
  afterReads s c n words fun s =>
    let rd := bankRd s c n
    let ks := keysOf rd l
    let scores := (natsFrom 0 (cmdHeads l)).map fun h => scoresOf run.slot h ks
    let ts := scores.map fun x => attnHead x (valuesOf rd l)
    let idx := 4 * bits l 339 336
    let score := newScore run.slot (cmdHeads l) scores (leNat rd (64 * sw.ba + idx) 4) (bits l 383 352)
    let o := NbuOut.ok (joinFlags ts ||| (if cmdScoreEn l then score.2 else 0))
      (if cmdScoreEn l then writesAt n sw.ba (patch (wordBytes rd sw.ba) idx (leBytes score.1 4)) else [])
    if cmdMerge l then { o with partials := ts.map Prod.fst }
    else
      let bs := tripleBytes s.free (ts.map Prod.fst)
      { o with data := linesOf (cdiv bs.length 64) bs }
/-- ATTQK (R207). -/
def attqkRun (s : State) (c n : Nat) (run : NbuRun) : State × NbuOut :=
  let l := run.cmd.cmd
  afterReads s c n ((cmdRange l 0).list ++ (cmdRange l 2).list) fun s =>
    let ks := keysOf (bankRd s c n) l
    let out := codesFlags ((natsFrom 0 (cmdHeads l)).flatMap fun h => scoresOf run.slot h ks)
    NbuOut.results n (cmdRange l 3) out.2 (fillWords s.free (packElems 32 out.1))
/-- ATTAV (R207): the weights come from RG0. -/
def attavRun (s : State) (c n : Nat) (run : NbuRun) : State × NbuOut :=
  let l := run.cmd.cmd
  afterReads s c n ((cmdRange l 0).list ++ (cmdRange l 1).list ++ (cmdRange l 2).list) fun s =>
    let rd := bankRd s c n
    let vs := valuesOf rd l
    let p := fun h t => fE4M3.decode (elemAt rd (64 * (cmdRange l 0).ba) 8 (h * cmdNtok l + t))
    let ts := (natsFrom 0 (cmdHeads l)).map fun h => weighted 0#32 ((natsFrom 0 (cmdNtok l)).map (p h)) vs
    NbuOut.results n (cmdRange l 3) (joinFlags ts) (tripleBytes s.free (ts.map Prod.fst))

-- Cache words and reductions (R208)

/-- A staged vector as K4: element bytes, scale code and flags. -/
def stageK4 (rd : Nat → Byte) (f : Fmt) (base : Nat) : List Byte × Nat × Flags :=
  let xs := (natsFrom base 128).map fun i => f.elem (elemAt rd 0 f.width i) 0
  let q := quantK4 (rangeOf false false xs).lo xs
  (packElems 4 q.1, q.2.1, q.2.2 ||| xs.foldl (fun a x => a ||| inFlags x) 0)
/-- KVAPP (R208). -/
def kvappRun (s : State) (c n : Nat) (run : NbuRun) : State × NbuOut :=
  let l := run.cmd.cmd
  let sc := cmdRange l 3
  afterReads s c n ((cmdRange l 0).list ++ sc.list) fun s =>
    let rd := bankRd s c n
    let f := (Fmt.ofCode (bits l 323 320)).getD .bf16
    let st := fun i => rd (64 * (cmdRange l 0).ba + i)
    let k := stageK4 st f 0
    let v := stageK4 st f 128
    let w := patch (patch (wordBytes rd sc.ba) (bits l 341 336) [BitVec.ofNat 8 k.2.1]) (bits l 349 344) [BitVec.ofNat 8 v.2.1]
    let w := if bit l 324 then patch w (4 * bits l 355 352) (leBytes (bits l 415 384) 4) else w
    NbuOut.ok (k.2.2 ||| v.2.2)
      (writesAt n (cmdRange l 1).ba k.1 ++ writesAt n (cmdRange l 2).ba v.1 ++ writesAt n sc.ba w)
/-- Words that a failing move has or has not written before the failing one: which ones is a free choice. -/
def someWrites (s : State) : List (Nat × List Byte) → State × List (Nat × List Byte)
  | [] => (s, [])
  | w :: ws =>
    let d := drawBool s
    let r := someWrites d.2 ws
    (r.1, if d.1 then r.2 else w :: r.2)
/-- Moves words one by one, after words that the command has read before: each pair is the word read, and what is written from its
bytes. -/
def moveWords (s : State) (c n : Nat) (before : List Nat) (ws : List (Nat × (List Byte → Nat × List Byte))) : State × NbuOut :=
  let r := readAfter s c n before (ws.map Prod.fst)
  let out := fun (st : State) (e : Nat × (List Byte → Nat × List Byte)) =>
    let w := e.2 (wordBytes (bankRd st c n) e.1)
    (baOff n w.1, w.2)
  match r.2 with
  | some ba =>
    let x := someWrites r.1 ((ws.takeWhile fun e => decide (e.1 ≠ ba)).map (out r.1))
    (x.1, { NbuOut.bad n ba with writes := x.2 })
  | none => (r.1, NbuOut.ok 0 (ws.map (out r.1)))
/-- KVDECAY (R208): each score times the factor, rounded once. -/
def kvdecayRun (s : State) (c n : Nat) (run : NbuRun) : State × NbuOut :=
  let l := run.cmd.cmd
  let idx := 4 * bits l 355 352
  let f := f32 (bits l 415 384)
  let old := fun (bs : List Byte) => f32 (leNat (fun i => bs.getD i 0#8) idx 4)
  let bas := (natsFrom 0 (bits l 351 336)).map fun i => (cmdRange l 0).ba + i * bits l 332 320
  let o := moveWords s c n [] (bas.map fun ba => (ba, fun bs => (ba, patch bs idx (leBytes (rnd32 (Val.mul (old bs) f)).1 4))))
  let fl := bas.foldl (fun a ba =>
    let x := old (wordBytes (bankRd s c n) ba)
    a ||| inFlags x ||| flagIf (Val.mul x f).isNan Flag.nanSeen) (inFlags f)
  (o.1, { o.2 with flags := if o.2.status = .ok then fl else 0 })
/-- FILL (R209). -/
def fillRun (s : State) (_c n : Nat) (run : NbuRun) : State × NbuOut :=
  let l := run.cmd.cmd
  let word := (natsFrom 0 8).flatMap fun _ => leBytes (bits l 383 320) 8
  (s, NbuOut.ok 0 ((cmdRange l 0).list.map fun ba => (baOff n ba, word)))
/-- COPY (R209). -/
def copyRun (s : State) (c n : Nat) (run : NbuRun) : State × NbuOut :=
  let l := run.cmd.cmd
  let src := cmdRange l 0
  let dst := cmdRange l 1
  moveWords s c n [] ((natsFrom 0 src.words).map fun i => (src.ba + i, fun bs => (dst.ba + i, bs)))
/-- The index list of GATHER and SCATTER, and its first entry outside a bound (R209). -/
def indexList (rd : Nat → Byte) (l : Line) : List Int :=
  (natsFrom 0 (cmdEntries l)).map fun i => sext 32 (leNat rd (64 * (cmdRange l 0).ba + 4 * i) 4)
/-- The entry lies in a range. -/
def inRng (r : Rng) (e : Int) : Bool := decide ((r.ba : Int) ≤ e ∧ e < (r.ba + r.words : Nat))
/-- GATHER or SCATTER behind its index list (R209). -/
def indexRun (s : State) (c n : Nat) (l : Line)
    (move : Nat → Nat → Nat × (List Byte → Nat × List Byte)) : State × NbuOut :=
  let r := readWords s c n (cmdRange l 0).list
  match r.2 with
  | some ba => (r.1, NbuOut.bad n ba)
  | none =>
    let es := indexList (bankRd r.1 c n) l
    match (natsFrom 0 es.length).find? fun i => !inRng (cmdRange l 2) (es.getD i 0) with
    | some i => (r.1, NbuOut.fail .badDescriptor i none)
    | none => moveWords r.1 c n (cmdRange l 0).list ((natsFrom 0 es.length).map fun i => move i (es.getD i 0).toNat)
/-- GATHER (R209). -/
def gatherRun (s : State) (c n : Nat) (run : NbuRun) : State × NbuOut :=
  let dst := cmdRange run.cmd.cmd 1
  indexRun s c n run.cmd.cmd fun i e => (e, fun bs => (dst.ba + i, bs))
/-- SCATTER (R209): the later of two equal entries wins. -/
def scatterRun (s : State) (c n : Nat) (run : NbuRun) : State × NbuOut :=
  let src := cmdRange run.cmd.cmd 1
  indexRun s c n run.cmd.cmd fun i e => (src.ba + i, fun bs => (e, bs))
/-- One segment of RSUM, as RED reduces it (R108, R208). -/
def rsumOne (rd : Nat → Byte) (f : FloatFmt) (width rf a n : Nat) : Nat × Flags :=
  let r := (natsFrom 0 n).foldl (fun (acc : RedVal × Flags) k =>
    let x := redIn rf (f.decode (elemAt rd 0 width (a + k)))
    let y := if k = 0 then (x.1, (0 : Flags)) else redStep rf false acc.1 x.1
    (y.1, acc.2 ||| x.2 ||| y.2)) (none, 0)
  match r.1 with
  | some v => ((rnd32 v).1, r.2 ||| (rnd32 v).2)
  | none => (0, r.2)
/-- RSUM (R208). -/
def rsumRun (s : State) (c n : Nat) (run : NbuRun) : State × NbuOut :=
  let l := run.cmd.cmd
  afterReads s c n (cmdRange l 0).list fun s =>
    let rd := fun i => bankRd s c n (64 * (cmdRange l 0).ba + i)
    let f := (rsumFmt l).getD fFP32
    let seg := rsumSeg l
    let out := codesFlags ((natsFrom 0 (rsumN l / max 1 seg)).map fun i =>
      rsumOne rd f (8 * rsumBytes l) (bits l 322 320) (i * seg) seg)
    NbuOut.results n (cmdRange l 1) out.2 (fillWords s.free (packElems 32 out.1))

-- Block checks (R210, R211)

/-- A DRAM range touches NBU n's bank. -/
def rangeInBank (lo len n : Nat) : Bool :=
  decide (len > 0) && (natsFrom (lo / 2048) (min 16 ((lo + len - 1) / 2048 + 1 - lo / 2048))).any fun k => decide (k % 16 = n)
/-- Bytes of a BCHK's table. -/
def bchkTabLen (l : Line) : Nat := 4 * cdiv (bchkLines l) 64
/-- NBU n's bank holds part of a BCHK's ranges. -/
def bchkInBank (l : Line) (n : Nat) : Bool :=
  decide (cmdOp l = 0x0B) && (rangeInBank (bchkOff l) (64 * bchkLines l) n || rangeInBank (bchkTab l) (bchkTabLen l) n)
/-- A word of DRAM that ends a command: its bank word address and slot offset. -/
def NbuOut.badAt (off : Nat) : NbuOut := NbuOut.fail .uncorrectable (offBa off) (some off)
/-- A running command still keeps the row tasks of others out of its bank: a BCHK, and a command that itself waits for row tasks,
do not (R210, R211; log entry 38). -/
def NbuRun.keepsBank (run : NbuRun) : Bool := decide (cmdOp run.cmd.cmd ≠ 0x0B) && run.recomp.isEmpty
/-- Row tasks of NBU n in some banks wait for the commands that run there. -/
def tasksWait (r : Region) (n : Nat) (inBank : Nat → Bool) : Bool :=
  r.nbus.any fun e => decide (e.1 ≠ n) && inBank e.1 && match e.2.running with
    | some run => run.keepsBank
    | none => false
/-- Some ranges touch every word of a page: so the page is read whole. -/
def pageAcross (rs : List (Nat × Nat)) (page : Nat) : Bool :=
  (natsFrom (32 * page) 32).all fun k => rs.any fun r => decide (r.2 > 0 ∧ r.1 < 64 * k + 64 ∧ 64 * k < r.1 + r.2)
/-- Ranges up to the word, if any, that could not be delivered: those read before, and the rest of its range is cut. -/
def readPart (stop : Option Nat) : List (Nat × Nat) → List (Nat × Nat)
  | [] => []
  | r :: t =>
    match stop with
    | some o => if r.1 < o + 64 ∧ o < r.1 + r.2 then [(r.1, o - r.1)] else r :: readPart stop t
    | none => r :: readPart stop t
/-- Reads of a BCHK: a stale page read whole, over data and table together, has its parity written again (R222). -/
def bchkReads (s : State) (c : Nat) (rs : List (Nat × Nat)) : State × Option Nat :=
  let r := dramReads s c rs
  (freshPages r.1 c (pageAcross (readPart r.2 rs)), r.2)
/-- BCHK (R210). -/
def bchkRun (s : State) (c _n : Nat) (run : NbuRun) : State × NbuOut :=
  let l := run.cmd.cmd
  let verify := bit l 320
  let blocks := cdiv (bchkLines l) 64
  let r := bchkReads s c ((bchkOff l, 64 * bchkLines l) :: (if verify then [(bchkTab l, bchkTabLen l)] else []))
  let s := r.1
  match r.2 with
  | some o => (s, NbuOut.badAt o)
  | none =>
    let crc := blockCrc (dramRd s c) (bchkOff l / 64) (bchkLines l) 64
    if verify then
      match (natsFrom 0 blocks).find? fun b => decide (crc b ≠ leNat (dramRd s c) (bchkTab l + 4 * b) 4) with
      | some b => (s, NbuOut.fail .checkMismatch b none)
      | none => (s, NbuOut.ok 0 [])
    else
      match dramPartialFails s c (bchkTab l) (bchkTabLen l) with
      | some o => (countUe s, NbuOut.badAt o)
      | none => (s, NbuOut.ok 0 [(bchkTab l, (natsFrom 0 blocks).flatMap fun b => leBytes (crc b) 4)])
/-- Blocks of 4 KiB that writes touch. -/
def touchedBlocks (ws : List (Nat × List Byte)) : List Nat :=
  ws.foldl (fun a w => (natsFrom (w.1 / 4096) ((w.1 + w.2.length - 1) / 4096 + 1 - w.1 / 4096)).foldl (fun a b => insertNat b a) a) []
/-- NBU n's bank holds part of the blocks of a RECOMP or of their table words (R211). -/
def recompInBank (base : Nat) (blocks : List Nat) (n : Nat) : Bool :=
  blocks.any fun b => rangeInBank (4096 * b) 4096 n || rangeInBank (base + 4 * b) 4 n
/-- Rewrites the table word of one block after an NBU's writes: the slot offset of a word that prevents it, if any (R211). A
table word past the slot's data is left out (DESIGN CHOICE, log entry 94). -/
def recompBlock (c base : Nat) (acc : State × Option Nat) (b : Nat) : State × Option Nat :=
  match acc.2 with
  | some _ => acc
  | none =>
    let s := acc.1
    let off := base + 4 * b
    if off + 4 > dramBytes then acc
    else
      let r := dramRead s c (4096 * b) 4096
      let s := freshPages r.1 c (pageIn (4096 * b) 4096 r.2)
      match r.2 with
      | some o => (s, some o)
      | none => dramWrite s c off (leBytes (blockCrc (dramRd s c) (64 * b) 64 64 0) 4)

-- Writes of a completed command (R169, R221)

/-- Pages that writes touch, by number. -/
def pagesOf (ws : List (Nat × List Byte)) : List Nat := ws.foldl (fun a w => insertNat (w.1 / 2048) a) []
/-- Codes of one page under the writes of a command: all 32 words together, or each write for itself. -/
def commitPage (ws : List (Nat × List Byte)) (c : Nat) (s : State) (page : Nat) : State :=
  let here := ws.filter fun w => decide (w.1 / 2048 = page)
  let covers := fun i => here.any fun w => decide (w.1 ≤ page * 2048 + 64 * i ∧ page * 2048 + 64 * i + 64 ≤ w.1 + w.2.length)
  if (natsFrom 0 32).all covers then dramWritePage s c (page * 2048) 2048
  else here.foldl (fun st w => dramWritePage st c w.1 w.2.length) s
/-- Writes cut at page boundaries. -/
def cutPages (ws : List (Nat × List Byte)) : List (Nat × List Byte) :=
  ws.flatMap fun w => (pageParts (w.2.length / 2048 + 2) w.1 w.2.length).map fun p => (p.1, (w.2.drop (p.1 - w.1)).take p.2)
/-- The writes of a command become visible. -/
def commitNbu (s : State) (c : Nat) (writes : List (Nat × List Byte)) : State :=
  let ws := cutPages writes
  let s := (pagesOf ws).foldl (commitPage ws c) s
  { s with mem := ws.foldl (fun m w => wrBytes m (dramDpa c w.1) w.2) s.mem }

-- Writes of the windows (R30, R201 to R204)

/-- A refusal of a window write ends the NBC that the chimney runs (R118, R202). -/
def chimneyFail (s : State) (c n : Nat) (st : Status) : State :=
  match nbcRun s c with
  | some r => updRun s c (r.stop st (64 + n) 0)
  | none => s
/-- One write of a window line over a path. -/
def windowRow (s : State) (c n line : Nat) (l : Line) (via : Path) : Res :=
  match via with
  | .service => .next (acceptReq s c (.window n line l))
  | .chimney =>
    match windowWrite s c n line l .chimney with
    | .done s' => .next s'
    | .fail st => .next (chimneyFail s c n st)
    | .full => .next s
/-- NBU_COMMAND_WRITE (R201, R202). -/
def execNbuCommandWrite (c : CoreId) (n : NbuId) (line : Fin 256) (data : Line) (via : Path) (s : State) : Res :=
  windowRow s c.val n.val line.val data via
/-- QUERY_WRITE (R201, R203). -/
def execQueryWrite (c : CoreId) (n : NbuId) (slot : Fin 4) (line : Fin 18) (data : Line) (via : Path) (s : State) : Res :=
  windowRow s c.val n.val (256 + 18 * slot.val + line.val) data via
/-- QUERY_ALL_WRITE (R201, R203). -/
def execQueryAllWrite (c : CoreId) (slot : Fin 4) (line : Fin 18) (data : Line) (via : Path) (s : State) : Res :=
  windowRow s c.val 0 (512 + 18 * slot.val + line.val) data via
/-- REGION_PARAM_WRITE (R201, R204). -/
def execRegionParamWrite (c : CoreId) (data : Line) (via : Path) (s : State) : Res := windowRow s c.val 0 1024 data via
/-- A CP_COPY or CP_FILL. -/
def isTransfer (d : Line) : Bool := decide (descOp d = 0x40 ∨ descOp d = 0x41)
/-- A transfer that waits in an NBU's window ends with TIMEOUT and its record (R30, R202); DETAIL gives the unit at which it
stood (R277). -/
def endWaitDesc (s : State) (ch : Nat) (unit : W32) (part : Option Nat) : State :=
  let pos := (((s.chanAt ch).q.find? fun e => decide (e.phase = .running) && isTransfer e.desc).map DescEntry.pos).getD 0
  let s := report s { unit := unit, status := Status.timeout.code, cls := .contained, part := part }
  finishDesc s ch isTransfer .timeout (BitVec.ofNat 128 (unit.toNat + pos * 2 ^ 32))
/-- NBU_QUEUE_FULL_TIMEOUT (R202): a service-path write has waited 10 µs. -/
def execNbuQueueFullTimeout (c : CoreId) (n : NbuId) (s : State) : Res :=
  let u := s.nbuAt c.val n.val
  match u.waitWrite, u.waitDesc with
  | some _, _ =>
    .next (settlePath (serviceFail (s.modNbu c.val n.val fun u => { u with waitWrite := none }) c.val n.val .timeout) c.val)
  | none, some ch =>
    .next (settlePath (endWaitDesc (s.modNbu c.val n.val fun u => { u with waitDesc := none }) ch (coreUnit s c.val (64 + n.val))
      (s.ownerOf c.val)) c.val)
  | none, none => .next (settlePath s c.val)

-- Reads that consume (R213, R216)

/-- POP_READ (R213, R214). -/
def execPopRead (c : CoreId) (n : NbuId) (s : State) : Res :=
  if (s.regionAt c.val).mode = .normal then .next s
  else
    let x := consumeLine s c.val n.val 1
    .next { x.2 with out := { x.2.out with win := [x.1] } }
/-- GROUP_LINE0_READ (R213, R216): the round begins. -/
def execGroupLine0Read (c : CoreId) (g : Fin 4) (s : State) : Res :=
  if (s.regionAt c.val).mode = .normal then .next s else .next (startRound s c.val g.val)

-- Start of a command (R203, R210, R212)

/-- Lines that the result queue must have room for. -/
def roomFor (l : Line) : Nat := 1 + dataLines l
/-- A row task of a BCHK, or of a RECOMP that waits, stands ahead of NBU n's next command (R210, R211). -/
def taskAhead (r : Region) (n : Nat) : Bool :=
  r.nbus.any fun e =>
    decide (e.1 ≠ n) && match e.2.running with
      | some run => bchkInBank run.cmd.cmd n || recompInBank r.chkBase.toNat run.recomp n
      | none => false
/-- The command at the head of the queue may start. -/
def mayStart (s : State) (c n : Nat) (u : Nbu) (q : NbuCmd) : Bool :=
  let r := s.regionAt c
  decide (r.mode ≠ .normal) && u.running.isNone && (!cmdQwait q.cmd || decide (mget u.arms (cmdSlot q.cmd) 0 ≠ 0)) &&
    decide (u.results.length + roomFor q.cmd ≤ 256) && !taskAhead r n
/-- A command as it starts: it has read its slot. -/
def freshRun (u : Nbu) (q : NbuCmd) : NbuRun :=
  { cmd := q, computed := false, status := .ok, flags := 0, detail := 0, data := [], writes := [], partials := [],
    slot := (natsFrom 0 18).map fun i => mget u.slots (18 * cmdSlot q.cmd + i) 0#512, inRound := false, loc := none, recomp := [] }
/-- NBU_COMMAND_START (R203, R212). -/
def execNbuCommandStart (c : CoreId) (n : NbuId) (s : State) : Res :=
  let u := s.nbuAt c.val n.val
  match u.queue with
  | [] => .next s
  | q :: qs =>
    if !mayStart s c.val n.val u q then .next s
    else
      let arms := if cmdQwait q.cmd then mset u.arms (cmdSlot q.cmd) (mget u.arms (cmdSlot q.cmd) 0 - 1) 0 else u.arms
      .next (s.setNbu c.val n.val { u with queue := qs, arms := arms, running := some (freshRun u q) })

-- The operations

/-- The running command takes its results. -/
def NbuRun.take (run : NbuRun) (o : NbuOut) : NbuRun :=
  { run with computed := true, status := o.status, flags := o.flags, detail := o.detail, loc := o.loc, data := o.data,
             writes := o.writes, partials := o.partials }
/-- Runs the operation of the NBU's running command, when it has the opcode and has not run. -/
def runNbu (s : State) (c n op : Nat) (f : State → Nat → Nat → NbuRun → State × NbuOut) : Res :=
  match (s.nbuAt c n).running with
  | none => .next s
  | some run =>
    if cmdOp run.cmd.cmd ≠ op || run.computed then .next s
    else
      let x := f s c n run
      .next (x.1.modNbu c n fun u => { u with running := some (run.take x.2) })
/-- ATTP (R207). -/
def execAttp (c : CoreId) (n : NbuId) (s : State) : Res := runNbu s c.val n.val 0x01 attpRun
/-- ATTQK (R207). -/
def execAttqk (c : CoreId) (n : NbuId) (s : State) : Res := runNbu s c.val n.val 0x02 attqkRun
/-- ATTAV (R207). -/
def execAttav (c : CoreId) (n : NbuId) (s : State) : Res := runNbu s c.val n.val 0x03 attavRun
/-- KVAPP (R208). -/
def execKvapp (c : CoreId) (n : NbuId) (s : State) : Res := runNbu s c.val n.val 0x04 kvappRun
/-- KVDECAY (R208). -/
def execKvdecay (c : CoreId) (n : NbuId) (s : State) : Res := runNbu s c.val n.val 0x05 kvdecayRun
/-- FILL (R209). -/
def execFill (c : CoreId) (n : NbuId) (s : State) : Res := runNbu s c.val n.val 0x06 fillRun
/-- COPY (R209). -/
def execCopy (c : CoreId) (n : NbuId) (s : State) : Res := runNbu s c.val n.val 0x07 copyRun
/-- GATHER (R209). -/
def execGather (c : CoreId) (n : NbuId) (s : State) : Res := runNbu s c.val n.val 0x08 gatherRun
/-- SCATTER (R209). -/
def execScatter (c : CoreId) (n : NbuId) (s : State) : Res := runNbu s c.val n.val 0x09 scatterRun
/-- RSUM (R208). -/
def execRsum (c : CoreId) (n : NbuId) (s : State) : Res := runNbu s c.val n.val 0x0A rsumRun
/-- A BCHK waits for the commands that run in the banks of its ranges (R210). -/
def bchkWaits (s : State) (c n : Nat) : Bool :=
  match (s.nbuAt c n).running with
  | some run => tasksWait (s.regionAt c) n (bchkInBank run.cmd.cmd)
  | none => false
/-- BCHK (R210). -/
def execBchk (c : CoreId) (n : NbuId) (s : State) : Res :=
  if bchkWaits s c.val n.val then .next s else runNbu s c.val n.val 0x0B bchkRun

-- The end of a command (R211, R216, R217)

/-- The page-table entry whose frame holds a word of NBU n, with fragment and word of the fragment (R228, R232). -/
def frameOf (r : Region) (n ba : Nat) : Option (Nat × BitVec 128) :=
  r.table.find? fun e =>
    pteValid e.2 && decide (pteGroup e.2 = n % 4) && decide (pteFba e.2 ≤ ba) && decide (ba < pteFba e.2 + 33)
/-- What a KVAPP that ended with OK does to the page table (R232). -/
def appendToken (s : State) (c n : Nat) (l : Line) : State :=
  let r := s.regionAt c
  let ba := (cmdRange l 1).ba
  let miss := fun (i : Nat) => report s { nbuReport s c n l .stateConflict i none with unit := coreUnit s c 80 }
  match frameOf r n ba with
  | none => miss 0xFFFF
  | some (i, e) =>
    let j := ba - pteFba e
    let pos := 16 * (n / 4) + j
    if j < 16 && decide (pteState e = 2) && decide (pos = pteCount e) then
      editTable s c [(i, pteWith e (if pos + 1 = 64 then 3 else 2) (pteSeq e) (pos + 1))]
    else if decide (pos = 0) && decide (j < 16) && decide (pteState e = 1) then
      let s := editTable s c [(i, pteWith e 2 (cmdTag l % 2 ^ 14) 1)]
      { s with kv := { s.kv with openings := s.kv.openings ++ [⟨c, i, pteCtx e, pteLayer e⟩] } }
    else miss i
/-- Merges the triples of an ATTP into the NBU's partials of its group (R207). -/
def Nbu.mergeIn (u : Nbu) (g : Nat) (ts : List Triple) : Nbu × Flags :=
  ((natsFrom 0 ts.length).zip ts).foldl (fun a e =>
    let k := 8 * g + e.1
    match mget? a.1.partials k with
    | some old =>
      let m := mergeTriple old e.2
      ({ a.1 with partials := mput a.1.partials k m.1 }, a.2 ||| m.2)
    | none => ({ a.1 with partials := mput a.1.partials k e.2 }, a.2)) (u, 0)
/-- A failed MERGE command counts in its group's round (R216). -/
def countFailed (s : State) (c : Nat) (l : Line) : State :=
  s.modRegion c fun r =>
    let g := mget r.groups (cmdGroup l) MGroup.empty
    { r with groups := mset r.groups (cmdGroup l) { g with failed := g.failed + 1 } MGroup.empty }
/-- The command's writes stand; the blocks whose check words RECOMP asks for are still to be rewritten (R211). -/
def standWrites (s : State) (c : Nat) (run : NbuRun) : State × NbuRun :=
  let wants := run.status = .ok && cmdRecomp run.cmd.cmd && decide ((s.regionAt c).chkBase ≠ noChkBase)
  (commitNbu s c run.writes, { run with writes := [], recomp := if wants then run.recomp ++ touchedBlocks run.writes else [] })
/-- The row tasks of RECOMP: the command's status and location at the end. -/
def commitRun (s : State) (c : Nat) (run : NbuRun) : State × NbuRun :=
  let x := run.recomp.foldl (recompBlock c (s.regionAt c).chkBase.toNat) (s, none)
  match x.2 with
  | some o =>
    (x.1, { run with status := .uncorrectable, detail := BitVec.ofNat 32 (offBa o), loc := some o, data := [], partials := [] })
  | none => (x.1, run)
/-- The command leaves its NBU: its header and data lines are posted, and the status words follow (R214, R215, R217). -/
def Nbu.post (u : Nbu) (run : NbuRun) (t : W64) : Nbu :=
  let data := if run.status = .ok then run.data else []
  let posts := cmdStatusEn run.cmd.cmd || decide (run.status ≠ .ok) || !data.isEmpty
  let head := resultHeader run.cmd.cmd run.status run.flags (if data.isEmpty then 1 else 2) data.length run.detail t
  { u with
    running := none,
    results := if posts then u.results ++ head :: data else u.results,
    lastTag := BitVec.ofNat 16 (cmdTag run.cmd.cmd), lastStatus := BitVec.ofNat 8 run.status.code, completed := u.completed + 1 }
/-- A service-path write that waited takes the free entry (R202). -/
def admitWaiting (s : State) (c n : Nat) : State :=
  let u := s.nbuAt c n
  match u.waitWrite with
  | some q =>
    if (s.regionAt c).mode = .compute && decide (u.load < 64) then
      s.setNbu c n { u with queue := u.queue ++ [q], waitWrite := none }
    else s
  | none => s
/-- What follows a command's end: the sync counter, the page table, or the record of its failure (R217, R232). -/
def afterCommand (s : State) (c n : Nat) (run : NbuRun) : State :=
  let l := run.cmd.cmd
  if run.status = .ok then
    let s := if cmdOp l = 4 then appendToken s c n l else s
    if cmdSigEn l then bumpCnt s c (bits l 11 8) (nbuReport s c n l .ok 0 none) else s
  else
    let s := if cmdMerge l then countFailed s c l else s
    let r := nbuReport s c n l run.status run.detail.toNat run.loc
    match run.cmd.via with
    | .chimney => opFault s c r
    | .service => report s r
/-- The running command ends: row tasks, merge, results and what follows. The result's TIME is the tier's copy of the counter
(R326). -/
def endCommand (s : State) (c n : Nat) (run : NbuRun) : State :=
  let x := commitRun s c run
  let m := (x.1.nbuAt c n).mergeIn (cmdGroup run.cmd.cmd) (if x.2.status = .ok then x.2.partials else [])
  let run := { x.2 with flags := x.2.flags ||| m.2 }
  let s := x.1.setNbu c n (m.1.post run (x.1.tierTime (tierOf c)))
  settlePath (pumpChimney (admitWaiting (afterCommand s c n run) c n) c) c
/-- NBU_COMMAND_COMPLETE (R211, R216, R217): once its writes stand, a command with RECOMP may have to wait for its row tasks. -/
def execNbuCommandComplete (c : CoreId) (n : NbuId) (s : State) : Res :=
  match (s.nbuAt c.val n.val).running with
  | none => .next s
  | some run =>
    let l := run.cmd.cmd
    let pendingFold := (mget (s.regionAt c.val).groups (cmdGroup l) MGroup.empty).pendingFold
    if !run.computed || (cmdMerge l && pendingFold && !run.inRound) then .next s
    else
      let x := standWrites s c.val run
      if tasksWait (x.1.regionAt c.val) n.val (recompInBank (x.1.regionAt c.val).chkBase.toNat x.2.recomp) then
        .next (x.1.modNbu c.val n.val fun u => { u with running := some x.2 })
      else .next (endCommand x.1 c.val n.val x.2)
/-- NBU_ROW_BOUNDARY (R218): the NBU yields its row to waiting demand traffic. -/
def execNbuRowBoundary (c : CoreId) (n : NbuId) (s : State) : Res :=
  if (s.nbuAt c.val n.val).running.isSome then .next (s.modNbu c.val n.val fun u => { u with yields := u.yields + 1 })
  else .next s

end Sys2Proof.Machine
end

