-- ==== Sys2Proof/Machine/Cache.lean ====
section
/-! DEFINITION. The cache at work: eviction by score (R234 to R236, R249), and the batch former (R246 to R248). -/

namespace Sys2Proof.Machine

-- Eviction (R234 to R236)

/-- Entries of a context-layer in a partition's regions: core, index, entry. -/
def layerPages (s : State) (cores : List Nat) (ctx layer : Nat) (ok : Nat → Bool) : List (Nat × Nat × BitVec 128) :=
  cores.flatMap fun c =>
    ((s.regionAt c).table.filter fun e => ok (pteState e.2) && decide (pteCtx e.2 = ctx ∧ pteLayer e.2 = layer)).map
      fun e => (c, e.1, e.2)
/-- STATE of a page that the layer retains. -/
def retained (st : Nat) : Bool := decide (st = 2 ∨ st = 3)
/-- Pages of the layer with a higher SEQ. -/
def higherSeq (ps : List (Nat × Nat × BitVec 128)) (e : BitVec 128) : Nat :=
  (ps.filter fun p => decide (pteSeq p.2.2 > pteSeq e)).length
/-- The page is protected (R235): a sink, or one of the recent ⌈32 ÷ S⌉ among the OPEN, FULL and HELD entries (R249). -/
def protectedPage (shards : Nat) (all : List (Nat × Nat × BitVec 128)) (e : BitVec 128) : Bool :=
  decide (pteSeq e < 4) || decide (higherSeq all e < cdiv 32 (max 1 shards))
/-- A fragment score (R234): +0 for a NaN, and for a scale word that cannot be read, which writes its record (R170). -/
def fragmentScore (acc : State × Val) (c g f fba : Nat) : State × Val :=
  let n := g + 4 * f
  let off := baOff n (fba + 32)
  let r := dramRead acc.1 c off 64
  match r.2 with
  | some o =>
    (report r.1 { unit := coreUnit r.1 c (64 + n), status := Status.uncorrectable.code, cls := .contained, part := r.1.ownerOf c,
                  detail := dramDetail r.1 c o false }, acc.2)
  | none =>
    let v := f32 (leNat (dramRd r.1 c) (off + 32) 4)
    (r.1, if v.isNan then acc.2 else Val.add acc.2 v)
/-- A page score (R234): the exact sum of its fragment scores, rounded once; a NaN counts as +0. -/
def pageScore (s : State) (c : Nat) (e : BitVec 128) : State × Val :=
  let r := (natsFrom 0 4).foldl (fun a f => fragmentScore a c (pteGroup e) f (pteFba e)) (s, Val.zero)
  let v := r32 r.2
  (r.1, if v.isNan then Val.zero else v)
/-- The lower of two candidates: by score, then by SEQ. -/
def lowerPage (a b : Nat × Nat × BitVec 128 × Val) : Bool :=
  a.2.2.2.lt b.2.2.2 || (!b.2.2.2.lt a.2.2.2 && decide (pteSeq a.2.2.1 < pteSeq b.2.2.1))
/-- The victim among the unprotected pages, with the state that the reads of their scores leave. -/
def pickVictim (s : State) (ps : List (Nat × Nat × BitVec 128)) : State × Option (Nat × Nat × BitVec 128 × Val) :=
  ps.foldl (fun acc p =>
    let r := pageScore acc.1 p.1 p.2.2
    let cand := (p.1, p.2.1, p.2.2, r.2)
    match acc.2 with
    | none => (r.1, some cand)
    | some b => (r.1, some (if lowerPage cand b then cand else b))) (s, none)
/-- Evicts one page of a layer that holds more than its budget. -/
def evictFrom (s : State) (cx : Ctx) (v : Partition) (ctx layer : Nat) : State :=
  let live := layerPages s v.cores ctx layer retained
  if live.length ≤ cx.budget then s
  else
    let all := layerPages s v.cores ctx layer fun st => retained st || decide (st = 4)
    let r := pickVictim s (live.filter fun p => !protectedPage cx.shards all p.2.2)
    let st := match v.plan with
      | some pl => if pl.hasSnap then 4 else 1
      | none => 1
    match r.2 with
    | some (c, i, e, _) => editTable r.1 c [(i, pteWith e st (pteSeq e) 0)]
    | none => r.1
/-- EVICTION_SELECTION (R236): the batch former serves the oldest opening. -/
def execEvictionSelection (s : State) : Res :=
  match s.kv.openings with
  | [] => .next s
  | o :: rest =>
    let s := { s with kv := { s.kv with openings := rest } }
    match mget? s.kv.ctxs o.ctx with
    | none => .next s
    | some cx =>
      match s.part? cx.part with
      | none => .next s
      | some v => .next (evictFrom s cx v o.ctx o.layer)

-- The batch former (R246 to R248)

/-- Longest context (R246). -/
def maxTokens : Nat := 1048576
/-- The request in the signal slot of a partition's batch core, of a kind (R248). -/
def requestOf (s : State) (p kind : Nat) : Option (BatchBox × SigSlot) :=
  match (s.part? p).bind Partition.plan with
  | some pl => match pl.batch with
    | some b => match (s.coreAt b.core).sig with
      | some g => if batchRequest s b.core g = some kind then some (b, g) else none
      | none => none
    | none => none
  | none => none
/-- A sequence that waits for a batch of a partition. -/
def seqWaits (s : State) (p : Nat) (q : KvSeq) : Bool :=
  !q.paused && !q.formed && decide ((mget? s.kv.ctxs q.ctx).map Ctx.part = some p)
/-- Inserts by order of waiting. -/
def insertSeq (q : KvSeq) : List KvSeq → List KvSeq
  | [] => [q]
  | x :: t => if q.since < x.since then q :: x :: t else x :: insertSeq q t
/-- Waiting sequences, the one that has waited longest first. -/
def waitingSeqs (s : State) (p : Nat) : List KvSeq := (s.kv.seqs.filter (seqWaits s p)).foldr insertSeq []
/-- Removes the waiting sequences that one more token would take past the limit (R247). -/
def dropOverflow (s : State) (p : Nat) : State :=
  ((waitingSeqs s p).filter fun q => decide (q.done ≥ maxTokens)).foldl (fun st q =>
    report (dropKvSeq st q.ctx) { unit := hearthUnit st 290, status := Status.noFit.code, cls := .contained, part := some p }) s
/-- An entry of a batch record. -/
def batchEntry (q : KvSeq) (last : Bool) (tokens : Nat) : List Byte :=
  leBytes q.ctx 1 ++ leBytes (b2n last) 1 ++ leBytes tokens 2 ++ leBytes q.done 4
/-- The 192 bytes of a batch record (R248). -/
def batchRecord (kind id bucket status : Nat) (es : List (List Byte)) : List Byte :=
  let b := leBytes kind 1 ++ leBytes id 1 ++ leBytes es.length 1 ++ leBytes bucket 1 ++ leBytes status 1 ++ List.replicate 3 0#8 ++ es.flatten
  b ++ List.replicate (192 - b.length) 0#8
/-- Writes the record, takes the request's signal, and then counts the mailbox's counter (R98, R248). -/
def answerBatch (s : State) (b : BatchBox) (g : SigSlot) (bs : List Byte) : State :=
  let s := endSig s b.core g
  let w := sramWrite s b.core (64 * b.la) bs
  let r := opReport s b.core 104 g.index (recAt s b.core g.index) .ok 0 0
  match w.2 with
  | some o =>
    opFault (noteBank w.1 b.core (sramBank o)) b.core { r with unit := coreUnit s b.core (16 + sramBank o), status := Status.uncorrectable.code, detail := sramDetail w.1 b.core o }
  | none => bumpCnt w.1 b.core b.ctr r
/-- The sequences of a batch are held in the formed state. -/
def holdFormed (s : State) (p : Nat) (qs : List KvSeq) (tokens : Nat) : State × Nat :=
  match s.part? p with
  | none => (s, 0)
  | some v =>
    let s := qs.foldl (fun st q => modKvSeq st q.ctx fun q => { q with formed := true }) s
    (s.setPart p { v with batches := v.batches ++ [⟨v.nextBatch, qs.map KvSeq.ctx, tokens⟩], nextBatch := (v.nextBatch + 1) % 256 },
      v.nextBatch)
/-- Four batches of the partition are formed and not yet done (R248). -/
def batchesFull (s : State) (p : Nat) : Bool :=
  match s.part? p with
  | some v => decide (v.batches.length ≥ 4)
  | none => false
/-- The answer with a formed batch, or an empty one. -/
def formBatch (s : State) (p : Nat) (b : BatchBox) (g : SigSlot) (kind : Nat) (qs : List KvSeq) (tokens : Nat) (last : Bool) : State :=
  match qs with
  | [] => answerBatch s b g (batchRecord 0 0 0 0 [])
  | q :: _ =>
    let h := holdFormed s p qs tokens
    answerBatch h.1 b g (batchRecord kind h.2 (bucketOf q.length) 0 (qs.map fun q => batchEntry q last tokens))
/-- BATCH_DECODE (R247, R248). -/
def execBatchDecode (p : PartId) (s : State) : Res :=
  match requestOf s p.val 0 with
  | none => .next s
  | some (b, g) =>
    if batchesFull s p.val then .next (answerBatch s b g (batchRecord 0 0 0 Status.stateConflict.code []))
    else
      let s := dropOverflow s p.val
      let ws := waitingSeqs s p.val
      let qs := match ws with
        | [] => []
        | q :: _ => (ws.filter fun x => decide (bucketOf x.length = bucketOf q.length)).take b.batchMax
      .next (formBatch s p.val b g 1 qs 1 false)
/-- Tokens of the next chunk of a sequence (R247): it ends at the bucket limit if it would cross it. -/
def chunkLen (b : BatchBox) (q : KvSeq) : Nat := min (min b.chunkMax (q.length - q.done)) (2 ^ (bucketOf q.done + 6) - q.done)
/-- BATCH_PREFILL (R247, R248). -/
def execBatchPrefill (p : PartId) (s : State) : Res :=
  match requestOf s p.val 1 with
  | none => .next s
  | some (b, g) =>
    if batchesFull s p.val then .next (answerBatch s b g (batchRecord 0 0 0 Status.stateConflict.code []))
    else
      match (waitingSeqs s p.val).find? fun q => decide (q.done < q.length) with
      | none => .next (formBatch s p.val b g 2 [] 0 false)
      | some q => .next (formBatch s p.val b g 2 [q] (chunkLen b q) (decide (q.done + chunkLen b q = q.length)))
/-- A sequence behind a finished batch: its tokens are processed, and a decoded token lengthens it. -/
def KvSeq.advance (q : KvSeq) (n : Nat) : KvSeq := { q with done := q.done + n, length := max q.length (q.done + n) }
/-- BATCH_DONE (R248): the batch is released, and pending PAUSE and REMOVE take effect. -/
def execBatchDone (p : PartId) (s : State) : Res :=
  match requestOf s p.val 2, s.part? p.val with
  | some (b, g), some v =>
    match v.batches.find? fun x => decide (x.id = bits g.value 15 8) with
    | none => .next (dropSig s b.core g)
    | some x =>
      let s := x.ctxs.foldl (fun st c => releaseCtx (modKvSeq st c fun q => q.advance x.tokens) c) s
      let s := s.modPart p.val fun v => { v with batches := v.batches.filter fun y => decide (y.id ≠ x.id) }
      .next (endSig s b.core g)
  | _, _ => .next s

end Sys2Proof.Machine
end

