-- ==== Sys2Proof/Machine/Channels.lean ====
section
/-! DEFINITION. Channels (R258 to R273): the doorbell scanner and its switch, bus mastering, interrupts, and the entries of a
channel from fetch to completion record. -/

namespace Sys2Proof.Machine

-- Channel 0 and the scanner's switch (R257, R258)

/-- Fields of HST_CH0_CFG lie in their ranges. -/
def cfgOk (v : W64) : Bool := decide (6 ≤ bits v 4 0 ∧ bits v 4 0 ≤ 16 ∧ 6 ≤ bits v 12 8 ∧ bits v 12 8 ≤ 16)
/-- Channel 0 as the HST_CH0 registers open it (R258). -/
def openCh0 (s : State) : State :=
  if (s.chanAt 0).live then s
  else
    let h := s.hst
    s.setChan 0 { Channel.closed0 with
      state := .open, kind := 3, sqBase := h.ch0Sq, cqBase := h.ch0Cq, sqLog2 := bits h.ch0Cfg 4 0, cqLog2 := bits h.ch0Cfg 12 8,
      vector := bits h.ch0Cfg 26 16, holdoff := bits h.ch0Cfg 47 32 }
/-- Outcome of a change of SCAN_EN from 0 to 1 (R258). -/
def scanOutcome (s : State) (probeOk : Bool) : Status :=
  if !s.hst.atomicEn then .stateConflict
  else if s.hst.dbBase = 0 || !cfgOk s.hst.ch0Cfg then .badDescriptor
  else if !probeOk || !s.canMaster then .stateConflict
  else .ok
/-- A write of 1 to SCAN_EN. -/
def setScanEn (s : State) (probeOk : Bool) : State :=
  if !wholeMap s || s.hst.scanEn then s
  else
    let st := scanOutcome s probeOk
    let s := { s with hst := { s.hst with scanResult := st } }
    if st = .ok then
      let s := openCh0 s
      drainEvents 257 { s with hst := { s.hst with scanEn := true, scanning := true } }
    else s
/-- SCAN_EN_SET (R258): the write, with the outcome of the probe. -/
def execScanEnSet (probeOk : Bool) (s : State) : Res := .next (setScanEn s probeOk)
/-- A write of 0 to SCAN_EN. -/
def clearScanEn (s : State) : State :=
  if wholeMap s then { s with hst := { s.hst with scanEn := false, scanning := false } } else s
/-- SCAN_EN_CLEAR (R258). -/
def execScanEnClear (s : State) : Res := .next (clearScanEn s)

-- The scan (R261, R263 to R266)

/-- Bits that the host sets in a word of the bitmap between the scanner's read and its CAS operations: offset and bits. -/
abbrev Late := List (BitVec 22 × BitVec 64)
/-- cas_clear (R266): the word that its CAS operations leave. Before each of them one more of the host's settings lands; after 16
failures the word stays as it is. -/
def casClear : Nat → Nat → Nat → Nat → List Nat → Nat
  | 0, mem, _, _, late => late.foldl (· ||| ·) mem
  | n + 1, mem, expect, seen, late =>
    let m := mem ||| late.headD 0
    if m = expect then late.tail.foldl (· ||| ·) (m ^^^ (m &&& seen)) else casClear n m m seen late.tail
/-- Reads a word of the doorbell area and clears the bits that it saw (R266). A scan on its way is the state with the number of reads
that it may still make before one of them fails (R256); behind them stands the word. -/
def takeWord (late : Late) (x : State × Nat) (off : Nat) : State × Nat × Nat :=
  if x.2 = 0 then (x.1, x.2, 0)
  else
    let a := x.1.hst.dbBase.toNat + off
    let seen := rdNat x.1.hostMem a 8
    let sets := (late.filter fun e => decide (e.1.toNat = off)).map fun e => e.2.toNat
    ({ x.1 with hostMem := wrNat x.1.hostMem a 8 (casClear 16 seen seen seen sets) }, x.2 - 1, seen)
/-- Set bits of a word, ascending. -/
def setBits (w : Nat) : List Nat := (natsFrom 0 64).filter fun i => w.testBit i
/-- PRODUCER is not one that the channel can have (R261): it runs backwards, or stands past the ring. -/
def producerBad (v : Channel) (producer : W32) : Bool :=
  decide ((producer - v.producer).toNat ≥ 2 ^ 31) || decide ((producer - v.completed).toNat > 2 ^ v.sqLog2)
/-- Descriptors that a channel fetches in one turn (R266). -/
def turnSize : Nat := 64
/-- One turn of a channel: descriptors from the fetch position up to PRODUCER, at most 64 (R266, R268). -/
def fetchNew (s : State) (ch : Nat) : State :=
  let v := s.chanAt ch
  let n := min turnSize (v.producer - v.fetchPos).toNat
  let lines := (natsFrom v.fetchPos.toNat n).map fun k => rdLine s.hostMem (v.sqBase.toNat + 64 * (k % 2 ^ v.sqLog2))
  s.setChan ch { v with raw := v.raw ++ lines, fetchPos := v.fetchPos + BitVec.ofNat 32 n }
/-- A channel that stalled for want of completion entries goes on when some are free. -/
def unstall (v : Channel) : Channel := if v.state = .stalledCq ∧ v.freeEntries > 0 then { v with state := .open } else v
/-- Serves the doorbell of a channel (R261, R266). -/
def serveBell (s : State) (ch : Nat) : State :=
  let v := s.chanAt ch
  match v.state with
  | .closed | .closing => { s with hst := { s.hst with ignored := satAdd 24 s.hst.ignored 1 } }
  | _ =>
    let a := s.hst.dbBase.toNat + 0x10000 + 8 * ch
    let producer := BitVec.ofNat 32 (rdNat s.hostMem a 4)
    let v := unstall { v with cqSeq := BitVec.ofNat 32 (rdNat s.hostMem (a + 4) 4) }
    if v.state = .stalledProducer then s.setChan ch v
    else if producerBad v producer then
      reportContained (s.setChan ch { v with state := .stalledProducer }) (hearthUnit s 289) .badDescriptor
    else
      let s := s.setChan ch { v with producer := producer, fetchHeld := false }
      let s := if ch = 0 then drainEvents 257 s else deliverSigs s
      if (s.chanAt ch).state = .open then fetchNew s ch else s
/-- The doorbell of a channel in a scan: one read of its slot, unless it is CLOSED or CLOSING. -/
def bellTurn (x : State × Nat) (ch : Nat) : State × Nat :=
  match (x.1.chanAt ch).state with
  | .closed | .closing => if x.2 = 0 then x else (serveBell x.1 ch, x.2)
  | _ => if x.2 = 0 then x else (serveBell x.1 ch, x.2 - 1)
/-- The channels of one word of level 2. -/
def scanWord2 (late : Late) (x : State × Nat) (w : Nat) : State × Nat :=
  let r := takeWord late x (0x1000 + 8 * w)
  (setBits r.2.2).foldl (fun y b => bellTurn y (64 * w + b)) (r.1, r.2.1)
/-- The words of level 2 under one word of level 1. -/
def scanWord1 (late : Late) (x : State × Nat) (j : Nat) : State × Nat :=
  let r := takeWord late x (0x40 + 8 * j)
  (setBits r.2.2).foldl (fun y i => scanWord2 late y (64 * j + i)) (r.1, r.2.1)
/-- In SAFE the scanner serves channel 0 alone: it clears that channel's bit of level 2 and leaves every other bit (R322, R398;
log entry 44). -/
def scanSafe (x : State × Nat) : State × Nat :=
  let s := x.1
  let a := s.hst.dbBase.toNat + 0x1000
  let w := rdNat s.hostMem a 8
  if x.2 ≠ 0 ∧ w.testBit 0 then bellTurn ({ s with hostMem := wrNat s.hostMem a 8 (w - 1) }, x.2 - 1) 0 else x
/-- Channels with descriptors still to fetch take a turn each, in order of index (R266; log entry 77); after a fetch that failed only
the channel's next doorbell fetches again (R256). -/
def fetchTurns (s : State) : State :=
  (s.hst.chans.filter fun e => decide (e.2.state = .open ∧ e.2.fetchPos ≠ e.2.producer ∧ e.2.fetchHeld = false) && (decide (s.dev.state ≠ .safe) || e.1 == 0)).foldl
    (fun st e => fetchNew st e.1) s
/-- One walk of the doorbell bitmap that may make a number of reads, while the host sets bits. -/
def scanBells (reads : Nat) (s : State) : State :=
  let late := s.hst.late
  let x := (fetchTurns { s with hst := { s.hst with late := [] } }, reads)
  if s.dev.state = .safe then (scanSafe x).1
  else
    let r := takeWord late x 0
    ((setBits r.2.2).foldl (scanWord1 late) (r.1, r.2.1)).1
/-- Reads of a whole walk: no walk makes more. -/
def allReads : Nat := 2 ^ 20
/-- DOORBELL_SCAN (R266). -/
def execDoorbellScan (s : State) : Res :=
  if s.hst.scanning && s.canMaster then .next (scanBells allReads s) else .next s

-- Failing reads and bus mastering (R256)

/-- Opcodes whose descriptors read operand data from host memory. -/
def readsHost (d : Line) : Bool :=
  match descOp d with
  | 0x18 | 0x28 | 0x2A | 0x52 | 0x60 => true
  | 0x19 => !bit d 70
  | 0x40 => !bit d 64
  | _ => false
/-- A request to host memory for the descriptor can fail: a read of its data, or the write of a TELEMETRY (R278). -/
def usesHost (d : Line) : Bool := readsHost d || decide (descOp d = 0x31)
/-- DETAIL of a descriptor whose read has failed: a CP_COPY names the unit at which it stood (R277). -/
def readDetail (e : DescEntry) : BitVec 128 :=
  if descOp e.desc = 0x40 then BitVec.ofNat 128 (noUnit.toNat + e.pos * 2 ^ 32) else detUnit noUnit
/-- Ends the first descriptor of a list that is not finished and uses host memory. -/
def failRead (st : Status) (t : W64) : List DescEntry → List DescEntry
  | [] => []
  | e :: es =>
    match e.phase with
    | .done .. | .held _ => e :: failRead st t es
    | _ => if usesHost e.desc then { e with phase := .done st (readDetail e) t } :: es else e :: failRead st t es
/-- A failure of a group before its end: the group stands, its members will complete as aborted (R281, R282). -/
def markGroup (s : State) (ch : Nat) (f : GroupFail) : State :=
  s.modChan ch fun v => { v with group := v.group.map fun g => if g.fail.isSome then g else { g with fail := some f } }
/-- The descriptor that failRead ends. -/
def failsRead (q : List DescEntry) : Option DescEntry :=
  q.find? fun e => match e.phase with
    | .done .. | .held _ => false
    | _ => usesHost e.desc
/-- A PART_LOAD that ends while it runs leaves its partition FREE (R149, R277). -/
def freeLoading (s : State) (e : DescEntry) : State :=
  if descOp e.desc = 0x19 then
    s.modPart (bits e.desc 69 64) fun v => if v.state = .loading then { v with state := .free, plan := none } else v
  else s
/-- The last member of a group that reads host memory, as the named member. -/
def readerOf (ms : List Line) (st : Status) : Option GroupFail :=
  let k := ((natsFrom 0 ms.length).filter fun k => readsHost (ms.getD k 0#512)).getLast?
  k.map fun k => ⟨noUnit, descSeq (ms.getD k 0#512), st, k⟩
/-- A read of host memory has failed (R256): one of the doorbell area ends the scan after the reads that it made. -/
def hostReadFails (s : State) (what : HostRead) (st : Status) : State :=
  match what with
  | .doorbell n => let s := scanBells (min n allReads) s; reportContained s (hearthUnit s 288) st
  | .fetch ch =>
    reportContained (s.modChan ch.val fun v =>
      { v with raw := [], fetchPos := v.fetchPos - BitVec.ofNat 32 v.raw.length, fetchHeld := true }) (hearthUnit s 288) st
  | .data ch _ =>
    let v := s.chanAt ch.val
    match v.group.bind fun g => readerOf g.members st with
    | some f => markGroup s ch.val f
    | none =>
      let s := match failsRead v.q with
        | some e => freeLoading s e
        | none => s
      s.setChan ch.val { v with q := failRead st s.time.now v.q }
/-- The device may read host memory for a purpose. -/
def readsNow (s : State) (what : HostRead) : Bool :=
  s.canMaster && match what with
    | .doorbell _ => s.hst.scanning
    | .fetch ch => !(s.chanAt ch.val).raw.isEmpty
    | .data .. => true
/-- BUS_MASTER_DISABLE (R256). -/
def execBusMasterDisable (s : State) : Res := .next { s with hst := { s.hst with busMaster := false } }
/-- BUS_MASTER_ENABLE (R256). -/
def execBusMasterEnable (s : State) : Res := .next (releaseHeldWrites { s with hst := { s.hst with busMaster := true } })
/-- INTERRUPT_HOLDOFF_EXPIRY (R273). -/
def execInterruptHoldoffExpiry (ch : ChanId) (s : State) : Res :=
  let v := s.chanAt ch.val
  if !v.inHoldoff then .next s
  else if v.irqHeld then
    .next ((raiseVector s v.vector).setChan ch.val { v with irqHeld := false, inHoldoff := decide (v.holdoff ≠ 0) })
  else .next (s.setChan ch.val { v with inHoldoff := false })

-- Entries (R270 to R272)

/-- What a descriptor's work leads to. -/
inductive Eff where
  /-- it has completed with OK and a DETAIL -/
  | ok (s : State) (detail : BitVec 128)
  /-- it ends with another status: the unit concerned, and what DETAIL holds above bytes 0 to 3 -/
  | fail (s : State) (st : Status) (unit : W32) (more : Nat)
  /-- it runs on, with what it has moved so far -/
  | run (s : State) (pos : Nat)
  /-- it cannot start yet -/
  | hold

/-- A failure with no unit concerned. -/
def Eff.no (s : State) (st : Status) : Eff := .fail s st noUnit 0
/-- A plain success. -/
def Eff.done (s : State) : Eff := .ok s 0
/-- DETAIL of a descriptor that fails. -/
def failDetail (unit : W32) (more : Nat) : BitVec 128 := BitVec.ofNat 128 (unit.toNat + more * 2 ^ 32)
/-- Changes the phase of entry i. -/
def setPhase (q : List DescEntry) (i : Nat) (ph : DPhase) (pos : Nat) : List DescEntry :=
  match q, i with
  | [], _ => []
  | e :: es, 0 => { e with phase := ph, pos := pos } :: es
  | e :: es, n + 1 => e :: setPhase es n ph pos
/-- Position of the first entry that meets a condition. -/
def firstEntry (q : List DescEntry) (ok : DescEntry → Bool) : Option Nat := q.findIdx? ok
/-- The entry has started and not completed. -/
def DescEntry.running (e : DescEntry) : Bool :=
  match e.phase with
  | .running => true
  | _ => false
/-- The entry has started and not completed, or waits for other members of its group. -/
def DescEntry.started (e : DescEntry) : Bool :=
  match e.phase with
  | .running | .held _ => true
  | _ => false
/-- The entry waits to start. -/
def DescEntry.waiting (e : DescEntry) : Bool :=
  match e.phase with
  | .ready => true
  | _ => false
/-- Descriptors started and not completed (R276). -/
def Channel.inFlight (v : Channel) : Nat := (v.q.filter DescEntry.started).length
/-- The next descriptor of a channel may start: in SEQ order, one at a time on a MGMT channel, at most 8 elsewhere, and with
FENCE only behind every earlier one (R269, R270). -/
def nextEntry (v : Channel) : Option (Nat × Line) :=
  match firstEntry v.q DescEntry.waiting with
  | none => none
  | some i =>
    match v.q[i]? with
    | none => none
    | some e =>
      let n := v.inFlight
      if (decide (v.kind = 3) || bit e.desc 8) && decide (n > 0) || decide (n ≥ 8) then none else some (i, e.desc)
/-- Runs the next descriptor of a channel when a test names it (R270). -/
def runDesc (s : State) (ch : Nat) (is : Line → Bool) (f : State → Nat → Line → Eff) : State :=
  let v := s.chanAt ch
  match nextEntry v with
  | none => s
  | some (i, d) =>
    if !is d then s
    else
      let put := fun (st : State) (ph : DPhase) (pos : Nat) => st.modChan ch fun v => { v with q := setPhase v.q i ph pos }
      match f s ch d with
      | .ok s' det => put s' (.done .ok det s'.time.now) 0
      | .fail s' st unit more => put s' (.done st (failDetail unit more) s'.time.now) 0
      | .run s' pos => put s' .running pos
      | .hold => s
/-- The completion record of a finished entry (R271). -/
def entryRecord (e : DescEntry) (st : Status) (det : BitVec 128) (t : W64) : CRec :=
  { seq := descSeq e.desc, status := st.code, inGroup := e.inGroup, opcode := descOp e.desc, time := t,
    tag := if e.inGroup then BitVec.ofNat 16 (bits e.desc 31 16) else 0, detail := det }
/-- The committed group at the head of a channel's entries: up to its GROUP_END. -/
def headGroup : List DescEntry → List DescEntry
  | [] => []
  | e :: es => if !e.inGroup then [] else if bit e.desc 11 then [e] else e :: headGroup es
/-- The head of the entries is a member of a committed group. -/
def headCommitted (q : List DescEntry) : Bool :=
  match q with
  | [] => false
  | e :: _ => e.inGroup && (match e.phase with
    | .done st _ _ => decide (st ≠ .groupAborted)
    | _ => true)
/-- An entry of a group whose members have all ended completes at a time. -/
def DescEntry.joined (t : W64) (e : DescEntry) : DescEntry :=
  match e.phase with
  | .held det => { e with phase := .done .ok det t }
  | .done st det _ => { e with phase := .done st det t }
  | _ => e
/-- When the last member of a group ended. -/
def lastEnd (q : List DescEntry) : W64 :=
  q.foldl (fun t e => match e.phase with
    | .done _ _ u => if t.toNat < u.toNat then u else t
    | _ => t) 0
/-- Every member of a committed group completes with the same TIME, once none of them runs (R281): the entries, or none while the group
at their head waits. -/
def settleHead (q : List DescEntry) : Option (List DescEntry) :=
  if !headCommitted q then some q
  else
    let g := headGroup q
    if g.any DescEntry.running then none else some (g.map (DescEntry.joined (lastEnd g)) ++ q.drop g.length)
/-- Writes the completion records of finished entries in SEQ order, as far as the ring has room (R270, R272). -/
def writeDone : Nat → State → Nat → State
  | 0, s, _ => s
  | n + 1, s, ch =>
    let v := s.chanAt ch
    match settleHead v.q with
    | none | some [] => s
    | some (e :: es) =>
      match e.phase with
      | .done st det t =>
        if v.freeEntries = 0 then s
        else
          let s := s.setChan ch { v with q := es, completed := v.completed + 1 }
          let s := putRecord s ch (entryRecord e st det t)
          writeDone n (if bit e.desc 9 then raiseChannel s ch else s) ch
      | _ => s

end Sys2Proof.Machine
end

