-- ==== Sys2Proof/Machine/Power.lean ====
section
/-! DEFINITION. Rails, phases, bypass, droop, damper and cap loop: the commands of chapter 12, but for admissions. -/

namespace Sys2Proof.Machine

-- Limits (R332, R334, R336, R359)

/-- Current limit of a tier's VCT group from its phases, or 150 A on bypass. -/
def TierPwr.phaseLim (v : TierPwr) : Nat := if v.bypass then 150 else if v.failed then 0 else 10 * (48 - v.badVct.length)
/-- I_LIM in force: the lower of the phase limit and the thermal limit (R359); behind THERMTRIP every group is open (R360). -/
def State.ilim (s : State) (t : Nat) : Nat := if s.thm.thermtrip then 0 else min (s.pwrAt t).phaseLim (s.pwrAt t).thermalLim
/-- Limit of a tier's VDL group; none behind THERMTRIP (R360). -/
def State.vdlLim (s : State) (t : Nat) : Nat := if s.thm.thermtrip then 0 else 10 * (24 - (s.pwrAt t).badVdl.length)
/-- IVR group unit of a tier (R22). -/
def ivrUnit (s : State) (t : Nat) : W32 := hearthUnit s (272 + t)
/-- Tiers on bypass or on their way to it. -/
def bypassCount (s : State) : Nat :=
  ((natsFrom 0 8).filter fun t => (s.pwrAt t).bypass || (s.clkAt t).toBypass).length

-- Group failure (R335, R337, R341)

/-- Some core of a partition lies in a tier. -/
def Partition.inTier (v : Partition) (t : Nat) : Bool := v.cores.any fun c => decide (tierOf c = t)
/-- One partition's end for want of power: its record, and FAILED where it holds a plan. -/
def powerFailPart (s : State) (t action p : Nat) : State :=
  match s.part? p with
  | some v =>
    if !v.inTier t then s
    else
      let r : Report :=
        { unit := ivrUnit s t, status := Status.powerDenied.code, cls := .partitionFatal, action := action, part := some p }
      match v.state with
      | .free => report s r
      | .loading => report (s.modPart p fun v => { v with state := .free }) r
      | _ => report (failPartition s p) r
  | none => s
/-- The layer's clock stops at once, its quadrants go off, and every partition with a core in the tier fails (R335, R341). -/
def stopLayer (s : State) (t action : Nat) : State :=
  let s := (stopClock s t).modClk t fun k => { k with target := none, toBypass := false }
  let s := s.modPwr t fun v => { v with quads := [], queue := v.queue.filter fun a => decide (a.kind = .nbu) }
  (s.part.map Prod.fst).foldl (fun st p => powerFailPart st t action p) s
/-- The third row of R335: the group fails without bypass. -/
def failGroup (s : State) (t : Nat) : State :=
  checkDegraded (stopLayer (s.modPwr t fun v => { v with failed := true, bypass := false }) t 3)
/-- The move to bypass (R336): FLOOR becomes code 3, and a step that is never withdrawn is requested. -/
def moveToBypass (s : State) (t : Nat) : State :=
  let s := s.modClk t fun k => { k with floorBypass := 3, target := some (max 3 (k.target.getD k.cur)), toBypass := true }
  checkDegraded (report s { unit := ivrUnit s t, status := 0, cls := .contained, action := 3 })
/-- A phase newly listed as failed waits for 40 A again in the tier's admission under way (R339). -/
def admitAgain (v : TierPwr) : TierPwr :=
  { v with queue := v.queue.map fun a =>
      match mget v.quads a.target QState.off with
      | .powering _ => if a.kind = .compute then { a with again := true } else a
      | _ => a }
/-- The CORRECTED record of a failed phase (R334). -/
def phaseRecord (s : State) (t phase : Nat) : State :=
  report s { unit := ivrUnit s t, status := 0, cls := .corrected, detail := detLoc phase 0 }
/-- A VCT phase fails (R334, R335). -/
def vctPhaseFails (s : State) (t phase : Nat) : State :=
  let v := s.pwrAt t
  if phase ∈ v.badVct || v.failed then s
  else
    let s := phaseRecord (s.modPwr t fun v => admitAgain { v with badVct := v.badVct ++ [phase] }) t phase
    if v.bypass || (s.clkAt t).toBypass || decide (v.badVct.length < 8) then s
    else if s.pwr.vbypOk && decide (bypassCount s < 4) then moveToBypass s t
    else failGroup s t
/-- A VDL or VDA group fails as a whole (R337). -/
def dramRailFails (s : State) (t : Nat) : State :=
  let s := { s with pwr := { s.pwr with dramRailFailed := true }, memc := { s.memc with lost := insertNat t s.memc.lost } }
  enterSafe s { unit := ivrUnit s t, status := 0, cls := .deviceFatal, action := 4 }
/-- IVR_PHASE_FAILURE (R334 to R337). -/
def execIvrPhaseFailure (t : TierId) (r : Rail) (phase : Fin 48) (s : State) : Res :=
  if !phaseOk r phase.val then .fault .malformedCommand
  else
    let v := s.pwrAt t.val
    match r with
    | .vct => .next (vctPhaseFails s t.val phase.val)
    | .vdl =>
      if phase.val ∈ v.badVdl then .next s
      else
        let s := phaseRecord (s.modPwr t.val fun v => { v with badVdl := v.badVdl ++ [phase.val] }) t.val phase.val
        if v.badVdl.length = 8 then .next (dramRailFails s t.val) else .next s
    | .vda =>
      if phase.val ∈ v.badVda then .next s
      else
        let s := phaseRecord (s.modPwr t.val fun v => { v with badVda := v.badVda ++ [phase.val] }) t.val phase.val
        if v.badVda.length = 2 then .next (dramRailFails s t.val) else .next s

-- Power regions (R338)

/-- A core lies in a quadrant of a tier. -/
def inQuad (t q c : Nat) : Bool := decide (tierOf c = t) && decide (quadOf c = q)
/-- The outcome of a request to switch a power region off. -/
def regionOffOut (s : State) (st : Status) : State := { s with out := { s.out with regionOff := some st } }
/-- POWER_REGION_OFF (R157, R338): with a route in a router of the region the request completes with TRANSIT_BUSY; with a core of it
in a partition nothing is asked. -/
def execPowerRegionOff (t : TierId) (q : QuadId) (s : State) : Res :=
  if s.routes.any fun r => inQuad t.val q.val r.core then .next (regionOffOut s .transitBusy)
  else if (s.part.any fun e => e.2.cores.any (inQuad t.val q.val)) || decide (mget (s.pwrAt t.val).quads q.val QState.off ≠ .on) then .next s
  else .next (regionOffOut (s.modPwr t.val fun v => { v with quads := mdel v.quads q.val }) .ok)

-- Droop (R341)

/-- Stretch level of a droop below set-point, by the thresholds in force. -/
def droopLevel (s : State) (mv : Nat) : Nat := if mv > s.pwr.deepNow then 2 else if mv > s.pwr.droopNow then 1 else 0
/-- DROOP_TRIP (R341). -/
def execDroopTrip (t : TierId) (mv : Nat) (s : State) : Res :=
  let l := droopLevel s mv
  if l = 0 then .next s
  else .next (s.modPwr t.val fun v => { v with stretch := max v.stretch l, droopTrips := v.droopTrips + 1 })
/-- DROOP_RELAX (R341): one level less. -/
def execDroopRelax (t : TierId) (s : State) : Res := .next (s.modPwr t.val fun v => { v with stretch := v.stretch - 1 })
/-- DROOP_FAILURE (R341). -/
def execDroopFailure (t : TierId) (s : State) : Res := .next (stopLayer s t.val 0)

-- The damper and the cap loop (R342 to R346)

/-- The device budget in force: assigned or DEV_CAP_W, lowered for a hot hearth (R346, R359). -/
def State.budgetNow (s : State) : Nat := s.pwr.budget * (100 - s.thm.hearthCut) / 100
/-- Sum of the non-zero partition caps. -/
def partSum (s : State) : Nat := s.part.foldl (fun a e => a + e.2.capW) 0
/-- A capped partition's target: its cap, scaled when the budget is below the sum of caps, less its integral (R344, R346). -/
def partTarget (s : State) (p capW : Nat) : Int :=
  let cap := if s.budgetNow < partSum s then capW * s.budgetNow / partSum s else capW
  (cap : Int) - mget s.pwr.partInt p 0
/-- min(48, ⌈gain × excess⌉) of an excess in watts, with GAIN in 1/256 (R342). -/
def bubblesOf (gain : Nat) (excess : Int) : Nat := if excess ≤ 0 then 0 else min 48 (cdiv (gain * excess.toNat) 256)
/-- Bubbles of the tier-current term: at least a gain of 0.25 (R342, R352); excess (I_meas − I_LIM) × VCT. -/
def currentBubbles (s : State) (t : Nat) : Nat :=
  let v := s.pwrAt t
  let g := max 64 s.pwr.gain
  if v.amps ≤ s.ilim t then 0 else min 48 (cdiv (g * (v.amps - s.ilim t) * v.setpoint) 256000)
/-- Bubbles of the admission of a kind that is under way in a tier. -/
def admitBubbles (v : TierPwr) (k : AdmitKind) : Nat :=
  match v.queue.find? fun a => decide (a.kind = k) with
  | some a => a.bubbles
  | none => 0
/-- Admission bubbles of a core: a compute admission damps the tier's ON quadrants (R339), that of an NBU region the cores whose home
regions are in COMPUTE, whose NBUs follow them (R340, R342). -/
def admissionOf (s : State) (c : Nat) : Nat :=
  let v := s.pwrAt (tierOf c)
  max (if mget v.quads (quadOf c) QState.off = .on then admitBubbles v .compute else 0)
    (if (s.regionAt c).mode = .compute then admitBubbles v .nbu else 0)
/-- Estimate of a core and its home region in a period, mW: their activity, weighted by the fused coefficients, and their leakage at
their temperatures (R343). -/
def coreEstimate (s : State) (activity : List Nat) (c : Nat) : Nat :=
  let z := zoneOf c
  activity.getD c 0 +
    Config.leakage c (mget (s.layerAt (2 * tierOf c + 2)).sensor z 0) (mget (s.layerAt (2 * tierOf c + 1)).sensor z 0)
/-- Sum of the estimates of a partition's cores, mW before scaling. -/
def Partition.rawMw (v : Partition) (m : SMap Nat) : Nat := v.cores.foldl (fun a c => a + mget m c 0) 0
/-- Scaled estimate of a partition in the last period, in whole watts (R343; log entry 21). -/
def partEstimate (s : State) (v : Partition) : Nat :=
  (roundInt ((v.rawMw s.pwr.coreMw * s.pwr.scale.1 : Nat)) (1000 * s.pwr.scale.2)).toNat
/-- Bubbles of a core, from the powers of the period, with each capped partition's estimate by ID (R342). -/
def coreBubblesOf (s : State) (est : SMap Nat) (c : Nat) : Nat :=
  let dev := bubblesOf s.pwr.gain ((s.pwr.p1us : Int) - ((s.budgetNow : Int) - s.pwr.devInt))
  let prt := match s.ownerOf c with
    | some p => match s.part? p with
      | some v => if v.capW = 0 then 0 else bubblesOf s.pwr.gain ((mget est p 0 : Nat) - partTarget s p v.capW)
      | none => 0
    | none => 0
  max (max dev prt) (max (currentBubbles s (tierOf c)) (admissionOf s c))
/-- Highest bubble count in force in a tier (PWR_TIERt.BUBBLES). -/
def tierBubbles (s : State) (t : Nat) : Nat :=
  s.pwr.coreBubbles.foldl (fun a e => if tierOf e.1 = t then max a e.2 else a) 0
/-- The tier draws more than the limit of its remaining phases although its damper inserts 48 bubbles (R334, R335). -/
def overRemaining (s : State) (t : Nat) : Bool :=
  decide (48 ≤ tierBubbles s t) && decide ((s.pwrAt t).phaseLim < (s.pwrAt t).amps)
/-- TIER_OVERCURRENT_TIMEOUT (R335). -/
def execTierOvercurrentTimeout (t : TierId) (s : State) : Res :=
  if (s.pwrAt t.val).failed || !overRemaining s t.val then .next s else .next (failGroup s t.val)
/-- Adds the period's counts to the tiers' sums (R345). -/
def sumBubbles (s : State) : State :=
  let m := (natsFrom 0 8).foldl (fun (m : SMap (Nat × Nat)) t =>
    let old := mget m t (0, 0)
    mput m t (old.1 + tierBubbles s t, old.2 + 1)) s.pwr.bubbleSum
  { s with pwr := { s.pwr with bubbleSum := m } }
/-- Takes a period's estimates of the cores, and adds them to the sums of their partitions (R343). -/
def takeEstimates (s : State) (activity : List Nat) : State :=
  let m := (natsFrom 0 2048).foldl (fun (m : SMap Nat) c => mset m c (coreEstimate s activity c) 0) []
  { s with pwr := { s.pwr with
      coreMw := m, estN := s.pwr.estN + 1,
      estSum := s.part.foldl (fun (a : SMap Nat) e => mset a e.1 (mget a e.1 0 + e.2.rawMw m) 0) s.pwr.estSum } }
/-- The bubbles of every core in a period (R342). -/
def setBubbles (s : State) : State :=
  let est := s.part.map fun e => (e.1, partEstimate s e.2)
  { s with pwr := { s.pwr with coreBubbles := (natsFrom 0 2048).filterMap fun c =>
      let n := coreBubblesOf s est c
      if n = 0 then none else some (c, n) } }
/-- DAMPER_UPDATE (R342, R343): the VIN power, the tiers' currents, and each core's activity in mW; what has been written to PWR_DAMPER
is in force from this period on (R352). -/
def execDamperUpdate (p1us : Nat) (amps activity : List Nat) (s : State) : Res :=
  if !damperOk amps activity then .fault .malformedCommand
  else
    let s := { s with pwr := { s.pwr with p1us := p1us, droopNow := s.pwr.droopMv, deepNow := s.pwr.deepMv } }
    let s := (natsFrom 0 8).foldl (fun st t => st.modPwr t fun v => { v with amps := amps.getD t 0 }) s
    .next (sumBubbles (setBubbles (takeEstimates s activity)))

/-- The integral of an excess, not below zero (log entry 21). -/
def integrate (acc : Nat) (excess : Int) : Nat := ((acc : Int) + excess).toNat
/-- Sums of the newest n entries of a history, when it holds as many. -/
def lastMs (h : List (Nat × Nat)) (n : Nat) : Option (Nat × Nat) :=
  if h.length < n then none else some ((h.take n).foldl (fun a e => (a.1 + e.1, a.2 + e.2)) (0, 0))
/-- The step that a tier's bubble average asks for (R345). -/
def stepByBubbles (s : State) (t : Nat) : State :=
  let h := mget s.pwr.bubbleMs t []
  let k := s.clkAt t
  let slow := match lastMs h 8 with
    | some (a, n) => decide (a > 16 * n)
    | none => false
  let fast := match lastMs h 64 with
    | some (a, n) => decide (a < 2 * n) && decide (100 * s.pwr.p10ms ≤ 95 * s.budgetNow)
    | none => false
  if slow then requestStep s t (k.cur + 1)
  else if fast && decide (k.cur > 0) then requestStep s t (k.cur - 1)
  else s
/-- The scale under which the partitions' estimates of the ms, with the power of the hearth and of the regions that no partition owns,
sum to the measured VIN power (R343). -/
def rescale (s : State) (p1ms restW : Nat) : State :=
  let total := s.part.foldl (fun a e => a + mget s.pwr.estSum e.1 0) 0
  if total = 0 then s
  else { s with pwr := { s.pwr with scale := ((p1ms - restW) * 1000 * s.pwr.estN, total) } }
/-- Scaled estimate of a partition over the ms, in whole watts. -/
def partMsEstimate (s : State) (p : Nat) : Nat :=
  (roundInt ((mget s.pwr.estSum p 0 * s.pwr.scale.1 : Nat)) (1000 * s.pwr.scale.2 * max 1 s.pwr.estN)).toNat
/-- The integrals by which the targets lie below their caps (R344). -/
def integrateCaps (s : State) : State :=
  { s with pwr := { s.pwr with
      devInt := integrate s.pwr.devInt ((s.pwr.p1ms : Int) - s.budgetNow),
      partInt := s.part.foldl (fun (m : SMap Nat) e =>
        mset m e.1 (if e.2.capW = 0 then 0
          else integrate (mget m e.1 0) ((partMsEstimate s e.1 : Int) - (e.2.capW : Int))) 0) s.pwr.partInt } }
/-- The sums of a ms are closed: the bubble history of every tier moves on by one ms (R345). -/
def closeMs (s : State) : State :=
  { s with pwr := { s.pwr with
      estSum := [], estN := 0, bubbleSum := [],
      bubbleMs := (natsFrom 0 8).foldl (fun (m : SMap (List (Nat × Nat))) t =>
        mput m t ((mget s.pwr.bubbleSum t (0, 0) :: mget m t []).take 64)) s.pwr.bubbleMs } }
/-- CAP_LOOP (R343 to R345): the measured averages, the scale of the estimates, the integrals of the targets, and steps by bubbles;
`restW` is the power of the hearth and of the regions that no partition owns. -/
def execCapLoop (p1ms p10ms vinMv restW : Nat) (s : State) : Res :=
  let s := { s with pwr := { s.pwr with p1ms := p1ms, p10ms := p10ms, vinMv := vinMv } }
  .next ((natsFrom 0 8).foldl stepByBubbles (closeMs (integrateCaps (rescale s p1ms restW))))

-- Rails out of range (R350, R436)

/-- VIN_LOW (R350). -/
def execVinLow (s : State) : Res := .next { s with pwr := { s.pwr with vinLow := true } }
/-- VIN_UNDERVOLTAGE (R350): SAFE. The record names management core 0, as the rule names no unit (log entry 22). -/
def execVinUndervoltage (s : State) : Res :=
  .next (enterSafe s { unit := hearthUnit s 256, status := 0, cls := .deviceFatal })
/-- What flash keeps of a tier's ageing: the refit of its voltage-frequency table (R366, R402). -/
def Ageing.kept (a : Ageing) : Ageing := { a with guards := [], hours := 0 }
/-- The device without power (R350): nothing is kept but what fuses, flash and the board hold, and the records whose signature the next
start writes (R381; log entry 93). What a failed write of flash left in hearth SRAM alone is lost (R427). -/
def powerOff (s : State) : State :=
  let log := if s.ras.flashPending then s.ras.stored else s.flashLog
  let kept := { log with ageing := log.ageing.map fun e => (e.1, e.2.kept) }
  { State.reset with
    pending := s.pending, free := s.free, hostMem := s.hostMem, flash := s.flash, fuse := s.fuse, land := s.land, out := s.out,
    pins := { pwrOk := s.pins.pwrOk, perst := s.pins.perst, fault := s.pins.fault, offHold := false },
    dev := { State.reset.dev with state := .off },
    sec := { State.reset.sec with licences := s.sec.licences },
    thm := { State.reset.thm with poweredHours := kept.poweredHours, ageing := kept.ageing },
    ras := { State.reset.ras with
      sigs := kept.sigs, quar := kept.quar, faultyLines := kept.faultyLines, disabledLog := kept.disabledLog, stored := kept,
      sigDue := s.ras.sigDue } }
/-- PWR_OK_FALL (R350): OFF. -/
def execPwrOkFall (s : State) : Res :=
  let s := powerOff s
  .next { s with pins := { s.pins with pwrOk := false } }
/-- VBYP_OUT_OF_RANGE (R436). -/
def execVbypOutOfRange (s : State) : Res :=
  let on := (natsFrom 0 8).filter fun t => (s.pwrAt t).bypass || (s.clkAt t).toBypass
  .next (on.foldl failGroup { s with pwr := { s.pwr with vbypOk := false } })
/-- VSD_OUT_OF_RANGE (R436): SAFE, with the Muold ports and the PCIe link down. -/
def execVsdOutOfRange (s : State) : Res :=
  let s := enterSafe s { unit := hearthUnit s 256, status := 0, cls := .deviceFatal }
  .next { s with hst := s.hst.unconfigured }
/-- VHE_VAUX_OUT_OF_RANGE (R436): OFF until PWR_OK falls and rises, FAULT# held low, no record; the sampled straps are kept
while PWR_OK is high (R432), and so is THERMTRIP# (R360). -/
def execVheVauxOutOfRange (s : State) : Res :=
  if !s.pins.pwrOk then .next s
  else
    let t := powerOff s
    .next { t with
      strap := s.strap, pins := { t.pins with fault := true, offHold := true }, thm := { t.thm with thermtrip := s.thm.thermtrip } }

end Sys2Proof.Machine
end

