-- ==== Sys2Proof/Machine/DescOps.lean ====
section
/-! DEFINITION. Descriptors (R269 to R277): their operand fields and checks, what a commit group reserves, and the opcodes that
act on channels, queries, caps, telemetry and reset. Each opcode has one effect, which a channel's own row and a commit group
share. -/

namespace Sys2Proof.Machine

-- Operand fields (R275)

/-- Operand bits that an opcode lists, as high and low bits; none for a reserved opcode. -/
def descFields (op : Nat) : Option (List (Nat × Nat)) :=
  match op with
  | 0x00 => some []
  | 0x10 => some [(92, 64), (271, 96)]
  | 0x11 => some [(95, 64)]
  | 0x12 => some [(127, 64)]
  | 0x13 => some [(95, 64)]
  | 0x18 => some [(69, 64), (191, 128)]
  | 0x19 => some [(70, 64), (255, 128)]
  | 0x1A => some [(69, 64), (74, 72)]
  | 0x1B | 0x1C | 0x1D => some [(69, 64)]
  | 0x20 => some [(74, 64), (77, 76)]
  | 0x21 => some [(75, 64), (191, 128)]
  | 0x22 => some [(74, 64)]
  | 0x28 => some [(207, 128)]
  | 0x2A => some [(69, 64), (223, 128)]
  | 0x30 => some [(70, 64), (95, 80)]
  | 0x31 => some [(75, 64), (191, 128)]
  | 0x38 => some [(191, 128), (447, 192)]
  | 0x3F => some [(95, 64)]
  | 0x40 => some [(65, 64), (255, 96)]
  | 0x41 => some [(255, 96)]
  | 0x50 => some [(77, 64), (102, 80), (109, 104), (115, 110), (186, 128)]
  | 0x51 => some [(71, 64)]
  | 0x52 => some [(74, 64), (87, 76), (191, 128)]
  | 0x53 => some [(74, 64), (116, 96)]
  | 0x54 => some [(100, 64), (191, 128)]
  | 0x60 | 0x61 => some [(69, 64), (111, 96), (191, 128)]
  | _ => none
/-- Every reserved bit of a descriptor is zero (R8, R269, R270), and its opcode is listed (R274). -/
def descReservedOk (d : Line) : Bool :=
  match descFields (descOp d) with
  | some fs => decide (d &&& ~~~fieldMask ((11, 0) :: (63, 16) :: fs) = 0)
  | none => false
/-- A channel kind accepts an opcode (R274). -/
def kindAccepts (kind op : Nat) : Bool :=
  match op with
  | 0x00 => true
  | 0x20 => decide (kind = 2 ∨ kind = 3)
  | 0x40 | 0x41 => decide (kind = 1 ∨ kind = 2)
  | 0x60 | 0x61 => decide (kind = 0)
  | _ => if 0x50 ≤ op then decide (kind = 2) else decide (kind = 3)
/-- An opcode may be a member of a commit group (R274). -/
def groupable (op : Nat) : Bool :=
  match op with
  | 0x00 | 0x10 | 0x11 | 0x18 | 0x19 | 0x1A | 0x1B | 0x20 | 0x28 | 0x2A | 0x30 | 0x50 | 0x51 | 0x52 | 0x53 => true
  | _ => false
/-- PARTITION of a descriptor that names one. -/
def descPart (d : Line) : Nat := bits d 69 64
/-- CORE of a descriptor. -/
def descCore (d : Line) : Nat := bits d 74 64
/-- The 64-bit operand at bits [191:128]. -/
def descAddr (d : Line) : Nat := bits d 191 128
/-- The 64-bit operand at bits [255:192]. -/
def descAddr2 (d : Line) : Nat := bits d 255 192
/-- HANDLE. -/
def descHandle (d : Line) : Nat := bits d 95 64

/-- What a descriptor's effect needs to know: the channel, and whether it takes effect in a commit group. -/
structure DescEnv where
  ch : Nat
  grp : Bool

-- Reservation by commit groups (R281)

/-- Objects that a descriptor names and would change: partition IDs (kind 0), channel indices (1), contexts (2) and region controllers
(3). -/
def objectsOf (d : Line) : List (Nat × Nat) :=
  match descOp d with
  | 0x11 | 0x12 => [(1, descHandle d % 2 ^ 18)]
  | 0x18 | 0x19 | 0x1A | 0x1B | 0x1D | 0x2A => [(0, descPart d)]
  | 0x30 => if bit d 70 then [] else [(0, descPart d)]
  | 0x20 => [(3, descCore d)]
  | 0x50 | 0x51 | 0x53 => [(2, bits d 71 64)]
  | 0x52 => [(3, descCore d)]
  | _ => []
/-- Contexts that the entries of a KV_PTE name. -/
def pteContexts (s : State) (d : Line) : List Nat :=
  (natsFrom 0 (bits d 87 76)).foldl (fun a k =>
    let e := BitVec.ofNat 128 (rdNat s.hostMem (descAddr d + 32 * k + 16) 16)
    if pteState e = 0 then a else addOnce a (pteCtx e)) []
/-- Objects that a member of a group names (R281): those it would change, the partition of a COMPUTE channel or of a context, and the
contexts of page-table entries. -/
def namesOf (s : State) (d : Line) : List (Nat × Nat) :=
  objectsOf d ++ match descOp d with
  | 0x10 => if bits d 65 64 = 0 then [(0, bits d 71 66)] else []
  | 0x50 => [(0, bits d 77 72)]
  | 0x52 => (pteContexts s d).map fun c => (2, c)
  | _ => []
/-- Region controllers of a partition's cores. -/
def regionsIn (s : State) (p : Nat) : List (Nat × Nat) := ((s.part? p).map fun v => v.cores.map fun c => (3, c)).getD []
/-- Objects that a descriptor would change: those that it names, and the region controllers whose table, mirror or mode follows. -/
def changesOf (s : State) (d : Line) : List (Nat × Nat) :=
  objectsOf d ++ match descOp d with
  | 0x19 | 0x1B => regionsIn s (descPart d)
  | 0x1A => if bits d 74 72 = 3 then regionsIn s (descPart d) else []
  | 0x50 => regionsIn s (bits d 77 72)
  | 0x51 => ((mget? s.kv.ctxs (bits d 71 64)).map fun x => regionsIn s x.part).getD []
  | _ => []
/-- Objects reserved to the open group of a channel. -/
def reservedOf (s : State) (v : Channel) : List (Nat × Nat) :=
  match v.group with
  | some g => if g.fail.isSome then [] else g.members.flatMap (namesOf s)
  | none => []
/-- Another channel's group has reserved one of some objects. -/
def heldElsewhere (s : State) (ch : Nat) (os : List (Nat × Nat)) : Bool :=
  !os.isEmpty && s.hst.chans.any fun e => decide (e.1 ≠ ch) && (reservedOf s e.2).any os.contains
/-- A descriptor would change an object that another channel's group has reserved. -/
def reservedElsewhere (s : State) (ch : Nat) (d : Line) : Bool := heldElsewhere s ch (changesOf s d)

/-- A descriptor row: the next descriptor of the channel runs when it has the opcode. Reads of host memory wait for bus mastering
(R256), and reserved objects refuse (R281). -/
def descRow (s : State) (ch op : Nat) (also : Line → Bool) (f : State → DescEnv → Line → Eff) : State :=
  runDesc s ch (fun d => decide (descOp d = op) && also d) fun st c d =>
    if reservedElsewhere st c d then Eff.no st .stateConflict
    else if readsHost d && !st.canMaster then .hold
    else f st ⟨c, false⟩ d
/-- Every descriptor of an opcode. -/
def anyDesc : Line → Bool := fun _ => true

-- NOP

/-- NOP (R274). -/
def nopEff (s : State) (_ : DescEnv) (_ : Line) : Eff := Eff.done s
/-- NOP as a row. -/
def execNop (ch : ChanId) (s : State) : Res := .next (descRow s ch.val 0x00 anyDesc nopEff)

-- Channels (R260, R262, R277)

/-- Lowest index of 1 or above that is in CLOSED (R260). -/
def lowestClosed (s : State) : Option Nat :=
  (natsFrom 1 (s.hst.chans.length + 1)).find? fun k => decide (k < 262144) && !(s.chanAt k).live
/-- The generation after another (R260). -/
def nextGen (g : Nat) : Nat := if g ≥ 16383 then 1 else g + 1
/-- Operands of CH_CREATE lie in their ranges (R275, R277). -/
def createOk (d : Line) : Bool :=
  let r := fun v => decide (6 ≤ v ∧ v ≤ 16)
  r (bits d 76 72) && r (bits d 81 77) && decide (descAddr d % 64 = 0) && decide (descAddr2 d % 64 = 0) &&
    (decide (bits d 65 64 = 0) || decide (bits d 71 66 = 0))
/-- CH_CREATE (R260, R277). -/
def chCreateEff (s : State) (_ : DescEnv) (d : Line) : Eff :=
  let kind := bits d 65 64
  if !createOk d then Eff.no s .badDescriptor
  else if kind = 0 ∧ (s.part? (bits d 71 66)).isNone then Eff.no s .stateConflict
  else
    match lowestClosed s with
    | none => Eff.no s .noFit
    | some k =>
      let gen := nextGen (s.chanAt k).gen
      let s := s.setChan k { Channel.closed0 with
        state := .open, kind := kind, part := bits d 71 66, gen := gen, sqBase := BitVec.ofNat 64 (descAddr d),
        cqBase := BitVec.ofNat 64 (descAddr2 d), sqLog2 := bits d 76 72, cqLog2 := bits d 81 77, vector := bits d 92 82,
        holdoff := bits d 271 256, nextSeq := BitVec.ofNat 32 (bits d 127 96) }
      .ok s (BitVec.ofNat 128 (k + gen * 2 ^ 18))
/-- CH_CREATE as a row. -/
def execChCreate (ch : ChanId) (s : State) : Res := .next (descRow s ch.val 0x10 anyDesc chCreateEff)

/-- The channel that a handle names, unless it is stale (R260). -/
def handleChan (s : State) (h : Nat) : Option Nat :=
  let k := h % 2 ^ 18
  let v := s.chanAt k
  if v.live && decide (v.gen = h / 2 ^ 18 % 2 ^ 14) then some k else none
/-- Opcodes that CH_DESTROY ends at their next 4 KiB boundary (R262). -/
def endsAtClose (op : Nat) : Bool := op == 0x40 || op == 0x41 || op == 0x54 || op == 0x60 || op == 0x61
/-- The entry ends when its channel closes: not started, or one of the transfers of R262. -/
def closesEntry (e : DescEntry) : Bool := e.waiting || endsAtClose (descOp e.desc)
/-- No NBU write of a channel waits any longer. -/
def dropWaits (s : State) (ch : Nat) : State :=
  { s with region := mall s.region Region.empty fun r =>
      { r with nbus := mall r.nbus Nbu.empty fun u => if u.waitDesc = some ch then { u with waitDesc := none } else u } }
/-- A channel enters CLOSING (R262). -/
def closeChannel (s : State) (k : Nat) (closer : Option Nat) : State :=
  let s := joinFetched s k
  let s := abortGroup s k (lastMember (groupMembers s k) .resetAborted)
  let s := s.modChan k fun v => { v with
    state := .closing, closer := closer,
    q := endEntries closesEntry .resetAborted s.time.now v.q ++ v.raw.map (fun d => ⟨d, .done .resetAborted (detUnit noUnit) s.time.now, false, 0⟩),
    raw := [] }
  deliverSigs (settlePaths (dropWaits s k))
/-- CH_DESTROY (R262). -/
def chDestroyEff (s : State) (e : DescEnv) (d : Line) : Eff :=
  match handleChan s (descHandle d) with
  | none => Eff.no s .badHandle
  | some k =>
    if k = 0 ∨ k = e.ch ∨ (s.chanAt k).state = .closing then Eff.no s .stateConflict
    else .run (closeChannel s k (some e.ch)) 0
/-- CH_DESTROY as a row. -/
def execChDestroy (ch : ChanId) (s : State) : Res := .next (descRow s ch.val 0x11 anyDesc chDestroyEff)
/-- A CH_DESTROY of a channel. -/
def isDestroyOf (k : Nat) (d : Line) : Bool := decide (descOp d = 0x11) && decide (descHandle d % 2 ^ 18 = k)
/-- CHANNEL_CLOSE_COMPLETE (R262): the last completion record has been written. -/
def execChannelCloseComplete (ch : ChanId) (s : State) : Res :=
  let k := ch.val
  let s := writeDone ((s.chanAt k).q.length + 1) s k
  let v := s.chanAt k
  if v.state ≠ .closing || !v.q.isEmpty then .next s
  else
    let t := s.setChan k { Channel.closed0 with gen := v.gen }
    match v.closer with
    | some c => .next (finishDesc t c (isDestroyOf k) .ok 0)
    | none => .next t

/-- CH_RESUME (R261, R274): the channel leaves a stall that only it ends. -/
def chResumeEff (s : State) (_ : DescEnv) (d : Line) : Eff :=
  match handleChan s (descHandle d) with
  | none => Eff.no s .badHandle
  | some k =>
    let v := s.chanAt k
    match v.state with
    | .stalledSeq | .stalledProducer =>
      let st := if v.freeEntries = 0 then ChState.stalledCq else .open
      let next := BitVec.ofNat 32 (bits d 127 96) - BitVec.ofNat 32 v.raw.length
      let s := deliverSigs (s.setChan k { v with state := st, nextSeq := next })
      Eff.done (if k = 0 then drainEvents 257 s else s)
    | _ => Eff.no s .stateConflict
/-- CH_RESUME as a row. -/
def execChResume (ch : ChanId) (s : State) : Res := .next (descRow s ch.val 0x12 anyDesc chResumeEff)

/-- STATE and STALL of a channel (R276). -/
def chanCodes (st : ChState) : Nat × Nat :=
  match st with
  | .open => (0, 0) | .stalledCq => (1, 1) | .stalledSeq => (1, 2) | .stalledProducer => (1, 3) | .closing => (2, 0)
  | .closed => (3, 0)
/-- The channel status word (R276); a query that names its own channel is itself in flight. -/
def chanWord (s : State) (k asker : Nat) : Nat :=
  let v := s.chanAt k
  let c := chanCodes v.state
  c.1 + v.kind * 4 + c.2 * 16 + v.part * 256 + (v.inFlight + b2n (k == asker)) * 2 ^ 16 +
    (v.nextSeq + BitVec.ofNat 32 v.raw.length).toNat * 2 ^ 32
/-- CH_QUERY (R276). -/
def chQueryEff (s : State) (e : DescEnv) (d : Line) : Eff :=
  match handleChan s (descHandle d) with
  | none => Eff.no s .badHandle
  | some k => .ok s (BitVec.ofNat 128 (chanWord s k e.ch))
/-- CH_QUERY as a row. -/
def execChQuery (ch : ChanId) (s : State) : Res := .next (descRow s ch.val 0x13 anyDesc chQueryEff)

-- Chimney query (R195)

/-- The chimney status word of a core (R195). -/
def chimneyWord (s : State) (c : Nat) : Nat :=
  let k := s.chimAt c
  let groups := k.disabled.foldl (fun a g => a + 2 ^ g) 0
  let spares := (natsFrom 0 8).foldl (fun a g => a + min 4 (mget k.spares g 0) * 2 ^ (3 * g + 8)) 0
  let st := if k.failed then 2 else if k.disabled.isEmpty then 0 else 1
  let bw := if k.failed then 0 else 16 * (8 - k.disabled.length)
  groups + spares + st * 2 ^ 32 + bw * 2 ^ 34
/-- CHIMNEY_QUERY (R195, R274): with ALL the words of all cores go to DST; alone, a quarantined core's chimney takes no command
(R23). -/
def chimneyQueryEff (s : State) (_ : DescEnv) (d : Line) : Eff :=
  if bit d 75 then Eff.done (hostWrite s (descAddr d) ((natsFrom 0 2048).flatMap fun c => leBytes (chimneyWord s c) 8))
  else if s.isQuar (descCore d) then .fail s .quarantined (coreUnit s (descCore d) 96) 0
  else .ok s (BitVec.ofNat 128 (chimneyWord s (descCore d)))
/-- CHIMNEY_QUERY as a row. -/
def execChimneyQuery (ch : ChanId) (s : State) : Res := .next (descRow s ch.val 0x21 anyDesc chimneyQueryEff)

-- Power caps (R346, R349)

/-- A job's tray budget moves by the change of a device's cap (R349), and that device's share with it; the next period assigns from
there. -/
def JobBal.shift (b : JobBal) (slot old new : Nat) : JobBal :=
  match mget? b.budgets slot with
  | some w => { b with trayBudget := b.trayBudget + new - old, budgets := mput b.budgets slot (max 1800 (min 3600 (w + new - old))) }
  | none => b
/-- The change of this device's cap in the jobs that it balances. -/
def shiftTray (s : State) (old new : Nat) : State :=
  { s with pwr := { s.pwr with jobs := s.pwr.jobs.map fun b => b.shift s.slot old new } }
/-- Sets DEV_CAP_W; without balancing it is the budget too. -/
def setDevCap (s : State) (w : Nat) : State :=
  let s := shiftTray s s.pwr.devCap w
  { s with pwr := { s.pwr with devCap := w, budget := if s.pwr.balanced then s.pwr.budget else w } }
/-- The sum of the partition caps lies within the device cap (R346). -/
def capsFit (s : State) : Bool := decide (partSum s ≤ s.pwr.devCap)
/-- PWR_CAP (R346); in a group the sum is checked at its end (R281). -/
def pwrCapEff (s : State) (e : DescEnv) (d : Line) : Eff :=
  let w := bits d 95 80
  if bit d 70 then
    if w < 1800 ∨ w > 3300 then Eff.no s .badDescriptor
    else
      let t := setDevCap s w
      if e.grp || capsFit t then Eff.done t else Eff.no s .powerDenied
  else if w ≠ 0 ∧ w < 50 ∨ w > 3300 then Eff.no s .badDescriptor
  else
    match s.part? (descPart d) with
    | none => Eff.no s .stateConflict
    | some v =>
      let t := s.setPart (descPart d) { v with capW := w }
      if e.grp || capsFit t then Eff.done t else Eff.no s .powerDenied
/-- PWR_CAP as a row. -/
def execPwrCap (ch : ChanId) (s : State) : Res := .next (descRow s ch.val 0x30 anyDesc pwrCapEff)

-- Telemetry (R278)

/-- Datapath counter i of a core, as TELEMETRY reads it. -/
def telCounter (s : State) (c i : Nat) : List Byte := leBytes (ctrNow s c i).toNat 8
/-- Bytes 8 to 31 of a core's record: time and cycles. -/
def telHead (s : State) (c : Nat) : List Byte :=
  leBytes s.nowNat 8 ++ leBytes (s.rawCycles c).toNat 8 ++ leBytes 0 8
/-- The 256-byte record of a core (R278). -/
def telRecord (s : State) (c : Nat) : List Byte :=
  let owner := s.ownerOf c
  let rot := match owner.bind s.part? with
    | some v => v.rotations
    | none => 0
  leBytes c 2 ++ leBytes (owner.getD 0xFF) 1 ++ leBytes (b2n (s.isQuar c)) 1 ++ leBytes rot 4 ++ telHead s c ++
    (natsFrom 0 22).flatMap (telCounter s c) ++
    (natsFrom 0 6).flatMap fun p => leBytes (mget s.linkCorr (6 * c + p) 0).toNat 8
/-- TELEMETRY (R278). -/
def telemetryEff (s : State) (_ : DescEnv) (d : Line) : Eff :=
  if descAddr d % 64 ≠ 0 then Eff.no s .badDescriptor
  else
    let cs := if bit d 75 then natsFrom 0 2048 else [descCore d]
    .ok (hostWrite s (descAddr d) (cs.flatMap (telRecord s))) (BitVec.ofNat 128 (256 * cs.length))
/-- TELEMETRY as a row. -/
def execTelemetry (ch : ChanId) (s : State) : Res := .next (descRow s ch.val 0x31 anyDesc telemetryEff)

-- Device reset (R277, R398)

/-- DEV_RESET (R277): the warm reset begins afterwards. -/
def devResetEff (s : State) (_ : DescEnv) (d : Line) : Eff :=
  if bits d 95 64 ≠ 0x4B17 then Eff.no s .badDescriptor
  else if s.dev.state = .safe ∧ !s.clk.refA.ready ∧ !s.clk.refB.ready then Eff.no s .srcNotReady
  else Eff.done { s with dev := { s.dev with resetWanted := some .devReset } }
/-- DEV_RESET as a row. -/
def execDevReset (ch : ChanId) (s : State) : Res := .next (descRow s ch.val 0x3F anyDesc devResetEff)

end Sys2Proof.Machine
end

