-- ==== Sys2Proof/Machine/CopyOps.lean ====
section
/-! DEFINITION. The transfers of COPY, COMPUTE and KV channels (R213, R274 to R277): CP_COPY, CP_FILL, CP_PUT, CP_GET and
KV_RESULT. A transfer moves all that it can when its descriptor starts; one that must wait, for a free entry of an NBU's queue
or for a fold, goes on later from where it stood. -/

namespace Sys2Proof.Machine

/-- A failing transfer: its record, and its completion with the unit concerned and what else DETAIL holds. -/
def Eff.bad (s : State) (ch : Nat) (d : Line) (f : DpaFail) (more : Nat) : Eff := .fail (reportDesc s ch d f) f.status (f.concerned s) more

-- CP_COPY and CP_FILL

/-- Bytes of a unit in which a range fails as a whole (R277). -/
def copyUnit : Nat := 4096
/-- One unit of a copy. -/
inductive UnitOut where
  | moved (s : State)
  | failed (s : State) (f : DpaFail)
  | waits (s : State)
/-- A descriptor's command waits at the window of an NBU (R202). -/
def waitAt (s : State) (c n ch : Nat) : State :=
  if (s.nbuAt c n).waitDesc.isSome then s else s.modNbu c n fun u => { u with waitDesc := some ch }
/-- A command of the channel's running descriptor is the access that waits at the region. -/
def waitsAt (s : State) (c ch : Nat) : Bool := (s.regionAt c).nbus.any fun e => decide (e.2.waitDesc = some ch)
/-- A unit of a channel at a DPA waits behind accesses that the service path has accepted before (R185). -/
def unitWaits (s : State) (ch a : Nat) : Bool :=
  match regionOfDpa a with
  | some c => !pathFree s c && !waitsAt s c ch
  | none => false
/-- A unit that waited has completed: what waits behind it goes on. -/
def leaveWait (s : State) (ch a : Nat) : State :=
  match regionOfDpa a with
  | some c => if waitsAt s c ch then settlePath (dropWaits s ch) c else s
  | none => s
/-- Writes one unit at a DPA. -/
def putUnit (s : State) (ch a : Nat) (bs : List Byte) : UnitOut :=
  if unitWaits s ch a then .waits s else
  match dpaWrite s a bs with
  | .done s' => .moved (leaveWait s' ch a)
  | .fail s' f => .failed (leaveWait s' ch a) f
  | .full c n _ => .waits (waitAt s c n ch)
/-- LEN of CP_COPY and CP_FILL. -/
def copyLen (d : Line) : Nat := bits d 127 96
/-- Moves units of a descriptor's range from a position on, until the range ends, a unit fails or one has to wait. -/
def moveUnits (ch : Nat) (d : Line) (f : State → Nat → Nat → UnitOut) : Nat → State → Nat → Eff
  | 0, s, pos => .run s pos
  | k + 1, s, pos =>
    if copyLen d ≤ pos then Eff.done s
    else
      let n := min copyUnit (copyLen d - pos)
      match f s pos n with
      | .moved s' => moveUnits ch d f k s' (pos + n)
      | .failed s' e => Eff.bad s' ch d e pos
      | .waits s' => .run s' pos
/-- One unit of a CP_COPY: read at its source, then written at its destination. -/
def copyOne (ch : Nat) (d : Line) (s : State) (pos n : Nat) : UnitOut :=
  let src := descAddr d + pos
  let dst := descAddr2 d + pos
  if (bit d 64 && unitWaits s ch src) || (bit d 65 && unitWaits s ch dst) then .waits s else
  let r := if bit d 64 then dpaRead s src n else (s, .ok (rdBytes s.hostMem src n))
  match r.2 with
  | .error f => .failed r.1 f
  | .ok bs => if bit d 65 then putUnit r.1 ch dst bs else .moved (hostWrite r.1 dst bs)
/-- CP_COPY from a position on. -/
def copyFrom (s : State) (ch : Nat) (d : Line) (pos : Nat) : Eff :=
  moveUnits ch d (copyOne ch d) (copyLen d / copyUnit + 2) s pos
/-- CP_COPY (R277). -/
def cpCopyEff (s : State) (e : DescEnv) (d : Line) : Eff :=
  if copyLen d = 0 then Eff.no s .badDescriptor else copyFrom s e.ch d 0
/-- CP_COPY as a row. -/
def execCpCopy (ch : ChanId) (s : State) : Res := .next (descRow s ch.val 0x40 anyDesc cpCopyEff)

/-- PATTERN repeated over n bytes. -/
def fillBytes (d : Line) (n : Nat) : List Byte := (List.replicate (n / 8) (leBytes (descAddr2 d) 8)).flatten
/-- One unit of a CP_FILL. -/
def fillOne (ch : Nat) (d : Line) (s : State) (pos n : Nat) : UnitOut := putUnit s ch (descAddr d + pos) (fillBytes d n)
/-- CP_FILL from a position on. -/
def fillFromPos (s : State) (ch : Nat) (d : Line) (pos : Nat) : Eff :=
  moveUnits ch d (fillOne ch d) (copyLen d / copyUnit + 2) s pos
/-- CP_FILL (R187, R277). -/
def cpFillEff (s : State) (e : DescEnv) (d : Line) : Eff :=
  if copyLen d = 0 ∨ copyLen d % 64 ≠ 0 ∨ descAddr d % 64 ≠ 0 then Eff.no s .badDescriptor else fillFromPos s e.ch d 0
/-- CP_FILL as a row. -/
def execCpFill (ch : ChanId) (s : State) : Res := .next (descRow s ch.val 0x41 anyDesc cpFillEff)

-- CP_PUT and CP_GET (R31, R277)

/-- LINES of CP_PUT and CP_GET. -/
def boxLines (d : Line) : Nat := bits d 111 96
/-- The mailbox that a descriptor of a COMPUTE channel names, when it may be used in this direction (R277); a FAILED partition counts
as QUIESCED (R31). -/
def mailboxOf (s : State) (ch : Nat) (d : Line) (out : Bool) : Except Status Mailbox :=
  match s.part? (s.chanAt ch).part with
  | none => .error .stateConflict
  | some v =>
    match v.state with
    | .loaded | .running | .quiesced | .failed =>
      match v.plan.bind fun pl => pl.mailboxes.find? fun m => decide (m.index = bits d 69 64) with
      | none => .error .badDescriptor
      | some m => if m.out ≠ out || decide (boxLines d = 0) || decide (boxLines d > m.lines) then .error .badDescriptor
        else if s.isQuar m.core then .error .quarantined else .ok m
    | _ => .error .stateConflict
/-- CP_PUT (R277): the lines; it runs on until its counter is incremented. -/
def cpPutEff (s : State) (e : DescEnv) (d : Line) : Eff :=
  match mailboxOf s e.ch d false with
  | .error st => Eff.no s st
  | .ok m =>
    match writeSram s m.core (64 * m.la) (rdBytes s.hostMem (descAddr d) (64 * boxLines d)) with
    | .done s' => .run s' (64 * boxLines d)
    | .fail s' f => Eff.bad s' e.ch d f 0
    | .full .. => .hold
/-- A CP_PUT whose lines are written increments the mailbox's sync counter (R98, R277). One whose partition can no longer be used
has a side effect, so it does not end with STATE_CONFLICT (R10; log entry 88). -/
def putCount (s : State) (ch : Nat) (d : Line) : Eff :=
  match mailboxOf s ch d false with
  | .error _ => Eff.no s .resetAborted
  | .ok m =>
    Eff.done (bumpCnt s m.core m.ctr
      { unit := coreUnit s m.core 104, status := 0, cls := .partitionFatal, opSpace := 3, opcode := 0x60, detail := detDesc s ch d })
/-- CP_PUT as a row. -/
def execCpPut (ch : ChanId) (s : State) : Res := .next (descRow s ch.val 0x60 anyDesc cpPutEff)
/-- CP_GET (R277). -/
def cpGetEff (s : State) (e : DescEnv) (d : Line) : Eff :=
  match mailboxOf s e.ch d true with
  | .error st => Eff.no s st
  | .ok m =>
    let r := readSram s m.core (64 * m.la) (64 * boxLines d)
    match r.2 with
    | .error f => Eff.bad r.1 e.ch d f 0
    | .ok bs => .ok (hostWrite r.1 (descAddr d) bs) (BitVec.ofNat 128 (64 * boxLines d))
/-- CP_GET as a row. -/
def execCpGet (ch : ChanId) (s : State) : Res := .next (descRow s ch.val 0x61 anyDesc cpGetEff)

-- KV_RESULT (R213, R216, R277)

/-- NBU of KV_RESULT. -/
def kvrNbu (d : Line) : Nat := bits d 78 75
/-- WIN_LINE of KV_RESULT. -/
def kvrLine (d : Line) : Nat := bits d 92 79
/-- COUNT of KV_RESULT. -/
def kvrCount (d : Line) : Nat := bits d 100 93
/-- One line of KV_RESULT reaches host memory. -/
def putResult (s : State) (d : Line) (pos : Nat) (l : Line) : State := hostWrite s (descAddr d + 64 * pos) (bytesOf l 64)
/-- Reads lines from a position on; line 0 of a group starts a round and waits for its fold. -/
def resultFrom (d : Line) : Nat → State → Nat → Eff
  | 0, s, pos => .run s pos
  | k + 1, s, pos =>
    let c := descCore d
    if kvrCount d ≤ pos then .ok s (BitVec.ofNat 128 (64 * kvrCount d))
    else if (s.regionAt c).mode = .normal then .fail s .stateConflict (coreUnit s c (64 + kvrNbu d)) 0
    else
      match groupOfLine0 (kvrLine d + pos) with
      | some g => .run (startRound s c g) pos
      | none =>
        let x := consumeLine s c (kvrNbu d) (kvrLine d + pos)
        resultFrom d k (putResult x.2.draw d pos x.1) (pos + 1)
/-- KV_RESULT (R277): it begins once the service path has nothing of the region before it (R185). -/
def kvResultEff (s : State) (e : DescEnv) (d : Line) : Eff :=
  if kvrCount d = 0 ∨ kvrLine d + kvrCount d > 16384 then Eff.no s .badDescriptor
  else if !pathFree s (descCore d) then .hold
  else
    match resultFrom d (kvrCount d + 1) s 0 with
    | .fail s' st unit more => .fail (reportDesc s' e.ch d ⟨st, unit, 0, s'.ownerOf (descCore d)⟩) st unit more
    | x => x
/-- KV_RESULT as a row. -/
def execKvResult (ch : ChanId) (s : State) : Res := .next (descRow s ch.val 0x54 anyDesc kvResultEff)

-- Transfers that waited

/-- The running transfers of a channel, with what they have moved. -/
def runningAt (v : Channel) (op : Nat) : List DescEntry := v.q.filter fun e => e.running && decide (descOp e.desc = op)
/-- Puts what a transfer that went on led to into its entry. -/
def putEff (ch : Nat) (d : Line) (x : Eff) (s : State) : State :=
  let put := fun (st : State) (ph : DPhase) (pos : Nat) =>
    st.modChan ch fun v => { v with q := v.q.map fun e => if e.running && decide (e.desc = d) then { e with phase := ph, pos := pos } else e }
  match x with
  | .ok s' det => put s' (.done .ok det s'.time.now) 0
  | .fail s' st unit more => put s' (.done st (failDetail unit more) s'.time.now) 0
  | .run s' pos => put s' .running pos
  | .hold => s
/-- How a KV_RESULT ends whose region has left COMPUTE and DRAIN (R31): lines that it has written are a side effect (R10; log entry
88). -/
def resultStop (s : State) (e : DescEntry) : Eff :=
  .fail s (if e.pos = 0 then .stateConflict else .resetAborted) (coreUnit s (descCore e.desc) (64 + kvrNbu e.desc)) 0
/-- A running transfer goes on from where it stood (R202); a KV_RESULT ends when its region has left COMPUTE and DRAIN (R31). -/
def continueDesc (ch : Nat) (s : State) (e : DescEntry) : State :=
  match descOp e.desc with
  | 0x40 => putEff ch e.desc (copyFrom s ch e.desc e.pos) s
  | 0x41 => putEff ch e.desc (fillFromPos s ch e.desc e.pos) s
  | 0x54 =>
    if (s.regionAt (descCore e.desc)).mode = .normal then settlePath (putEff ch e.desc (resultStop s e) s) (descCore e.desc) else s
  | 0x60 => putEff ch e.desc (putCount s ch e.desc) s
  | _ => s
/-- Every running transfer of a channel goes on. -/
def continueAll (s : State) (ch : Nat) : State := ((s.chanAt ch).q.filter DescEntry.running).foldl (continueDesc ch) s
/-- A KV_RESULT that waits for the fold of a group: it takes line 0 and goes on. -/
def takeFold (c g ch : Nat) (s : State) (e : DescEntry) : State :=
  let d := e.desc
  if descCore d = c ∧ groupOfLine0 (kvrLine d + e.pos) = some g then
    let l := groupLine s.free (s.regionAt c) g 0
    putEff ch d (resultFrom d (kvrCount d + 1) (putResult s d e.pos l) (e.pos + 1)) s
  else s
/-- Every KV_RESULT that waits for the fold; what waits behind them goes on. -/
def takeFolds (s : State) (c g : Nat) : State :=
  settlePath (s.hst.chans.foldl (fun st x => (runningAt x.2 0x54).foldl (takeFold c g x.1) st) s) c

end Sys2Proof.Machine
end

