-- ==== Sys2Proof/Machine/Ports.lean ====
section
/-! DEFINITION. Training of Muold ports, identity, tree, time exchange and balancing: the commands of chapter 10 and R347 to
R349 that are not flits or barrier tokens. -/

namespace Sys2Proof.Machine

-- Training (R293 to R296, R302)

/-- A feature in force: 0 TRAIN, 1 PORTS24, 2 POD (R426). -/
def hasFeature (s : State) (i : Nat) : Bool := bit s.sec.features i
/-- Ports 13 to 24 need PORTS24 (R295). -/
def portLicensed (s : State) (p : Nat) : Bool := decide (p ≤ 12) || hasFeature s 1
/-- Begins a port's training (R293): a port set OFF stays DOWN, and one without its licence is UNLICENSED. -/
def startTraining (s : State) (p : Nat) : State :=
  let v := s.portAt p
  let base := { v with lanesSeen := 0, lanesGood := 0, lanesFine := 0, width := 0, lr := false, peer := none }
  if v.setting = 3 then movePort s p { base with state := .down, retraining := false }
  else if !portLicensed s p then movePort s p { base with state := .unlicensed, retraining := false }
  else movePort s p { base with state := .detect }
/-- Ends a training attempt in DOWN. -/
def trainingFails (s : State) (p : Nat) : State :=
  movePort s p { s.portAt p with state := .down, width := 0, trained := true, retraining := false }
/-- PORT_DETECT (R293): the lanes on which a far end is detected. -/
def execPortDetect (p : PortId) (lanes : BitVec 4) (s : State) : Res :=
  let n := p.val + 1
  let v := s.portAt n
  if v.state ≠ .detect then .next s
  else
    let seen := lanes &&& ~~~v.lanesBad
    if seen = 0 then .next (trainingFails s n) else .next (movePort s n { v with state := .eq, lanesSeen := seen })
/-- Records of the lanes that fail EQ in a retrain (R302). -/
def laneRecords (s : State) (p : Nat) (failed : BitVec 4) : State :=
  (natsFrom 0 4).foldl (fun st i =>
    if bit failed i then
      report st { unit := hearthUnit st (352 + 4 * (p - 1) + i), status := Status.linkDown.code, cls := .contained,
                  detail := detLoc i 0 }
    else st) s
/-- PORT_EQ (R294): lanes below 10^-4, and those below 10^-6. -/
def execPortEq (p : PortId) (good fine : BitVec 4) (s : State) : Res :=
  let n := p.val + 1
  let v := s.portAt n
  if v.state ≠ .eq then .next s
  else
    let ok := good &&& v.lanesSeen
    let s := if v.retraining then laneRecords s n (v.lanesSeen &&& ~~~ok) else s
    let v := { v with lanesGood := ok, lanesFine := fine &&& ok }
    if ok = 0 then .next (trainingFails (s.setPort n v) n) else .next (movePort s n { v with state := .align })
/-- The widest width of R286 whose lanes are good at both ends, by the code of R300. -/
def widthOf (both : BitVec 4) : Nat :=
  if both = 0xF#4 then 3 else if both &&& 0x3#4 = 0x3#4 || both &&& 0xC#4 = 0xC#4 then 2 else if both ≠ 0 then 1 else 0
/-- The mode of R294 is LR: settings 0 AUTO, 1 SR, 2 LR; `fine` says that every good lane at both ends is below 10^-6. -/
def modeLr (own peer : Nat) (fine : Bool) : Bool :=
  if own = 0 ∧ peer = 0 then !fine
  else if own = 2 ∨ peer = 2 then true
  else false
/-- The state that IDENT gives a port (R296). -/
def identState (s : State) (peer : Ident) : PortState :=
  let tray := bits peer.unit 31 23
  if tray = s.lnk.tray.toNat then (if bits peer.unit 22 20 = s.slot then .miswired else .up)
  else if bit peer.licences 1 && hasFeature s 2 then .up else .unlicensed
/-- The CONTAINED record of a MISWIRED port (R296). -/
def miswiredRecord (s : State) (p : Nat) : State := reportContained s (portUnit s p) .ok
/-- IDENT's licence bits of this device (R290). -/
def ownLicences (s : State) : Nat := b2n (hasFeature s 1) + 2 * b2n (hasFeature s 2) + 4 * b2n (hasFeature s 0)
/-- An IDENT payload (R290). -/
def identPayload (s : State) (p : Nat) : BitVec 2048 :=
  BitVec.ofNat 2048 (5 + (portUnit s p).toNat * 2 ^ 32 + ownLicences s * 2 ^ 64 +
    leNat (fun i => ((sha384 s.fuse.certificate).take 8).getD i 0#8) 0 8 * 2 ^ 128)
/-- The flits of a port as ALIGN leaves them: each end has sent its IDENT as its first flit and taken the peer's (R291, R296). -/
def Port.aligned (v : Port) (ident : BitVec 2048) : Port :=
  let w := ({ v with credits := fullCredits, freed := [], replay := [], ctl := [], nextSeq := 0, lastSeq := 0xFF#8, nakSent := false,
                     nakDue := false, nakRun := 0 } : Port).push 2 2 0 0 ident
  { w with lastSeq := 0, freed := [(2, 1)] }
/-- A port that has trained or been checked again takes a state with its peer (R296). -/
def settlePort (old s : State) (p : Nat) (v : Port) (peer : Ident) (st : PortState) : State :=
  let s := updPort s p { v with state := st, peer := some peer, trained := true, retraining := false }
  let s := if st = .miswired then miswiredRecord s p else s
  pumpPort 65 (afterPort old s) p
/-- PORT_ALIGN (R286, R294, R296): width, mode and identity. -/
def execPortAlign (p : PortId) (peerGood peerFine : BitVec 4) (peerMode : Fin 4) (peer : Ident) (s : State) : Res :=
  let n := p.val + 1
  let v := s.portAt n
  if v.state ≠ .align then .next s
  else
    let w := widthOf (v.lanesGood &&& peerGood)
    if w = 0 then .next (trainingFails s n)
    else
      let fine := decide (v.lanesFine = v.lanesGood) && decide (peerFine &&& peerGood = peerGood)
      .next (settlePort s s n { v.aligned (identPayload s n) with width := w, lr := modeLr v.setting peerMode.val fine } peer
        (identState s peer))
/-- The port is in training. -/
def inTraining (v : Port) : Bool :=
  match v.state with
  | .detect | .eq | .align => true
  | _ => false
/-- PORT_TRAINING_TIMEOUT (R293). -/
def execPortTrainingTimeout (p : PortId) (s : State) : Res :=
  if inTraining (s.portAt (p.val + 1)) then .next (trainingFails s (p.val + 1)) else .next s
/-- PORT_DETECT_RETRY (R295): once the start has waited for training, a DOWN port, other than one set OFF, repeats DETECT. -/
def execPortDetectRetry (p : PortId) (s : State) : Res :=
  if (s.portAt (p.val + 1)).state = .down && (s.dev.ready || s.boot.trainEnd) && decide (s.dev.state ≠ .safe) then
    .next (startTraining s (p.val + 1))
  else .next s
/-- Ports that have a far end. -/
def linked (v : Port) : Bool :=
  match v.state with
  | .up | .miswired => true
  | .unlicensed => v.peer.isSome
  | _ => false
/-- The port trains at all: it has its licence and is not set OFF (R294, R295). -/
def trainable (s : State) (p : Nat) : Bool := portLicensed s p && decide ((s.portAt p).setting ≠ 3)
/-- A retrain in service (R302): a record, then DETECT, unless the port is now held down (R295). -/
def retrain (s : State) (p : Nat) : State :=
  let s := reportContained s (portUnit s p) .linkDown
  let s := leaveUp s p .detect fun v => { v with retraining := true }
  if (s.portAt p).state = .detect then startTraining s p else s
/-- PORT_RETRAIN (R302): the start of the peer's training. -/
def execPortRetrain (p : PortId) (s : State) : Res :=
  if linked (s.portAt (p.val + 1)) then .next (retrain s (p.val + 1)) else .next s
/-- LANE_LOCK_LOSS (R302). -/
def execLaneLockLoss (p : PortId) (_lane : Fin 4) (s : State) : Res :=
  if linked (s.portAt (p.val + 1)) then .next (retrain s (p.val + 1)) else .next s
/-- One bit of LNK_RETRAIN (R302). -/
def retrainBit (v : W64) (s : State) (p : Nat) : State :=
  if !bit v (p - 1) then s
  else
    match s.ownerState (portCore p) with
    | .running | .recovering => { s with lnk := { s.lnk with retrainRefused := true } }
    | _ => if trainable s p then retrain s p else s
/-- A write of LNK_RETRAIN (R299, R302); ignored in SAFE and before READY (R255, R446). -/
def writeRetrain (s : State) (v : W64) : State :=
  if !s.dev.ready || s.dev.state = .safe then s else (natsFrom 1 24).foldl (retrainBit v) s
/-- LNK_RETRAIN (R302). -/
def execLnkRetrain (value : W64) (s : State) : Res := .next (writeRetrain s value)

-- Identity (R296, R298)

/-- What an UP port keeps of its flits in the state that R296 gives it: UNLICENSED it goes on with its IDENT flits, sent and waiting;
MISWIRED it carries nothing. -/
def Port.keepIdent (v : Port) (st : PortState) (peer : Ident) : Port :=
  if st = .unlicensed then { v with ctl := v.ctl.filter fun f => decide (bits f.2 7 0 = 0x05), peer := some peer, retraining := false }
  else { v with replay := [], ctl := [], nakSent := false, nakDue := false, nakRun := 0, peer := some peer, retraining := false }
/-- Applies the table of R296 to a port with a far end. -/
def applyIdent (s : State) (p : Nat) (peer : Ident) : State :=
  let v := s.portAt p
  if !linked v then s
  else
    let st := identState s peer
    if st = v.state then afterMaster s (updPort s p { v with peer := some peer })
    else if v.state = .up then
      let s' := leaveUp s p st fun _ => v.keepIdent st peer
      if st = .miswired ∧ (s'.portAt p).state = .miswired then miswiredRecord s' p else pumpPort 65 s' p
    else settlePort s s p v peer st
/-- IDENT (R296). -/
def execIdent (p : PortId) (peer : Ident) (s : State) : Res := .next (applyIdent s (p.val + 1) peer)
/-- Sends IDENT on every UP port, and applies R296 again (R296, R298). After a POD licence it goes to the peer of an UNLICENSED port
too, which holds POD by it (R312). -/
def resendIdent (s : State) (pod : Bool) : State :=
  (natsFrom 1 24).foldl (fun st p =>
    let st := if portUp st p || (pod && linked (st.portAt p)) then sendControl st p 2 (identPayload st p) else st
    match (st.portAt p).peer with
    | some i => applyIdent st p i
    | none => st) s
/-- A partition is RUNNING or RECOVERING. -/
def anyRunning (s : State) : Bool :=
  s.part.any fun e => decide (e.2.state = .running) || decide (e.2.state = .recovering)
/-- A write of LNK_IDENTITY (R298): TRAY and LOCK until the commit; a change of TRAY is sent as IDENT. -/
def writeIdentity (s : State) (v : W64) : State :=
  if !wholeMap s || s.lnk.lock || anyRunning s then s
  else
    let tray := BitVec.ofNat 9 (bits v 8 0)
    let s' := { s with lnk := { s.lnk with tray := tray, lock := bit v 12 } }
    if tray = s.lnk.tray then s' else resendIdent (afterMaster s s') false
/-- TRAY_LOCK (R298): the write of LOCK in LNK_IDENTITY. -/
def execTrayLock (value : W64) (s : State) : Res := .next (writeIdentity s value)

-- Tree (R306)

/-- TREE_TIMER (R306). -/
def execTreeTimer (s : State) : Res := .next (sendTree s)
/-- What a TREE flit says of a tray peer (R306). -/
def takeTree (s : State) (up : BitVec 3) (unit : W32) : State :=
  if bits unit 31 23 = s.lnk.tray.toNat then
    afterPort s { s with lnk := { s.lnk with tree := mset s.lnk.tree (bits unit 22 20) up 0 } }
  else s
/-- TREE (R306). -/
def execTree (p : PortId) (up : BitVec 3) (unit : W32) (s : State) : Res :=
  if portUp s (p.val + 1) then .next (takeTree s up unit) else .next s

-- Time exchange (R310, R311)

/-- A failed exchange: the fourth in a row ends the steering, clears TIME_SYNC and writes a record (R311; log entry 20). -/
def exchangeFails (s : State) : State :=
  let run := s.time.failRun + 1
  let s := { s with time := { s.time with failRun := run, sentT1 := none } }
  if run = 4 then reportContained { s with time := { s.time with timeSync := false, owe := 0 } } (hearthUnit s 266) .timeout else s
/-- TIME_EXCHANGE_TIMER (R310): an exchange without an answer has failed; the next TIME_REQ leaves for the master. -/
def execTimeExchangeTimer (s : State) : Res :=
  let s := if s.time.sentT1.isSome then exchangeFails s else s
  match masterPort s with
  | none => .next { s with time := { s.time with timeSync := false, sentT1 := none, owe := 0 } }
  | some p =>
    let s := { s with time := { s.time with sentT1 := some s.time.now } }
    .next (sendControl s p 3 (BitVec.ofNat 2048 (3 + s.nowNat * 2 ^ 64)))
/-- The answer to a TIME_REQ (R310): T2 is stamped here, T3 as the answer leaves. -/
def answerTime (s : State) (p : Nat) (t1 : W64) : State :=
  sendControl s p 3 (BitVec.ofNat 2048 (4 + t1.toNat * 2 ^ 64 + s.nowNat * 2 ^ 128 + s.nowNat * 2 ^ 192))
/-- TIME_REQ (R310). -/
def execTimeReq (p : PortId) (t1 : W64) (s : State) : Res :=
  if portUp s (p.val + 1) then .next (answerTime s (p.val + 1) t1) else .next s
/-- offset = ((T2 − T1) − (T4 − T3)) ÷ 2 (R310). -/
def timeOffset (t1 t2 t3 t4 : W64) : Int :=
  roundInt (((t2.toNat : Int) - t1.toNat) - ((t4.toNat : Int) - t3.toNat)) 2
/-- The bound that an offset meets when TIME_SYNC may be 1: 5 ns in a tray, 20 ns in a pod (R310). -/
def syncBound (s : State) : Nat := if s.lnk.nTrays = 1 then 5 else 20
/-- Takes an offset to the master (R311): TIME_SYNC comes back once the bound holds, and falls with the path or the exchanges alone. -/
def takeOffset (s : State) (off : Int) : State :=
  let first := !s.time.synced && !s.dev.ready
  let t := { s.time with
    failRun := 0, sentT1 := none, offset := off, synced := true, timeSync := s.time.timeSync || decide (off.natAbs ≤ syncBound s) }
  if first || decide (off > 1000) then { s with time := { t with now := t.now + BitVec.ofInt 64 off, owe := 0 } }
  else { s with time := { t with owe := off } }
/-- An answer from the master; one that falls into a retry episode is discarded (R312). -/
def takeResp (s : State) (p : Nat) (t1 t2 t3 : W64) : State :=
  if s.time.sentT1 ≠ some t1 || masterPort s ≠ some p then s
  else if (s.portAt p).nakSent || decide ((s.portAt p).nakRun > 0) then exchangeFails s
  else takeOffset s (timeOffset t1 t2 t3 s.time.now)
/-- TIME_RESP (R311). -/
def execTimeResp (p : PortId) (t1 t2 t3 : W64) (s : State) : Res :=
  if portUp s (p.val + 1) then .next (takeResp s (p.val + 1) t1 t2 t3) else .next s

-- Balancing (R347 to R349)

/-- Cores of the RUNNING partitions of a job. -/
def jobCores (s : State) (job : W32) : List Nat :=
  s.part.flatMap fun e =>
    match e.2.state, e.2.plan with
    | .running, some pl => if pl.job = job then e.2.cores else []
    | _, _ => []
/-- Slack of a job on this device: the mean of the shares of the period for which its cores stood waiting, by core (R347). -/
def jobSlack (s : State) (shares : List (BitVec 16)) (job : W32) : BitVec 16 :=
  let cs := jobCores s job
  BitVec.ofInt 16 (roundInt ((cs.foldl (fun a c => a + (shares.getD c 0).toNat) 0 : Nat)) (max 1 cs.length))
/-- Jobs of RUNNING partitions. -/
def runningJobs (s : State) : List W32 :=
  s.part.foldl (fun (a : List W32) e =>
    match e.2.state, e.2.plan with
    | .running, some pl => if pl.job = 0 then a else addOnce a pl.job
    | _, _ => a) []
/-- A SLACK payload (R347). -/
def slackPayload (s : State) (p kind : Nat) (r : Slack) : BitVec 2048 :=
  BitVec.ofNat 2048 (6 + kind * 256 + (portUnit s p).toNat * 2 ^ 32 + r.slack.toNat * 2 ^ 64 + r.budget.toNat * 2 ^ 80 +
    r.power.toNat * 2 ^ 96 + r.job.toNat * 2 ^ 128 + r.period.toNat * 2 ^ 160)
/-- A job's balance that holds nothing yet. -/
def JobBal.fresh (job : W32) : JobBal := { job := job, trayBudget := 0, budgets := [], reports := [], missing := [] }
/-- The master takes a report of a slot (R347, R348): the first report of a slot adds its cap to the tray's budget. -/
def JobBal.take (b : JobBal) (slot cap : Nat) (r : Slack) : JobBal :=
  let b := { b with reports := mput b.reports slot r, missing := mdel b.missing slot }
  match mget? b.budgets slot with
  | some _ => b
  | none => { b with budgets := mput b.budgets slot r.budget.toNat, trayBudget := b.trayBudget + cap }
/-- Records a slack report at the tray master. The cap of another device is its budget in force at its first report, which is its cap
while no assignment is in force (log entry 30). -/
def recordSlack (s : State) (slot : Nat) (r : Slack) : State :=
  if trayMaster s ≠ some s.slot then s
  else
    let js := if s.pwr.jobs.any (fun b => decide (b.job = r.job)) then s.pwr.jobs else s.pwr.jobs ++ [JobBal.fresh r.job]
    let cap := if slot = s.slot then s.pwr.devCap else r.budget.toNat
    { s with pwr := { s.pwr with jobs := js.map fun b => if b.job = r.job then b.take slot cap r else b } }
/-- One job's report of this device (R347). -/
def sendSlack (shares : List (BitVec 16)) (s : State) (job : W32) : State :=
  let r : Slack := { unit := hearthUnit s 0, slack := jobSlack s shares job, budget := BitVec.ofNat 16 s.pwr.budget,
                     power := BitVec.ofNat 16 s.pwr.p10ms, job := job, period := s.pwr.period }
  match trayMaster s with
  | some m =>
    if m = s.slot then recordSlack s s.slot r
    else
      match portToSlot s m with
      | some p => sendControl s p 2 (slackPayload s p 0 r)
      | none => s
  | none => s
/-- A device leaves the balance of a job, with its own cap (R349). -/
def JobBal.leave (b : JobBal) (slot cap : Nat) : JobBal :=
  match mget? b.budgets slot with
  | some _ =>
    { b with budgets := mdel b.budgets slot, reports := mdel b.reports slot, missing := mdel b.missing slot, trayBudget := b.trayBudget - cap }
  | none => b
/-- A job that this device has reported has stopped on it, or none runs (R349). -/
def jobStopped (s : State) : Bool :=
  (runningJobs s).isEmpty || s.pwr.jobsRun.any fun j => !(runningJobs s).contains j
/-- A device whose job has stopped returns to DEV_CAP_W, and leaves that job's balance (R349). -/
def leaveJobs (s : State) : State :=
  let jobs := runningJobs s
  { s with pwr := { s.pwr with
      budget := if jobStopped s then s.pwr.devCap else s.pwr.budget, balanced := s.pwr.balanced && !jobStopped s, jobsRun := jobs,
      jobs := s.pwr.jobs.map fun b => if jobs.contains b.job then b else b.leave s.slot s.pwr.devCap } }
/-- SLACK_REPORT (R347): every job's report, from the shares by core; before it a device leaves the balance of a job that has
stopped on it (R349). -/
def execSlackReport (shares : List (BitVec 16)) (s : State) : Res :=
  let s := (runningJobs s).foldl (sendSlack shares) (leaveJobs s)
  .next { s with pwr := { s.pwr with period := s.pwr.period + 1 } }
/-- SLACK_REPORT_RECEIVED (R347). -/
def execSlackReportReceived (p : PortId) (rep : Slack) (s : State) : Res :=
  if portUp s (p.val + 1) && decide (bits rep.unit 31 23 = s.lnk.tray.toNat) then .next (recordSlack s (bits rep.unit 22 20) rep)
  else .next s

/-- round(2000 · (mean − slack)) with slack in units of 1/65,536, for n devices whose slacks sum to `sum` (R348). -/
def slackShift (sum n x : Nat) : Int := roundInt (2000 * ((sum : Int) - (n * x : Nat))) (n * 65536)
/-- Highest budget of a device in this period: 3,300 W after a period above 3,300 W (R348). -/
def budgetHi (b : Nat) : Nat := if b > 3300 then 3300 else 3600
/-- The shift of one device, kept within its budget's bounds (R348). -/
def boundedShift (b : Nat) (m : Int) : Int :=
  clampInt 1800 (budgetHi b) ((b : Int) + clampInt (-100) 100 m) - b
/-- Scales a shift of one sign by num ÷ den, rounded toward zero. -/
def scaleShift (m : Int) (num den : Nat) : Int := if m < 0 then -((m.natAbs * num / den : Nat) : Int) else (m.natAbs * num / den : Nat)
/-- Takes watts from the first raises: those by which the raises, for the rounding of the falls, would exceed the tray's budget. -/
def withinTray : Nat → List Int → List Int
  | _, [] => []
  | n, x :: t => (x - min n x.toNat : Int) :: withinTray (n - x.toNat) t
/-- Takes watts from budgets above 1,800 W, where the raises alone do not bring them within the tray's budget. -/
def lowerTo : Nat → List (Nat × Nat) → List (Nat × Nat)
  | _, [] => []
  | n, e :: t => (e.1, e.2 - min n (e.2 - 1800)) :: lowerTo (n - (e.2 - 1800)) t
/-- The new budgets of the devices that report, slot, budget and slack, with the watts left over from the period before (R348). -/
def balance (ds : List (Nat × Nat × Nat)) (left : Int) : List (Nat × Nat) :=
  let n := ds.length
  let sum := ds.foldl (fun a d => a + d.2.2) 0
  let ms := ds.map fun d => (d, boundedShift d.2.1 (slackShift sum n d.2.2))
  let pos : Nat := ms.foldl (fun a m => if m.2 > 0 then a + m.2.natAbs else a) 0
  let neg : Nat := ms.foldl (fun a m => if m.2 < 0 then a + m.2.natAbs else a) 0
  let xs := ms.map fun m =>
    if (pos : Int) > neg + left then (if m.2 > 0 then scaleShift m.2 ((neg : Int) + left).toNat pos else m.2)
    else (if m.2 < 0 then scaleShift m.2 ((pos : Int) - left).toNat neg else m.2)
  let ys := withinTray ((xs.foldl (fun a x => a + x) (0 : Int)) - left).toNat xs
  lowerTo ((ys.foldl (fun a x => a + x) (0 : Int)) - left).toNat ((ds.zip ys).map fun e => (e.1.1, ((e.1.2.1 : Int) + e.2).toNat))
/-- Devices of a job that are balanced: a report missing for 3 periods freezes its budget (R349). -/
def JobBal.live (b : JobBal) : List (Nat × Nat × Nat) :=
  b.budgets.filterMap fun e =>
    if mget b.missing e.1 0 ≥ 3 then none
    else (mget? b.reports e.1).map fun r => (e.1, e.2, r.slack.toNat)
/-- Watts of the tray's budget that no device of the job holds: those left over carry to the next period (R348). -/
def JobBal.left (b : JobBal) : Int := (b.trayBudget : Int) - (b.budgets.foldl (fun a e => a + e.2) 0 : Nat)
/-- Sends an assignment to a slot, or takes it if the slot is this device's own. -/
def sendAssign (job period : W32) (s : State) (e : Nat × Nat) : State :=
  let r : Slack := { unit := hearthUnit s 0, slack := 0, budget := BitVec.ofNat 16 e.2, power := 0, job := job, period := period }
  if e.1 = s.slot then { s with pwr := { s.pwr with budget := e.2, balanced := true } }
  else
    match portToSlot s e.1 with
    | some p => sendControl s p 2 (slackPayload s p 1 r)
    | none => s
/-- A job's balance after a period: the new budgets, and one more period without a report for each slot (R348, R349). -/
def JobBal.after (b : JobBal) (new : List (Nat × Nat)) : JobBal :=
  let budgets := new.foldl (fun m e => mput m e.1 e.2) b.budgets
  { b with budgets := budgets, missing := budgets.map fun e => (e.1, mget b.missing e.1 0 + 1) }
/-- BALANCE_PERIOD (R348). -/
def execBalancePeriod (job : W32) (s : State) : Res :=
  match s.pwr.jobs.find? fun b => decide (b.job = job) with
  | none => .next s
  | some b =>
    let new := balance b.live b.left
    let s := { s with pwr := { s.pwr with jobs := s.pwr.jobs.map fun x => if x.job = job then x.after new else x } }
    .next (new.foldl (sendAssign job s.pwr.period) s)
/-- SLACK_ASSIGN (R348). -/
def execSlackAssign (p : PortId) (asg : Slack) (s : State) : Res :=
  if portUp s (p.val + 1) then
    .next { s with pwr := { s.pwr with budget := asg.budget.toNat, balanced := true } }
  else .next s
/-- ASSIGN_TIMEOUT (R349). -/
def execAssignTimeout (s : State) : Res :=
  if !s.pwr.balanced then .next s
  else .next (reportContained { s with pwr := { s.pwr with budget := s.pwr.devCap, balanced := false } } (hearthUnit s 256) .timeout)

end Sys2Proof.Machine
end

