-- ==== Sys2Proof/Machine/Flits.lean ====
section
/-! DEFINITION. Flits received on a Muold port, and the retry of a link (R289 to R292). -/

namespace Sys2Proof.Machine

-- Header fields (R289)

/-- VC of a header. -/
def hdrVc (h : W64) : Nat := bits h 1 0
/-- KIND of a header. -/
def hdrKind (h : W64) : Nat := bits h 3 2
/-- STREAM of a header. -/
def hdrStream (h : W64) : Nat := bits h 7 4
/-- SEQ of a header. -/
def hdrSeq (h : W64) : Byte := BitVec.ofNat 8 (bits h 18 11)
/-- ACK of a header. -/
def hdrAck (h : W64) : Byte := BitVec.ofNat 8 (bits h 26 19)

-- Retry (R291)

/-- Flits of a replay buffer that an ACK does not cover. -/
def afterAck (ack : Byte) : List Flit → List Flit
  | [] => []
  | f :: t => if hdrSeq f.header = ack then t else afterAck ack t
/-- An ACK takes the flits it covers out of the replay buffer; one that covers none changes nothing. -/
def Port.takeAck (v : Port) (ack : Byte) : Port :=
  if v.replay.any fun f => decide (hdrSeq f.header = ack) then { v with replay := afterAck ack v.replay, nakRun := 0 } else v
/-- A NAK: the flits behind its ACK are replayed; the same flit NAKed 16 times sends the port to retrain (R291). -/
def takeNak (s : State) (p : Nat) (ack : Byte) : State :=
  let v := (s.portAt p).takeAck ack
  if v.replay.isEmpty then s.setPort p v
  else
    let s := s.setPort p { v with retries := satAdd 16 v.retries 1, nakRun := v.nakRun + 1 }
    if v.nakRun + 1 ≥ 16 then retrain s p else s
/-- The port carries flits (R296). -/
def carries (v : Port) : Bool := decide (v.state = .up) || decide (v.state = .unlicensed) && v.peer.isSome
/-- NAK_RECEIVED (R291). -/
def execNakReceived (p : PortId) (ack : Byte) (s : State) : Res :=
  if carries (s.portAt (p.val + 1)) then .next (pumpPort 65 (takeNak s (p.val + 1) ack) (p.val + 1)) else .next s
/-- ACK_TIMEOUT (R291): no ACK has advanced for 10 µs while flits are outstanding. -/
def execAckTimeout (p : PortId) (s : State) : Res :=
  let v := s.portAt (p.val + 1)
  if carries v && !v.replay.isEmpty then .next (retrain s (p.val + 1)) else .next s

-- Contents

/-- Lines of a LINES payload. -/
def flitLines (payload : BitVec 2048) (n : Nat) : List Line :=
  (natsFrom 0 n).map fun i => BitVec.ofNat 512 (payload.toNat / 2 ^ (512 * i))
/-- Items of a flit on their way into the port core's D port, with the end of the flit behind them (R290, R292). -/
def flitItems (s : State) (p st vc : Nat) (items : List WireItem) : State :=
  s.modStream (streamKey (portCore p) 5 st) fun v => { v with wire := v.wire ++ items ++ [.flitEnd vc] }
/-- A BARRIER payload (R290). -/
def barToken (w : BitVec 2048) : BarToken :=
  { scope := ⟨bits w 9 8, Nat.mod_lt _ (by decide)⟩, barId := ⟨bits w 19 16, Nat.mod_lt _ (by decide)⟩,
    job := BitVec.ofNat 32 (bits w 63 32), unit := BitVec.ofNat 32 (bits w 95 64) }
/-- An IDENT payload. -/
def identOf (w : BitVec 2048) : Ident :=
  { unit := BitVec.ofNat 32 (bits w 63 32), licences := BitVec.ofNat 3 (bits w 66 64), cert := BitVec.ofNat 64 (bits w 191 128) }
/-- A SLACK payload (R347). -/
def slackOf (w : BitVec 2048) : Slack :=
  { unit := BitVec.ofNat 32 (bits w 63 32), slack := BitVec.ofNat 16 (bits w 79 64), budget := BitVec.ofNat 16 (bits w 95 80),
    power := BitVec.ofNat 16 (bits w 111 96), job := BitVec.ofNat 32 (bits w 159 128), period := BitVec.ofNat 32 (bits w 191 160) }
/-- 64 bits of a payload at a byte. -/
def word64At (w : BitVec 2048) (byte : Nat) : W64 := BitVec.ofNat 64 (w.toNat / 2 ^ (8 * byte))
/-- Type of a control flit. -/
def ctlType (w : BitVec 2048) : Nat := bits w 7 0
/-- What an accepted control flit other than CHECK does, by its type (R290). -/
def takeControl (s : State) (p : Nat) (w : BitVec 2048) : State :=
  match ctlType w with
  | 2 =>
    match bits w 31 24 with
    | 0 => takeArrive s p (barToken w)
    | 1 => takeRelease s p (barToken w)
    | _ => s
  | 3 => answerTime s p (word64At w 8)
  | 4 => takeResp s p (word64At w 8) (word64At w 16) (word64At w 24)
  | 5 => applyIdent s p (identOf w)
  | 6 =>
    let r := slackOf w
    if bits w 15 8 = 0 then (if bits r.unit 31 23 = s.lnk.tray.toNat then recordSlack s (bits r.unit 22 20) r else s)
    else { s with pwr := { s.pwr with budget := r.budget.toNat, balanced := true } }
  | 7 => takeTree s (BitVec.ofNat 3 (bits w 10 8)) (BitVec.ofNat 32 (bits w 63 32))
  | _ => s
/-- The flit is a link error in itself: its CRC fails, its kind or its control type is reserved (R290, R291). -/
def flitBad (h : W64) (w : BitVec 2048) : Bool :=
  decide (bits h 63 32 ≠ flitCrc h w) || decide (hdrKind h = 3) ||
    decide (hdrKind h = 2) && (decide (ctlType w = 0) || decide (ctlType w > 7))
/-- Credits, ACK and NAK of a good flit (R289, R291, R292). -/
def takeHeader (s : State) (p : Nat) (h : W64) : State :=
  let vc := bits h 28 27
  let s := s.modPort p fun v =>
    { v with credits := mset v.credits vc (min (vcBuffer vc) (mget v.credits vc 0 + bits h 31 29)) 0 }
  if bit h 10 then takeNak s p (hdrAck h) else s.modPort p fun v => v.takeAck (hdrAck h)
/-- A discarded flit opens an error episode: one NAK is due (R291). -/
def discardFlit (s : State) (p : Nat) : State := s.modPort p fun v => { v with nakSent := true, nakDue := v.nakDue || !v.nakSent }
/-- The flit that is next in order takes its SEQ. -/
def acceptSeq (s : State) (p : Nat) (h : W64) : State := s.modPort p fun v => { v with lastSeq := hdrSeq h, nakSent := false }
/-- The contents of an accepted flit; a control flit other than CHECK leaves its buffer at once (R292). -/
def takeContents (s : State) (p : Nat) (h : W64) (w : BitVec 2048) : State :=
  if hdrKind h = 1 then flitItems s p (hdrStream h) (hdrVc h) ((flitLines w (bits h 9 8 + 1)).map .line)
  else if ctlType w = 1 then flitItems s p (hdrStream h) (hdrVc h) [.check (BitVec.ofNat 32 (bits w 63 32))]
  else takeControl (s.modPort p fun v => { v with freed := mmod v.freed (hdrVc h) 0 (· + 1) }) p w
/-- A flit on a port that carries flits; an UNLICENSED port takes IDENT alone (R296). -/
def takeFlit (s : State) (p : Nat) (h : W64) (w : BitVec 2048) : State :=
  if flitBad h w then discardFlit s p
  else if hdrKind h = 0 then takeHeader s p h
  else if (s.portAt p).state = .unlicensed ∧ ¬(hdrKind h = 2 ∧ ctlType w = 5) then s
  else if hdrSeq h ≠ (s.portAt p).lastSeq + 1 then discardFlit s p
  else
    let s := takeHeader (acceptSeq s p h) p h
    if carries (s.portAt p) then takeContents s p h w else s
/-- The unit behind the decoder of a port's mode: header, payload, and whether it corrected (R288). -/
def unitOfMode (v : Port) (h : W64) (w : BitVec 2048) : FlitCode → Option (W64 × BitVec 2048 × Bool)
  | .sr parity => if v.lr then none else some (srDecode h w parity)
  | .lr offset first second => if v.lr then some (lrDecode h w offset.val first second) else none
/-- A NAK that no flit has taken along leaves on an IDLE flit (R291). -/
def idleNak (s : State) (p : Nat) : State := s.modPort p fun v => { v with nakDue := false }
/-- FLIT_RECEIVED (R288, R291): a unit in the port's own mode. -/
def execFlitReceived (p : PortId) (header : W64) (payload : BitVec 2048) (code : FlitCode) (s : State) : Res :=
  let n := p.val + 1
  if !carries (s.portAt n) then .next s
  else
    match unitOfMode (s.portAt n) header payload code with
    | none => .next s
    | some (h, w, fec) =>
      let s := s.modPort n fun v => { v with fecCorrected := satAdd 32 v.fecCorrected (b2n fec) }
      .next (idleNak (pumpPort 65 (takeFlit s n h w) n) n)

end Sys2Proof.Machine
end

