-- ==== Sys2Proof/Machine/OpCheck.lean ====
section
/-! DEFINITION. The checks of an op list (R128): every record alone (R96 to R126), its addresses over all loop iterations
(R123), and the accumulation chains (R47, R104, R122). -/

namespace Sys2Proof.Machine

/-- What the checks of one core's list need. -/
structure ListCtx where
  core : Nat
  grade : Grade
  train : Bool
  pod : Bool
  recs : List Rec

/-- Record i of the list. -/
def ListCtx.rcd (x : ListCtx) (i : Nat) : Rec := x.recs.getD i 0#256

-- Reserved fields (R8, R99)

/-- Fields that an opcode uses beyond the header, as high and low bits. -/
def usedFields (op : Nat) : List (Nat × Nat) :=
  match op with
  | 0x01 | 0x02 => [(101, 64), (125, 103), (255, 128)]
  | 0x03 => [(83, 64), (111, 88), (223, 128)]
  | 0x04 => [(90, 64), (119, 96), (255, 128)]
  | 0x05 => [(84, 64), (159, 88)]
  | 0x06 | 0x07 | 0x08 => [(76, 64), (191, 88)]
  | 0x09 => [(72, 64), (119, 88), (175, 128), (223, 192)]
  | 0x0A => [(92, 64), (143, 96)]
  | 0x0B | 0x0C => [(70, 64), (87, 72), (175, 128)]
  | 0x0D => [(78, 64), (103, 80)]
  | 0x0E | 0x0F => [(64, 64), (87, 72), (122, 96), (170, 128)]
  | 0x10 => [(79, 64), (125, 96)]
  | 0x11 => [(75, 64), (127, 80)]
  | 0x12 => [(72, 64)]
  | 0x13 => [(64, 64), (110, 88), (159, 128)]
  | 0x14 => [(87, 64)]
  | 0x15 => [(90, 64), (159, 96)]
  | 0x16 => [(129, 64)]
  | 0x17 => [(194, 64)]
  | _ => []
/-- The bits of a field. -/
def spanMask (f : Nat × Nat) : Nat := 2 ^ (f.1 + 1) - 2 ^ f.2
/-- Bits that an opcode leaves reserved are zero. -/
def reservedZero (r : Rec) : Bool :=
  let m := ((14, 0) :: (36, 16) :: (63, 40) :: usedFields (opOf r)).foldl (fun a f => a ||| spanMask f) 0
  decide (r.toNat &&& m = r.toNat)

-- Fields of one record (R103 to R125)

/-- Operand pairs and orientations of the arrays (R45). -/
def pairOk (fa fb : Fmt) : Bool :=
  match fa, fb with
  | .int8s, .int8s | .int8s, .int8u | .int8u, .int8s | .int8u, .int8u => true
  | .int8s, .int4s | .int8s, .int4u | .int8u, .int4s | .int8u, .int4u => true
  | .int4s, .int4s | .int4s, .int4u | .int4u, .int4s | .int4u, .int4u => true
  | .e4m3, .e4m3 | .e4m3, .e5m2 | .e5m2, .e4m3 | .e5m2, .e5m2 => true
  | .e4m3, .mxfp4 | .e5m2, .mxfp4 | .mxfp4, .mxfp4 => true
  | .bf16, .bf16 => true
  | _, _ => false
/-- Operand pairs of EWA, which has no orientation (R45, R79). -/
def ewaPairOk (fa fb : Fmt) : Bool := pairOk fa fb || pairOk fb fa
/-- A port of R101 that the core has: a neighbour, or the Muold port of a port core (R135, R136). -/
def portOk (c port : Nat) : Bool :=
  (neighbour c port).isSome || (decide (port = 5) && decide (tierOf c = 0) && (portOfCore c).isSome)
/-- MMA and MMAP (R103 to R105). -/
def mmFieldsOk (r : Rec) : Bool :=
  let gemv := bit r 68
  let packed := decide (opOf r = 2)
  let m := MmRec.ofRec r
  let banks := if gemv then bits r 70 69 else if m.rdOut then 0 else bits r 125 118
  let shape :=
    if packed then
      !gemv && decide (bits r 125 118 = 0) && decide (bits r 70 69 ≠ 0) &&
        decide (bits r 223 208 < 2 ^ (splitOf (bits r 70 69)).2.2)
    else if gemv then decide (bits r 125 118 = 0) else decide (bits r 70 69 = 0)
  decide (bits r 67 64 ≠ 0) && shape && decide (m.bank + banks ≤ 3) && decide (bits r 74 71 ≤ 8) && decide (bits r 78 75 ≤ 8) &&
    pairOk m.fa m.fb && decide (bits r 82 79 ≤ 3) && decide (bits r 117 103 ≠ 0) &&
    (decide (m.fb ≠ .mxfp4) || decide (m.bStride % 16 = 0)) && (!m.zpMode || m.fb.unsignedInt)
/-- Granularities of a quantised format (R110). -/
def granOk (f gran : Nat) : Bool :=
  match f with
  | 2 | 3 => decide (gran = 0)
  | 4 => decide (gran = 1)
  | 5 | 6 => decide (gran = 0 ∨ gran = 3 ∨ gran = 4)
  | 7 | 8 => decide (gran = 0 ∨ gran = 4)
  | 9 => decide (gran = 2)
  | _ => false
/-- QSCAN, QCONV and DQ (R109, R110). -/
def quFieldsOk (r : Rec) : Bool :=
  let dq := decide (opOf r = 8)
  let q := if dq then bits r 67 64 else bits r 71 68
  let fmts := if dq then decide (4 ≤ q ∧ q ≤ 9 ∧ bits r 71 68 ≤ 1) else decide (bits r 67 64 ≤ 3 ∧ 2 ≤ q ∧ q ≤ 9)
  let g := bits r 75 73
  fmts && granOk q g && (!bit r 72 || decide (q = 6 ∨ q = 8)) && decide (bits r 111 88 ≠ 0) &&
    (decide (g ≠ 4) || decide (bits r 127 112 ≠ 0)) && (decide (opOf r = 7) || decide (bits r 191 176 = 0))
/-- VFN (R107). -/
def vfnFieldsOk (r : Rec) : Bool :=
  let f := fun v => decide (v ≤ 3) || (decide (v = 10) && decide (bits r 71 64 = 0x0A))
  decide (bits r 71 64 ≤ 0x0E) && f (bits r 75 72) && f (bits r 79 76) && f (bits r 83 80) && f (bits r 87 84) &&
    decide (bits r 119 96 ≠ 0)
/-- RED (R108). -/
def redFieldsOk (c : Nat) (r : Rec) : Bool :=
  decide (bits r 66 64 ≤ 4) && decide (bits r 91 88 ≤ 3) && decide (bits r 111 92 ≠ 0) &&
    (!bit r 67 || (decide (bits r 127 112 ≠ 0) && decide (bits r 111 92 % bits r 127 112 = 0))) &&
    (redPorts (bits r 73 68) ++ redPorts (bits r 79 74)).all (portOk c)
/-- The fields of a record lie in their ranges, and its codes are accepted. -/
def fieldsOk (x : ListCtx) (i : Nat) : Bool :=
  let r := x.rcd i
  let lines := fun v => decide (1 ≤ v ∧ v ≤ 49152)
  match opOf r with
  | 0x01 | 0x02 => mmFieldsOk r
  | 0x03 =>
    decide (bits r 67 64 ≠ 0) && decide (bits r 70 68 ≤ 5) && decide (1 ≤ bits r 74 71 ∧ bits r 74 71 ≤ 8) &&
      (decide (bits r 70 68 = 2) || (decide (1 ≤ bits r 78 75 ∧ bits r 78 75 ≤ 8) && ewaPairOk (recFmt r 71) (recFmt r 75))) &&
      decide (bits r 82 79 ≤ 3) &&
      decide (bits r 111 88 ≠ 0)
  | 0x04 => vfnFieldsOk r
  | 0x05 => redFieldsOk x.core r
  | 0x06 | 0x07 | 0x08 => quFieldsOk r
  | 0x09 =>
    decide (bits r 67 64 ≤ 1) && decide (bits r 71 68 ≤ 3) && decide (bits r 103 88 ≠ 0) && decide (bits r 111 104 ≠ 0) &&
      decide (bits r 119 112 ≠ 0)
  | 0x0A => decide (2 ≤ bits r 71 64) && decide (bits r 79 72 ≠ 0) && decide (bits r 87 80 ≠ 0) && decide (bits r 92 89 ≤ 3)
  | 0x0B | 0x0C => portOk x.core (bits r 66 64) && lines (bits r 87 72)
  | 0x0D =>
    portOk x.core (bits r 66 64) && portOk x.core (bits r 73 71) && decide (bits r 66 64 ≠ bits r 73 71)
  | 0x0E | 0x0F => lines (bits r 87 72) && decide (bits r 122 96 % 64 = 0) && (!bit r 64 || decide (bits r 170 144 % 4 = 0))
  | 0x10 =>
    let a := bits r 65 64
    decide (a ≠ 3) && decide (bits r 67 66 ≠ 3) && (decide (a = 2) || decide (bits r 67 66 = 0)) &&
      (decide (a = 2) == decide (bits r 79 72 = 0))
  | 0x11 =>
    let ix := bits r 75 68
    match bits r 67 64 with
    | 0 => decide (ix ≤ 15)
    | 1 => decide (ix ≤ 21)
    | 2 => decide (ix / 16 ≤ 5) && decide (bits r 127 80 ≤ 8)
    | 3 | 4 => true
    | _ => false
  | 0x12 => decide (bits r 72 71 ≠ 3)
  | 0x13 => lines (bits r 103 88) && decide (bits r 110 104 ≤ 64)
  | 0x14 => decide (256 ≤ bits r 87 64)
  | 0x15 =>
    !bit r 12 && decide (bits r 90 80 < i) &&
      (decide (bits r 79 64 ≠ 0) || (natsFrom 0 4).all fun k => decide (strideOf r k = 0))
  | 0x16 => true
  | 0x17 => decide (bits r 87 64 ≠ 0) && decide (bits r 87 64 % 256 = 0) && decide (bits r 194 168 % 64 = 0)
  | _ => false

-- Ranges of SRAM that a record reads and writes, as first line and bytes

/-- Lines that a SND or RCV spans from its first line (R114). -/
def rowSpan (r : Rec) : Nat :=
  let n := bits r 87 72
  let rl := bits r 159 144
  if rl = 0 then n
  else
    let rows := cdiv n rl
    let last := (rows - 1) * bits r 175 160 + (n - (rows - 1) * rl)
    if rows < 2 then last else max last ((rows - 2) * bits r 175 160 + rl)
/-- Ranges read. -/
def recReads (r : Rec) : List (Nat × Nat) :=
  match opOf r with
  | 0x01 => mmaReads r
  | 0x02 => mmapReads r
  | 0x03 => ewaReads r
  | 0x04 => vfnReads r
  | 0x05 => [(bits r 143 128, (recFmt r 88).bytes (redWidth (bits r 66 64) * bits r 111 92))]
  | 0x06 => qscanReads r
  | 0x07 => qconvReads r
  | 0x08 => dqReads r
  | 0x09 => smxReads r
  | 0x0A => smxmReads r
  | 0x0B => [(bits r 143 128, 64 * rowSpan r)]
  | 0x0F => chwrReads r
  | 0x10 => if nbcAction r = 0 then [(bits r 111 96, 64 * nbcCount r)] else []
  | 0x13 => chkReads r
  | 0x17 => optuReads r
  | _ => []
/-- Ranges that QSCAN and QCONV write (R110). -/
def quWrites (r : Rec) : List (Nat × Nat) :=
  let g := (granules r).length
  let t := recFmt r 68
  if opOf r = 6 then
    (bits r 175 160, g * (if bit r 72 then 8 else 4)) ::
      (if t = .mxfp4 ∧ bits r 159 144 ≠ 0xFFFF then [(bits r 159 144, 4)] else [])
  else
    let n := g * scaleBytes t
    (bits r 175 160, t.bytes (bits r 111 88)) :: (bits r 191 176, n) ::
      (if bit r 72 then [(bits r 191 176 + cdiv n 64, g)] else [])
/-- Ranges written. -/
def recWrites (r : Rec) : List (Nat × Nat) :=
  match opOf r with
  | 0x01 | 0x02 => mmWrites r
  | 0x03 => [(bits r 175 160, (recFmt r 79).bytes (bits r 111 88))]
  | 0x04 => [(bits r 191 176, (recFmt r 84).bytes (bits r 119 96))]
  | 0x05 => if bit r 84 then [(bits r 159 144, 4 * redNumbers r)] else []
  | 0x06 | 0x07 => quWrites r
  | 0x08 => [(bits r 175 160, (recFmt r 68).bytes (bits r 111 88))]
  | 0x09 => [(bits r 175 160, 64 * (bits r 119 112 * tripleLines (16 * bits r 111 104)))]
  | 0x0A =>
    let d := 16 * bits r 87 80
    [(bits r 127 112, 64 * (bits r 79 72 * (if bit r 88 then (recFmt r 89).lines d else tripleLines d)))]
  | 0x0C => [(bits r 143 128, 64 * rowSpan r)]
  | 0x0E => [(bits r 143 128, 64 * chLines r)]
  | 0x10 => if nbcAction r = 1 then [(bits r 111 96, 64 * nbcCount r)] else []
  | 0x13 => if bit r 64 then [] else [(bits r 159 144, 4 * cdiv (bits r 103 88) (if bits r 110 104 = 0 then 64 else bits r 110 104))]
  | 0x17 =>
    let n := bits r 87 64
    [(bits r 119 104, n), (bits r 135 120, n), (bits r 151 136, n / 256 * 8)]
  | _ => []
/-- Ranges of the DRAM slot that CHRD, CHWR and OPTU reach, as slot offset and bytes. -/
def recDram (r : Rec) : List (Nat × Nat) :=
  match opOf r with
  | 0x0E | 0x0F =>
    (chOff r, 64 * chLines r) :: (if bit r 64 then [(chTab r, 4 * tabWords (chLines r))] else [])
  | 0x17 => [(bits r 194 168, 2 * bits r 87 64)]
  | _ => []

-- Loops (R123)

/-- Places of the LOOP records of a list. -/
def loopsOf (recs : List Rec) : List Nat := (natsFrom 0 recs.length).filter fun j => decide (opOf (recs.getD j 0#256) = 0x15)
/-- TARGET of a LOOP. -/
def ListCtx.target (x : ListCtx) (j : Nat) : Nat := bits (x.rcd j) 90 80
/-- LOOPs whose body holds record i. -/
def ListCtx.around (x : ListCtx) (i : Nat) : List Nat :=
  (loopsOf x.recs).filter fun j => decide (x.target j ≤ i ∧ i < j)
/-- The loop at j nests properly with every loop that ends before it, and at most 4 deep. -/
def ListCtx.loopOk (x : ListCtx) (j : Nat) : Bool :=
  let t := x.target j
  (loopsOf x.recs).all (fun k => !(decide (k < j) && decide (t ≤ k) && decide (x.target k < t))) &&
    decide (((loopsOf x.recs).filter fun k => decide (j ≤ k ∧ x.target k ≤ t)).length ≤ 4)
/-- Least and greatest advance of address field k of record i over all iterations. -/
def ListCtx.advance (x : ListCtx) (i k : Nat) : Int × Int :=
  (x.around i).foldl (fun (a : Int × Int) j =>
    let d : Int := ((bits (x.rcd j) 79 64 - 1 : Nat) : Int) * strideOf (x.rcd j) k
    (a.1 + min 0 d, a.2 + max 0 d)) (0, 0)
/-- An address field stays within its own width over all iterations. -/
def fieldStays (r : Rec) (f : Nat × Nat × Nat × Nat) (d : Int) : Bool :=
  let v : Int := (bits r f.1 f.2.1 : Int) + d * (f.2.2.1 : Int) / (f.2.2.2 : Int)
  decide (0 ≤ v ∧ v < 2 ^ (f.1 + 1 - f.2.1))
/-- The forms that record i takes with every address field at its least and at its greatest, if all of them stay in range. -/
def ListCtx.extremes (x : ListCtx) (i : Nat) : Option (List Rec) :=
  let r := x.rcd i
  if !bit r 14 then some [r]
  else
    let fs := (natsFrom 0 4).zip (addrFields r)
    if fs.all fun e => fieldStays r e.2 (x.advance i e.1).1 && fieldStays r e.2 (x.advance i e.1).2 then
      some [fs.foldl (fun a e => bumpField a e.2 (x.advance i e.1).1) r, fs.foldl (fun a e => bumpField a e.2 (x.advance i e.1).2) r]
    else none
/-- Every range lies in SRAM, no written one reaches the op list, DRAM ranges lie in the data range, and window lines in the
window. -/
def rangesOk (opLines : Nat) (r : Rec) : Bool :=
  (recReads r).all (fun e => decide (e.1 + cdiv e.2 64 ≤ sramLines)) &&
    (recWrites r).all (fun e => decide (e.1 + cdiv e.2 64 ≤ sramLines) && decide (opLines ≤ e.1)) &&
    (recDram r).all (fun e => decide (e.1 + e.2 ≤ dramBytes)) &&
    (decide (opOf r ≠ 0x10) || decide (bits r 125 112 + nbcCount r ≤ 16384))
/-- Strides S1 and S2 of the loops around a record with a check table are multiples of 64 (R117). -/
def ListCtx.tableStrides (x : ListCtx) (i : Nat) : Bool :=
  let r := x.rcd i
  if (opOf r = 0x0E ∨ opOf r = 0x0F) ∧ bit r 14 ∧ bit r 64 then
    (x.around i).all fun j => decide (strideOf (x.rcd j) 1 % 64 = 0 ∧ strideOf (x.rcd j) 2 % 64 = 0)
  else true
/-- A test holds of a record in every iteration of the loops around it (R123); a loop without strides leaves the record alone. -/
def ListCtx.everyPass (x : ListCtx) (f : Rec → Bool) : List Nat → Rec → Bool
  | [], r => f r
  | j :: js, r =>
    let fs := (natsFrom 0 4).zip (addrFields r)
    let n := if fs.all fun e => decide (strideOf (x.rcd j) e.1 = 0) then 1 else bits (x.rcd j) 79 64
    (natsFrom 0 n).all fun i => x.everyPass f js (fs.foldl (fun a e => bumpField a e.2 (i * strideOf (x.rcd j) e.1)) r)
/-- No output of an op overlaps an input. -/
def apart (r : Rec) : Bool := (recWrites r).all fun w => (recReads r).all fun e => !overlap w e
/-- RETRY stands only where an op may run again, in every iteration (R128). -/
def ListCtx.retryOk (x : ListCtx) (i : Nat) : Bool :=
  let r := x.rcd i
  !bit r 13 ||
    (decide (opOf r ≠ 0x17) && !(decide (opOf r = 1 ∨ opOf r = 2) && !bit r 84) &&
      x.everyPass apart (if bit r 14 then x.around i else []) r)
/-- The checks of one record (R128). -/
def ListCtx.record (x : ListCtx) (i : Nat) : Status :=
  let r := x.rcd i
  let loop := decide (opOf r ≠ 0x15) || x.loopOk i
  let ranges := match x.extremes i with
    | some l => l.all (rangesOk (cdiv x.recs.length 2))
    | none => false
  let arr := opOf r = 1 ∨ opOf r = 2 ∨ opOf r = 3
  if !(reservedZero r && fieldsOk x i && loop && ranges && x.tableStrides i && x.retryOk i) then .badDescriptor
  else if arr ∧ x.grade = .a3 ∧ bit r 67 then .noFit
  else if opOf r = 0x17 ∧ !x.train ∨ opOf r = 0x12 ∧ bits r 72 71 = 2 ∧ !x.pod then .licenceDenied
  else .ok

-- Accumulation chains (R104)

/-- What an array's accumulators carry on: the shape of the ops of the chain, the products per accumulator, and whether the
chain has passed the back-edge of a LOOP with COUNT 0. -/
structure Chain where
  shape : List Nat
  depth : Nat
  endless : Bool
  deriving DecidableEq, Repr
/-- Chains by array. -/
abbrev Chains := SMap Chain
/-- How a walk over a list ends: at a record that breaks a rule, at an endless loop, or with the chains it leaves. -/
inductive Walk where
  | bad (i : Nat)
  | never
  | leaves (k : Chains)
/-- ARRAYS, MODE, VM1, BANK, MT_M1, FMT_A and FMT_B of an op (R104). -/
def chainShape (r : Rec) : List Nat := [bits r 67 64, bits r 70 68, bits r 87 86, bits r 125 118, bits r 74 71, bits r 78 75]
/-- The chains after an MMA or MMAP, if it may stand there (R47, R104). -/
def chainMm (r : Rec) (k : Chains) : Option Chains :=
  let sel := selected (bits r 67 64)
  let prev := sel.map (mget? k)
  let goes := prev.all fun p => match p with
    | some c => decide (c.shape = chainShape r) && !c.endless
    | none => false
  let before := prev.foldl (fun a p => match p with
    | some c => max a c.depth
    | none => a) 0
  let depth := 32 * bits r 117 103 + (if bit r 84 then 0 else before)
  if (bit r 84 || goes) && decide (depth ≤ 2 ^ 20) then
    some (sel.foldl (fun m a => if bit r 85 then mdel m a else mput m a ⟨chainShape r, depth, false⟩) k)
  else none
/-- The chains after one record. -/
def chainStep (r : Rec) (k : Chains) : Option Chains :=
  match opOf r with
  | 0x01 | 0x02 => chainMm r k
  | 0x03 => some ((selected (bits r 67 64)).foldl mdel k)
  | 0x14 => some []
  | 0x12 => if bit r 70 then some [] else some k
  | _ => some k
/-- The chains as they stand before the last of n iterations, from those after the first and the second. -/
def chainGrow (n : Nat) (one two : Chains) : Chains :=
  two.map fun e => match mget? one e.1 with
    | some c => (e.1, { e.2 with depth := e.2.depth + (n - 3) * (e.2.depth - c.depth) })
    | none => e
/-- Follows the chains through records lo to hi − 1 along every path (R104): a loop's first entry, its back-edge, and its last
iteration. -/
def chainWalk (recs : List Rec) : Nat → Nat → Nat → Chains → Walk
  | 0, _, _, k => .leaves k
  | f + 1, lo, hi, k =>
    if lo ≥ hi then .leaves k
    else
      let ends := (natsFrom lo (hi - lo)).filter fun j =>
        let r := recs.getD j 0#256
        decide (opOf r = 0x15 ∧ bits r 90 80 = lo)
      match ends.getLast? with
      | none =>
        match chainStep (recs.getD lo 0#256) k with
        | some k => chainWalk recs f (lo + 1) hi k
        | none => .bad lo
      | some e =>
        let n := bits (recs.getD e 0#256) 79 64
        match chainWalk recs f lo e k with
        | .leaves one =>
          if n = 1 then chainWalk recs f (e + 1) hi one
          else if n = 0 then
            match chainWalk recs f lo e (one.map fun x => (x.1, { x.2 with endless := true })) with
            | .bad i => .bad i
            | _ => .never
          else
            match chainWalk recs f lo e one with
            | .leaves two =>
              if n = 2 then chainWalk recs f (e + 1) hi two
              else
                match chainWalk recs f lo e (chainGrow n one two) with
                | .leaves k => chainWalk recs f (e + 1) hi k
                | w => w
            | w => w
        | w => w

/-- The checks of one core's list (R96, R128): the first record that fails, and its status. -/
def ListCtx.check (x : ListCtx) : Option (Status × Nat) :=
  if x.recs.length > 2048 then some (.badDescriptor, 2048)
  else
    match (natsFrom 0 x.recs.length).find? fun i => decide (x.record i ≠ .ok) with
    | some i => some (x.record i, i)
    | none =>
      match chainWalk x.recs (2 * x.recs.length + 8) 0 x.recs.length [] with
      | .bad i => some (.badDescriptor, i)
      | _ => none

end Sys2Proof.Machine
end

