-- ==== Sys2Proof/Machine/PlanImage.lean ====
section
/-! DEFINITION. The plan image (R143, R152 to R154, R161, R303, R363, R390, R393): its layout, and the checks that a plan load makes
before it writes any byte. -/

namespace Sys2Proof.Machine

/-- An image: its bytes by offset, and its length. -/
structure Img where
  mem : Mem
  len : Nat
  deriving DecidableEq, Repr

/-- A little-endian field of an image. -/
def Img.n (im : Img) (a k : Nat) : Nat := rdNat im.mem a k
/-- Bytes of an image. -/
def Img.bytes (im : Img) (a k : Nat) : List Byte := rdBytes im.mem a k
/-- Bytes as the listed cells of a memory that starts at 0. -/
def listMem (bs : List Byte) : Mem := ((natsFrom 0 bs.length).zip bs).filter fun e => decide (e.2 ≠ 0#8)
/-- Cells of a range of a memory, moved to offset 0. -/
def shiftMem (m : Mem) (a n : Nat) : Mem := (sliceMem m a n).map fun e => (e.1 - a, e.2)

-- Header and section table (R152)

/-- SECTIONS. -/
def Img.sections (im : Img) : Nat := im.n 24 2
/-- CHECK_OFF. -/
def Img.checkOff (im : Img) : Nat := im.n 32 8
/-- RESTORE. -/
def Img.restore (im : Img) : Nat := im.n 28 4
/-- FEATURES. -/
def Img.features (im : Img) : Nat := im.n 7 1
/-- The header's own fields. -/
def Img.headerOk (im : Img) (imgLen : Nat) : Bool :=
  decide (64 ≤ imgLen ∧ im.n 0 4 = 0x4E4D4C4F ∧ im.n 4 2 = 1 ∧ im.features < 8 ∧ im.n 8 8 = imgLen) &&
    decide (64 ≤ im.n 20 4 ∧ im.n 20 4 ≤ 4194304 ∧ 1 ≤ im.sections ∧ im.sections ≤ 64 ∧ im.n 26 2 = 0 ∧ im.n 40 24 = 0) &&
    decide (im.checkOff % 4096 = 0 ∧ im.checkOff + 4 * (im.checkOff / 4096) ≤ imgLen ∧ 64 + 16 * im.sections ≤ imgLen)
/-- A section: type, entries, offset. -/
structure Sect where
  type : Nat
  count : Nat
  off : Nat
  deriving DecidableEq, Repr
/-- Section k of the table. -/
def Img.sect (im : Img) (k : Nat) : Sect := ⟨im.n (64 + 16 * k) 2, im.n (68 + 16 * k) 4, im.n (72 + 16 * k) 8⟩
/-- Every section. -/
def Img.sects (im : Img) : List Sect := (natsFrom 0 im.sections).map im.sect
/-- Bytes of an entry of a type, where they are fixed (R153). -/
def entryBytes (t : Nat) : Nat :=
  match t with
  | 1 => 256 | 3 => 24 | 4 => 8 | 6 => 8 | 10 => 8 | _ => 16
/-- Bytes of a rotation set with its members. -/
def rotBytes (members : Nat) : Nat := 8 + 8 * cdiv (2 * members) 8
/-- Offsets of a section's rotation sets, and its end. -/
def rotOffsets (im : Img) : Nat → Nat → List Nat × Nat
  | 0, off => ([], off)
  | k + 1, off =>
    let r := rotOffsets im k (off + rotBytes (im.n (off + 2) 1))
    (off :: r.1, r.2)
/-- End of a section. -/
def Img.sectEnd (im : Img) (x : Sect) : Nat :=
  if x.type = 8 then (rotOffsets im (min x.count 17) x.off).2 else x.off + x.count * entryBytes x.type
/-- Offsets of the entries of a type, in order. -/
def Img.entries (im : Img) (t : Nat) : List Nat :=
  (im.sects.filter fun x => decide (x.type = t)).flatMap fun x =>
    if t = 8 then (rotOffsets im (min x.count 17) x.off).1
    else (natsFrom 0 (min x.count (im.len / entryBytes t))).map fun i => x.off + i * entryBytes t
/-- No two spans of a list meet. -/
def disjoint : List (Nat × Nat) → Bool
  | [] => true
  | (a, b) :: t => (t.all fun y => decide (b ≤ y.1 ∨ y.2 ≤ a)) && disjoint t
/-- A list without repeats. -/
def distinct {α : Type} [DecidableEq α] : List α → Bool
  | [] => true
  | x :: t => !t.contains x && distinct t
/-- The section table (R152, R153): known types, each at most once but SRAM and DRAM, the required ones present, all within the image
and apart. -/
def Img.tableOk (im : Img) : Bool :=
  let xs := im.sects
  let once := (xs.map Sect.type).filter fun t => decide (t ≠ 2 ∧ t ≠ 3)
  let spans := (0, 64 + 16 * im.sections) :: (im.checkOff, im.checkOff + 4 * (im.checkOff / 4096)) :: xs.map fun x => (x.off, im.sectEnd x)
  (xs.all fun x => decide (1 ≤ x.type ∧ x.type ≤ 10 ∧ x.off % 64 = 0 ∧ im.sectEnd x ≤ im.len) &&
    decide (x.type ≠ 8 ∨ x.count ≤ 16) && decide ((x.type ≠ 1 ∧ x.type ≠ 9) ∨ x.count = 1) && decide (x.type ≠ 5 ∨ x.count ≤ 64)) &&
    ((natsFrom 0 im.sections).all fun k => decide (im.n (66 + 16 * k) 2 = 0)) &&
    distinct once && once.contains 1 && once.contains 10 && (xs.any fun x => decide (x.type = 2)) && disjoint spans

-- Entries (R153)

/-- An SRAM or DRAM extent: core, slot offset, bytes, offset of the data. -/
structure Extent where
  core : Nat
  off : Nat
  bytes : Nat
  data : Nat
  deriving DecidableEq, Repr
/-- SRAM extents. -/
def Img.srams (im : Img) : List Extent :=
  (im.entries 2).map fun e => ⟨im.n e 2, 64 * im.n (e + 2) 2, 64 * im.n (e + 4) 4, im.n (e + 8) 8⟩
/-- DRAM extents. -/
def Img.drams (im : Img) : List Extent :=
  (im.entries 3).map fun e => ⟨im.n e 2, im.n (e + 4) 4, im.n (e + 8) 8, im.n (e + 16) 8⟩
/-- Cores of the core map. -/
def Img.coreMap (im : Img) : List Nat :=
  match im.entries 1 with
  | e :: _ => (natsFrom 0 2048).filter fun c => bit (rdByte im.mem (e + c / 8)) (c % 8)
  | [] => []
/-- Op lists: core and records. -/
def Img.oplists (im : Img) : List (Nat × Nat) := (im.entries 10).map fun e => (im.n e 2, im.n (e + 2) 2)
/-- Declared routes of a partition. -/
def Img.routes (im : Img) (p : Nat) : List Route :=
  (im.entries 4).map fun e =>
    { core := im.n e 2, inPort := im.n (e + 2) 1, inStream := im.n (e + 3) 1, outPort := im.n (e + 4) 1, outStream := im.n (e + 5) 1,
      owner := p, declared := true, left := 0 }
/-- Mailboxes. -/
def Img.mailboxes (im : Img) : List Mailbox :=
  (im.entries 5).map fun e =>
    { index := im.n e 1, out := decide (im.n (e + 1) 1 = 1), core := im.n (e + 2) 2, la := im.n (e + 4) 2, lines := im.n (e + 6) 2,
      ctr := im.n (e + 8) 1 }
/-- Link-table entries. -/
def Img.links (im : Img) : List LinkUse :=
  (im.entries 6).map fun e =>
    { port := im.n e 1, width := im.n (e + 1) 1, mode := im.n (e + 2) 1, vcs := im.n (e + 3) 1, peerTray := im.n (e + 4) 2,
      peerSlot := im.n (e + 6) 1, peerPort := im.n (e + 7) 1 }
/-- Snapshot areas. -/
def Img.snaps (im : Img) : List SnapArea :=
  (im.entries 7).map fun e => { core := im.n e 2, area0 := im.n (e + 4) 4, area1 := im.n (e + 8) 4, bytes := im.n (e + 12) 4 }
/-- Rotation sets. -/
def Img.rots (im : Img) : List RotSet :=
  (im.entries 8).map fun e =>
    { set := im.n e 1, barId := im.n (e + 1) 1, exStream := im.n (e + 3) 1,
      members := (natsFrom 0 (im.n (e + 2) 1)).map fun i => im.n (e + 8 + 2 * i) 2 }
/-- The batch mailbox. -/
def Img.batch (im : Img) : Option BatchBox :=
  (im.entries 9).head?.map fun e =>
    { core := im.n e 2, la := im.n (e + 2) 2, ctr := im.n (e + 4) 1, batchMax := im.n (e + 5) 1, chunkMax := im.n (e + 8) 4 }
/-- Zero fields of the entries. -/
def Img.zerosOk (im : Img) : Bool :=
  let z := fun (t a k : Nat) => (im.entries t).all fun e => decide (im.n (e + a) k = 0)
  z 3 2 2 && z 4 6 2 && z 5 9 7 && z 7 2 2 && z 8 4 4 && z 9 6 2 && z 9 12 4 && z 10 4 4 &&
    ((im.entries 5).all fun e => decide (im.n (e + 1) 1 = 0 ∨ im.n (e + 8) 1 = 0)) &&
    ((im.entries 8).all fun e =>
      let m := im.n (e + 2) 1
      decide (im.n (e + 8 + 2 * m) (rotBytes m - 8 - 2 * m) = 0))
/-- The data of every extent lie in the image. -/
def Img.dataOk (im : Img) : Bool := (im.srams ++ im.drams).all fun x => decide (x.data + x.bytes ≤ im.len)

-- The checks of R154 that need the image alone

/-- Record i of a core's op list in the image, from the SRAM extent that covers it. -/
def Img.rcd (im : Img) (c i : Nat) : Rec :=
  match im.srams.find? fun x => decide (x.core = c ∧ x.off ≤ 32 * i ∧ 32 * i < x.off + x.bytes) with
  | some x => BitVec.ofNat 256 (im.n (x.data + 32 * i - x.off) 32)
  | none => 0#256
/-- A core's op list in the image. -/
def Img.recs (im : Img) (c : Nat) : List Rec :=
  match im.oplists.find? fun e => decide (e.1 = c) with
  | some e => (natsFrom 0 (min e.2 2048)).map (im.rcd c)
  | none => []
/-- Some BAR of the plan has SNAP = 1. -/
def Img.hasSnap (im : Img) : Bool := im.oplists.any fun e => (im.recs e.1).any fun r => decide (opOf r = 0x12) && bit r 70
/-- The plan uses the batch former: some SIG names its handle (R124, R248). -/
def Img.usesFormer (im : Img) : Bool := im.oplists.any fun e => (im.recs e.1).any fun r => decide (opOf r = 0x16 ∧ bits r 95 64 = 1)
/-- The first row of R154. -/
def Img.formOk (im : Img) (imgLen : Nat) : Bool :=
  im.headerOk imgLen && im.tableOk && im.zerosOk && im.dataOk && (!im.hasSnap || !(im.entries 7).isEmpty) &&
    (!im.usesFormer || !(im.entries 9).isEmpty)
/-- Every word of the check table agrees (R152, R369). -/
def Img.checksOk (im : Img) : Bool :=
  (natsFrom 0 (im.checkOff / 4096)).all fun b => decide (crc32c (im.bytes (4096 * b) 4096) = im.n (im.checkOff + 4 * b) 4)
/-- Bytes that a snapshot area needs: header line, contents over the chimney, their check words, page table and mode (R390). -/
def snapAreaMin : Nat := 64 + snapContents + 4 * snapBlocks + 32768 + 1
/-- A snapshot area lies on whole pages of the data range and holds its contents. -/
def areaOk (a : SnapArea) : Bool :=
  decide (a.area0 % 2048 = 0 ∧ a.area1 % 2048 = 0 ∧ a.bytes % 2048 = 0 ∧ snapAreaMin ≤ a.bytes) &&
    decide (a.area0 + a.bytes ≤ dramBytes ∧ a.area1 + a.bytes ≤ dramBytes)
/-- Spans of a core in its SRAM slot. -/
def Img.sramSpans (im : Img) (c : Nat) : List (Nat × Nat) :=
  (im.srams.filter fun x => decide (x.core = c)).map fun x => (x.off, x.off + x.bytes)
/-- Spans of a core in its DRAM slot, snapshot areas among them. -/
def Img.dramSpans (im : Img) (c : Nat) : List (Nat × Nat) :=
  ((im.drams.filter fun x => decide (x.core = c)).map fun x => (x.off, x.off + x.bytes)) ++
    (im.snaps.filter fun a => decide (a.core = c)).flatMap fun a => [(a.area0, a.area0 + a.bytes), (a.area1, a.area1 + a.bytes)]
/-- The spans cover a range from 0 to an end. -/
def coversTo (spans : List (Nat × Nat)) : Nat → Nat → Nat → Bool
  | 0, pos, hi => decide (hi ≤ pos)
  | k + 1, pos, hi =>
    if hi ≤ pos then true
    else
      match spans.find? fun x => decide (x.1 ≤ pos ∧ pos < x.2) with
      | some x => coversTo spans k x.2 hi
      | none => false
/-- Lines within the SRAM. -/
def linesOk (la n : Nat) : Bool := decide (1 ≤ n ∧ la + n ≤ sramLines)
/-- Entries' cores, ranges and relations: the sixth row of R154. An extent of nothing is refused (R153; DESIGN CHOICE, log entry 94). -/
def Img.entriesOk (im : Img) (cores : List Nat) : Bool :=
  let inMap := fun (c : Nat) => cores.contains c
  (im.srams.all fun x => inMap x.core && linesOk (x.off / 64) (x.bytes / 64)) &&
  (im.drams.all fun x => inMap x.core && decide (x.off % 64 = 0 ∧ x.bytes % 64 = 0 ∧ 0 < x.bytes ∧ x.off + x.bytes ≤ dramBytes)) &&
  (im.snaps.all areaOk) && ((im.entries 7).isEmpty || im.snaps.map SnapArea.core == cores) &&
  (cores.all fun c => disjoint (im.sramSpans c) && disjoint (im.dramSpans c)) &&
  (decide (im.oplists.length = cores.length) && cores.all fun c => im.oplists.any fun e => decide (e.1 = c)) &&
  (im.oplists.all fun e => decide (1 ≤ e.2 ∧ e.2 ≤ 2048) && coversTo (im.sramSpans e.1) (im.srams.length + 1) 0 (32 * e.2)) &&
  ((im.routes 0).all fun r => decide (r.core < 2048 ∧ r.inPort < 6 ∧ r.outPort < 6 ∧ r.inPort ≠ r.outPort ∧ r.inStream < 16 ∧ r.outStream < 16) &&
    portOk r.core r.inPort && portOk r.core r.outPort) &&
  (im.mailboxes.all fun m => inMap m.core && linesOk m.la m.lines && decide (m.index < 64 ∧ m.ctr < 16)) &&
  distinct (im.mailboxes.map Mailbox.index) && ((im.entries 5).all fun e => decide (im.n (e + 1) 1 ≤ 1)) &&
  (im.links.all fun l => decide (1 ≤ l.port ∧ l.port ≤ 24 ∧ (l.width = 1 ∨ l.width = 2 ∨ l.width = 4) ∧ l.mode ≤ 2 ∧ l.vcs < 16)) &&
  distinct (im.links.map LinkUse.port) &&
  (im.rots.all fun r => decide (r.set < 16 ∧ r.barId < 16 ∧ r.exStream < 16 ∧ 2 ≤ r.members.length ∧ r.members.length ≤ 64) &&
    r.members.all inMap) && distinct (im.rots.map RotSet.set) &&
  (match im.batch with
    | some b => inMap b.core && linesOk b.la 3 && decide (b.ctr < 16 ∧ 1 ≤ b.batchMax ∧ b.batchMax ≤ 16) &&
        decide (64 ≤ b.chunkMax ∧ b.chunkMax ≤ 65536 ∧ b.chunkMax % 64 = 0)
    | none => true)

-- Routes (R143)

/-- Input streams that a record consumes with its core. -/
def opIns (r : Rec) : List (Nat × Nat) :=
  match opOf r with
  | 0x0C => [(bits r 66 64, bits r 70 67)]
  | 0x05 => (redPorts (bits r 73 68)).map fun p => (p, bits r 83 80)
  | _ => []
/-- Output streams that a record feeds. -/
def opOuts (r : Rec) : List (Nat × Nat) :=
  match opOf r with
  | 0x0B => [(bits r 66 64, bits r 70 67)]
  | 0x05 => (redPorts (bits r 79 74)).map fun p => (p, bits r 83 80)
  | _ => []
/-- The places that XFWD installs of a list take: keys of input and output. -/
def xfwdPlaces (c : Nat) (rs : List Rec) : List (Nat × Nat) :=
  (rs.filterMap fun r =>
    if opOf r = 0x0D ∧ !bit r 78 then
      some (streamKey c (bits r 66 64) (bits r 70 67), streamKey c (bits r 73 71) (bits r 77 74))
    else none).foldl addOnce []
/-- Keys of streams of a core. -/
def streamKeysOf (c : Nat) (l : List (Nat × Nat)) : List Nat := (l.map fun e => streamKey c e.1 e.2).foldl addOnce []
/-- What a plan takes in routers: its own uses, its XFWD places and its declared routes, by input and output keys. -/
structure Taken where
  opIn : List Nat
  opOut : List Nat
  xfwd : List (Nat × Nat)
  declIn : List Nat
  declOut : List Nat
  deriving DecidableEq, Repr
/-- Input key of a route. -/
def Route.inKey (r : Route) : Nat := streamKey r.core r.inPort r.inStream
/-- Output key of a route. -/
def Route.outKey (r : Route) : Nat := streamKey r.core r.outPort r.outStream
/-- What op lists and routes take. -/
def takenBy (lists : List (Nat × List Rec)) (routes : List Route) : Taken :=
  { opIn := lists.flatMap fun e => streamKeysOf e.1 (e.2.flatMap opIns), opOut := lists.flatMap fun e => streamKeysOf e.1 (e.2.flatMap opOuts),
    xfwd := lists.flatMap fun e => xfwdPlaces e.1 e.2, declIn := routes.map Route.inKey, declOut := routes.map Route.outKey }
/-- What a plan takes. -/
def Img.taken (im : Img) : Taken := takenBy (im.oplists.map fun e => (e.1, im.recs e.1)) (im.routes 0)
/-- Input keys of the places that XFWD takes. -/
def Taken.xIn (x : Taken) : List Nat := (x.xfwd.map Prod.fst).foldl addOnce []
/-- Output keys of the places that XFWD takes. -/
def Taken.xOut (x : Taken) : List Nat := x.xfwd.map Prod.snd
/-- Two uses of the plan share a stream. -/
def Taken.clash (x : Taken) : Bool := !(distinct (x.opIn ++ x.declIn ++ x.xIn) && distinct (x.opOut ++ x.declOut ++ x.xOut))
/-- What the other partitions' plans take, reservations and installed routes among them. -/
def takenElsewhere (s : State) (p : Nat) : List Nat × List Nat :=
  let others := s.part.filter fun e => decide (e.1 ≠ p)
  let routes := s.routes.filter fun r => decide (r.owner ≠ p)
  let uses := others.flatMap fun e => match e.2.plan with
    | some pl => e.2.cores.map fun c => (c, (natsFrom 0 (mget pl.records c 0)).map (recAt s c))
    | none => []
  let t := takenBy uses routes
  let res := fun (f : Plan → List Nat) => others.flatMap fun e => (e.2.plan.map f).getD []
  (t.opIn ++ t.declIn ++ res Plan.reservedIn, t.opOut ++ t.declOut ++ res Plan.reservedOut)
/-- Routes that other partitions hold or reserve in a router. -/
def heldAt (s : State) (p c : Nat) : Nat :=
  let ks := (s.routes.filter fun r => decide (r.owner ≠ p)).map Route.inKey ++
    ((s.part.filter fun e => decide (e.1 ≠ p)).flatMap fun e => (e.2.plan.map Plan.reservedIn).getD [])
  ((ks.filter fun k => decide (k / 96 = c)).foldl addOnce []).length
/-- The route checks of R143: the first that fails, with the router that it concerns. A stream that the plan's own RCV, SND or RED needs and
another partition's route holds or reserves is TRANSIT_BUSY, as for a route (DESIGN CHOICE, log entry 94). -/
def routeCheck (s : State) (p : Nat) (im : Img) : Option (Status × Option Nat) :=
  let t := im.taken
  let e := takenElsewhere s p
  let routers := ((t.declIn ++ t.xIn).map (· / 96)).foldl addOnce []
  let busy := ((t.opIn ++ t.declIn ++ t.xIn).find? e.1.contains).orElse fun _ => (t.opOut ++ t.declOut ++ t.xOut).find? e.2.contains
  let mine := fun (c : Nat) => ((t.declIn ++ t.xIn).filter fun k => decide (k / 96 = c)).length
  if t.clash then some (.badDescriptor, none)
  else
    match busy with
    | some k => some (.transitBusy, some (k / 96))
    | none =>
      match routers.find? fun c => decide (heldAt s p c + mine c > 32) with
      | some c => some (.noFit, some c)
      | none => (((t.declIn.map (· / 96)).find? s.isRouterQuar).map fun c => (Status.quarantined, some c))

-- Links (R161, R303)

/-- Muold ports that a plan uses: those of its link table, and those whose D port its ops and routes name. -/
def Img.ports (im : Img) : List Nat :=
  let t := im.taken
  let ks := (t.opIn ++ t.opOut ++ t.declIn ++ t.declOut ++ t.xIn ++ t.xOut).filter fun k => decide (k / 16 % 6 = 5)
  (im.links.map LinkUse.port ++ ks.filterMap fun k => portOfCore (k / 96)).foldl addOnce []
/-- Lanes of a port by its inventory code (R300). -/
def lanesOf (w : Nat) : Nat := if w = 3 then 4 else w
/-- The link-table entry meets the inventory: UP, wide enough, in its mode (R161). -/
def linkFits (s : State) (l : LinkUse) : Bool :=
  let v := s.portAt l.port
  decide (v.state = .up) && decide (l.width ≤ lanesOf v.width) && (decide (l.mode = 2) || (v.lr == decide (l.mode = 1)))
/-- The peer is the expected one (R303). -/
def peerFits (s : State) (l : LinkUse) : Bool :=
  (decide (l.peerTray = 0xFFFF ∧ l.peerSlot = 0xFF ∧ l.peerPort = 0xFF)) || (match (s.portAt l.port).peer with
    | some i => decide (bits i.unit 31 23 = l.peerTray ∧ bits i.unit 22 20 = l.peerSlot ∧ bits i.unit 8 0 = 319 + l.peerPort)
    | none => false)
/-- The port leads to another tray: its peer lies there, or the plan expects one there. -/
def otherTray (s : State) (im : Img) (p : Nat) : Bool :=
  (match (s.portAt p).peer with
    | some i => decide (bits i.unit 31 23 ≠ s.lnk.tray.toNat)
    | none => false) ||
  im.links.any fun l => decide (l.port = p ∧ l.peerTray ≠ 0xFFFF ∧ l.peerTray ≠ s.lnk.tray.toNat)
/-- A barrier of tray or pod scope finds the members that the plan names (R303, R307). -/
def membersReached (s : State) (im : Img) : Bool :=
  let scopes := im.oplists.flatMap fun e => ((im.recs e.1).filter fun r => decide (opOf r = 0x12)).map fun r => bits r 72 71
  let tray := im.links.all fun l => decide (l.peerTray ≠ s.lnk.tray.toNat) || decide (l.peerSlot = s.slot) ||
    (portToSlot s l.peerSlot).isSome
  let tree := rootTray s || (treeEdge s s.lnk.tray.toNat.log2).isSome
  (!(scopes.any fun x => decide (x ≥ 1)) || tray) && (!scopes.contains 2 || tree)
/-- The link checks of R3, R161 and R303: the first that fails, with its port. A port that is UNLICENSED because its peer alone lacks
POD is not UP: NO_FIT (DESIGN CHOICE, log entry 68). -/
def linkCheck (s : State) (im : Img) (cores : List Nat) : Option (Status × Option Nat) :=
  let at_ := fun (st : Status) (p : Nat) => (st, some p)
  let ps := im.ports
  ((ps.find? fun p => !cores.contains (portCore p)).map (at_ .noFit)).orElse fun _ =>
  ((ps.find? fun p => decide (p ≥ 13) && !licensedPorts s).map (at_ .licenceDenied)).orElse fun _ =>
  ((ps.find? fun p => otherTray s im p && !bit s.sec.features 2).map (at_ .licenceDenied)).orElse fun _ =>
  ((ps.find? fun p => !portUp s p).map (at_ .noFit)).orElse fun _ =>
  ((im.links.find? fun l => !linkFits s l).map fun l => at_ .noFit l.port).orElse fun _ =>
  ((im.links.find? fun l => !peerFits s l).map fun l => at_ .noFit l.port).orElse fun _ =>
  if membersReached s im then none else some (.noFit, none)
where
  /-- PORTS24 is in force. -/
  licensedPorts (s : State) : Bool := bit s.sec.features 1

-- Rotation sets (R363)

/-- Places that lines sent on a stream reach over the declared routes: from an arrival at a core's port, the cores at which no route
takes them on. -/
def follow (routes : List Route) (st : Nat) : Nat → Nat → Nat → Option Nat
  | 0, _, _ => none
  | k + 1, c, port =>
    match routes.find? fun r => decide (r.core = c ∧ r.inPort = port ∧ r.inStream = st) with
    | none => some c
    | some r =>
      if r.outStream ≠ st then none
      else
        match neighbour c r.outPort with
        | some (d, q) => follow routes st k d q
        | none => none
/-- A member hasPath another over some port. -/
def hasPath (routes : List Route) (st a b : Nat) : Bool :=
  (natsFrom 0 6).any fun p => match neighbour a p with
    | some (d, q) => decide (follow routes st (routes.length + 1) d q = some b)
    | none => false
/-- The rotation checks of R363. -/
def rotOk (s : State) (im : Img) : Bool :=
  let members := im.rots.flatMap RotSet.members
  let uses := fun (c : Nat) => (im.recs c).any fun r => decide (opOf r = 0x0E ∨ opOf r = 0x0F ∨ opOf r = 0x10)
  let holds := fun (c : Nat) => (s.regionAt c).table.any fun e => pteValid e.2
  distinct members && members.all fun c => !uses c && !holds c && !(im.snaps.any fun a => decide (a.core = c)) &&
    (im.rots.all fun r => !r.members.contains c || r.members.all fun d => decide (d = c) || hasPath (im.routes 0) r.exStream c d)

-- Restore (R390, R393)

/-- Slot offsets of one of a plan's two areas, by core. -/
def planAreas (snaps : List SnapArea) (area : Nat) : List (Nat × Nat) := snaps.map fun a => (a.core, if area = 0 then a.area0 else a.area1)
/-- The header of a snapshot stands in every core's area, taken (R390). -/
def headersStand (s : State) (x : Snapshot) : Bool :=
  x.offsets.all fun a =>
    let l := rdLine s.mem (dramDpa a.1 a.2)
    decide (bits l 31 0 = x.number % 2 ^ 32 ∧ bits l 33 32 = 3)
/-- Snapshots that a plan's areas hold, taken. -/
def heldSnaps (s : State) (snaps : List SnapArea) : List Snapshot :=
  s.snaps.filter fun x => decide (x.state = 3) && (x.offsets == planAreas snaps 0 || x.offsets == planAreas snaps 1) && headersStand s x
/-- TIME of a snapshot: the latest of its headers. -/
def Snapshot.latest (x : Snapshot) : Nat := x.time.foldl (fun a e => max a e.2.toNat) 0
/-- The latest of some snapshots. -/
def latestSnap : List Snapshot → Option Snapshot
  | [] => none
  | x :: xs => some (xs.foldl (fun a y => if a.latest < y.latest then y else a) x)
/-- The snapshot that RESTORE names. -/
def restoreSnap (s : State) (im : Img) : Option Snapshot :=
  let xs := if im.snaps.isEmpty then [] else heldSnaps s im.snaps
  if im.restore = 0xFFFFFFFF then latestSnap xs else latestSnap (xs.filter fun x => decide (x.number % 2 ^ 32 = im.restore))

-- All checks, in their order (R154)

/-- The op list of a core as the image gives it, in its context. -/
def Img.list (im : Img) (s : State) (c : Nat) : ListCtx :=
  { core := c, grade := s.fuse.grade, train := bit s.sec.features 0, pod := bit s.sec.features 2, recs := im.recs c }
/-- The first check that fails, with the unit that it concerns. -/
def imageCheck (s : State) (p : Nat) (cores : List Nat) (im : Img) (imgLen : Nat) : Option (Status × W32) :=
  let router := fun (x : Status × Option Nat) => (x.1, match x.2 with
    | some c => coreUnit s c 100
    | none => noUnit)
  let port := fun (x : Status × Option Nat) => (x.1, match x.2 with
    | some q => portUnit s q
    | none => noUnit)
  if !im.formOk imgLen then some (.badDescriptor, noUnit)
  else if !im.checksOk then some (.checkMismatch, noUnit)
  else if im.n 6 1 ≠ s.fuse.grade.arrays then some (.noFit, noUnit)
  else if BitVec.ofNat 3 im.features &&& ~~~s.sec.features ≠ 0 then some (.licenceDenied, noUnit)
  else if im.coreMap ≠ cores then some (.noFit, noUnit)
  else if !im.entriesOk cores then some (.badDescriptor, noUnit)
  else
    match cores.findSome? fun c => ((im.list s c).check).map fun x => (x.1, coreUnit s c 104) with
    | some x => some x
    | none =>
      ((routeCheck s p im).map router).orElse fun _ =>
      ((linkCheck s im cores).map port).orElse fun _ =>
      if !rotOk s im then some (.badDescriptor, noUnit)
      else if im.restore ≠ 0 ∧ (restoreSnap s im).isNone then some (.noFit, noUnit)
      else none
/-- The declarations that a load records (R155). -/
def Img.plan (im : Img) (p : Nat) (dpa : Bool) (addr : Nat) : Plan :=
  let t := im.taken
  { records := im.oplists.foldl (fun m e => mset m e.1 e.2 0) [], routes := im.routes p, reservedIn := t.declIn ++ t.xIn,
    reservedOut := t.declOut ++ t.xOut, mailboxes := im.mailboxes, links := im.links, snaps := im.snaps, rots := im.rots,
    batch := im.batch, job := BitVec.ofNat 32 (im.n 16 4), timeout := im.n 20 4, features := im.features, hasSnap := im.hasSnap,
    imgDpa := dpa, imgAddr := BitVec.ofNat 64 addr, imgLen := im.len }

end Sys2Proof.Machine
end

