-- ==== Sys2Proof/Machine/PartOps.lean ====
section
/-! DEFINITION. Partition descriptors but for the plan load (R133, R147 to R151, R156, R157): create, start, quiesce, resume, reset,
unload, destroy, query, snapshot, and router reset. -/

namespace Sys2Proof.Machine

/-- What a partition command answers in a state that does not accept it (R149). -/
def Eff.conflict (s : State) : Eff := Eff.no s .stateConflict

-- Create (R147, R149)

/-- Cores of the 256-byte map at an address of host memory. -/
def mapCores (bs : List Byte) : List Nat := (natsFrom 0 2048).filter fun c => bit (bs.getD (c / 8) 0) (c % 8)
/-- Neighbours of a core. -/
def neighbours (c : Nat) : List Nat := (natsFrom 0 6).filterMap fun p => (neighbour c p).map Prod.fst
/-- Cores of a set that lie next to reached ones, until there are none. -/
def reach (cores : List Nat) : Nat → List Nat → List Nat → List Nat
  | 0, _, seen => seen
  | k + 1, new, seen =>
    match (cores.filter fun c => !seen.contains c && (neighbours c).any new.contains) with
    | [] => seen
    | next => reach cores k next (seen ++ next)
/-- The set is connected under the six-neighbour adjacency. -/
def connected (cores : List Nat) : Bool :=
  match cores with
  | [] => false
  | c :: _ => decide ((reach cores 2048 [c] [c]).length = cores.length)
/-- PART_CREATE (R149). -/
def partCreateEff (s : State) (_ : DescEnv) (d : Line) : Eff :=
  let cores := mapCores (rdBytes s.hostMem (descAddr d) 256)
  if descAddr d % 64 ≠ 0 then Eff.no s .badDescriptor
  else if (s.part? (descPart d)).isSome then Eff.conflict s
  else if !connected cores then Eff.no s .badDescriptor
  else if cores.any fun c => (s.ownerOf c).isSome then Eff.conflict s
  else
    match cores.find? s.isQuar with
    | some c => .fail s .quarantined (coreUnit s c 0) 0
    | none => Eff.done (s.setPart (descPart d) (Partition.fresh cores))
/-- PART_CREATE as a row. -/
def execPartCreate (ch : ChanId) (s : State) : Res := .next (descRow s ch.val 0x18 anyDesc partCreateEff)

-- Start and resume (R149)

/-- A licence of SEC_LIC_STATE: 0 TRAIN, 1 PORTS24, 2 POD. -/
def licensed (s : State) (i : Nat) : Bool := bit s.sec.features i
/-- The op list of a core as its SRAM holds it. -/
def listNow (s : State) (c : Nat) : ListCtx :=
  { core := c, grade := s.fuse.grade, train := licensed s 0, pod := licensed s 2,
    recs := (natsFrom 0 (recordsOf s c)).map (recAt s c) }
/-- First core of a list whose op list fails R128, with the status. -/
def firstBadList (f : Nat → ListCtx) (cores : List Nat) : Option (Status × Nat) :=
  cores.findSome? fun c => ((f c).check).map fun x => (x.1, c)
/-- Every sequencer of a partition leaves STOPPED. -/
def releaseSeqs (s : State) (cores : List Nat) : State :=
  cores.foldl (fun st c => st.modCore c fun k => if k.seq = .stopped then { k with seq := .running } else k) s
/-- A router that the op lists as they stand, the declared routes and the other partitions would give more than 32 routes (R128,
R143). -/
def fullRouter (s : State) (p : Nat) (v : Partition) : Option Nat :=
  let t := takenBy (v.cores.map fun c => (c, (listNow s c).recs)) ((v.plan.map Plan.routes).getD [])
  let ks := t.declIn ++ t.xIn
  ((ks.map (· / 96)).foldl addOnce []).find? fun c => decide (heldAt s p c + (ks.filter fun k => decide (k / 96 = c)).length > 32)
/-- START and RESUME: the op lists are checked again; then the partition runs. -/
def runPart (s : State) (p : Nat) (v : Partition) : Eff :=
  match firstBadList (listNow s) v.cores, fullRouter s p v with
  | some (st, c), _ => .fail s st (coreUnit s c 104) 0
  | none, some c => .fail s .noFit (coreUnit s c 100) 0
  | none, none => Eff.done ((releaseSeqs s v.cores).modPart p fun v => { v with state := .running, runSince := s.time.now })
/-- CMD of PART_CTRL. -/
def partCmd (d : Line) : Nat := bits d 74 72
/-- START. -/
def startEff (s : State) (p : Nat) : Eff :=
  match s.part? p with
  | some v => if v.state = .loaded then runPart s p v else Eff.conflict s
  | none => Eff.conflict s
/-- RESUME. -/
def resumeEff (s : State) (p : Nat) : Eff :=
  match s.part? p with
  | some v => if v.state = .quiesced then runPart s p v else Eff.conflict s
  | none => Eff.conflict s

-- Quiesce, reset, unload (R133, R149, R156, R389)

/-- QUIESCE: it completes once the partition has stopped; in a group with the group. -/
def quiesceEff (s : State) (e : DescEnv) (p : Nat) : Eff :=
  match s.part? p with
  | some v =>
    if v.state = .running then .run (s.modPart p fun v => { v with quiesce := some e.ch }) 0 else Eff.conflict s
  | none => Eff.conflict s
/-- RESET: from FAILED only without a quarantined core (R389). A waiting QUIESCE is work that the reset ends. -/
def resetEff (s : State) (p : Nat) : Eff :=
  match s.part? p with
  | none => Eff.conflict s
  | some v =>
    match v.state with
    | .loaded | .running | .quiesced | .failed =>
      match (if v.state = .failed then v.cores.find? s.isQuar else none) with
      | some c => .fail s .quarantined (coreUnit s c 0) 0
      | none =>
        let s := resetPartition (dropSnapReq (endQuiesce s p .resetAborted) p) p
        Eff.done (settleRouters (s.modPart p fun v => { v with state := .loaded, faults := 0 }))
    | _ => Eff.conflict s
/-- A partition without its plan. -/
def Partition.unloaded (v : Partition) : Partition := { v with state := .free, plan := none, faults := 0, rotWanted := [], rotating := [] }
/-- UNLOAD: every route of the partition goes. -/
def unloadEff (s : State) (p : Nat) : Eff :=
  match s.part? p with
  | none => Eff.conflict s
  | some v =>
    match v.state with
    | .loaded | .quiesced | .failed =>
      Eff.done ((clearArrivals (removeRoutes (resetStreams s p) p) p).modPart p Partition.unloaded)
    | _ => Eff.conflict s
/-- PART_CTRL (R149). -/
def partCtrlEff (s : State) (e : DescEnv) (d : Line) : Eff :=
  match partCmd d with
  | 0 => startEff s (descPart d)
  | 1 => quiesceEff s e (descPart d)
  | 2 => resumeEff s (descPart d)
  | 3 => resetEff s (descPart d)
  | 4 => unloadEff s (descPart d)
  | _ => Eff.no s .badDescriptor
/-- A PART_CTRL of a CMD. -/
def cmdIs (k : Nat) (d : Line) : Bool := decide (partCmd d = k)
/-- PART_CTRL START. -/
def execPartStart (ch : ChanId) (s : State) : Res := .next (descRow s ch.val 0x1A (cmdIs 0) partCtrlEff)
/-- PART_CTRL QUIESCE. -/
def execPartQuiesce (ch : ChanId) (s : State) : Res := .next (descRow s ch.val 0x1A (cmdIs 1) partCtrlEff)
/-- PART_CTRL RESUME. -/
def execPartResume (ch : ChanId) (s : State) : Res := .next (descRow s ch.val 0x1A (cmdIs 2) partCtrlEff)
/-- PART_CTRL RESET. -/
def execPartReset (ch : ChanId) (s : State) : Res := .next (descRow s ch.val 0x1A (cmdIs 3) partCtrlEff)
/-- PART_CTRL UNLOAD. -/
def execPartUnload (ch : ChanId) (s : State) : Res := .next (descRow s ch.val 0x1A (cmdIs 4) partCtrlEff)

-- Destroy (R149, R151, R277, R346)

/-- A COMPUTE channel bound to a partition is not CLOSED. -/
def boundChannel (s : State) (p : Nat) : Bool := s.hst.chans.any fun e => e.2.live && decide (e.2.kind = 0 ∧ e.2.part = p)
/-- A region whose core has left its partition is in NORMAL mode (R151). -/
def toNormal (s : State) (c : Nat) : State := if (s.regionAt c).mode = .normal then s else stopRegion s c
/-- PART_DESTROY. -/
def partDestroyEff (s : State) (_ : DescEnv) (d : Line) : Eff :=
  let p := descPart d
  match s.part? p with
  | none => Eff.conflict s
  | some v =>
    if v.state ≠ .free || boundChannel s p then Eff.conflict s
    else
      let s := v.cores.foldl toNormal (dropModeWaits s v.cores .stateConflict)
      Eff.done { s with part := mdel s.part p, pwr := { s.pwr with partInt := mdel s.pwr.partInt p, estSum := mdel s.pwr.estSum p } }
/-- PART_DESTROY as a row. -/
def execPartDestroy (ch : ChanId) (s : State) : Res := .next (descRow s ch.val 0x1B anyDesc partDestroyEff)

-- Query (R150)

/-- Routers outside a partition that hold its routes. -/
def routesOut (s : State) (p : Nat) (v : Partition) : Nat :=
  (((s.routes.filter fun r => decide (r.owner = p) && !v.cores.contains r.core).map Route.core).foldl addOnce []).length
/-- Another partition's route lies in a router of this one. -/
def crossed (s : State) (p : Nat) (v : Partition) : Bool := s.routes.any fun r => decide (r.owner ≠ p) && v.cores.contains r.core
/-- The partition status word (R150). -/
def partWord (s : State) (p : Nat) : Nat :=
  match s.part? p with
  | none => 7 + p * 2 ^ 8
  | some v =>
    v.state.code + p * 2 ^ 8 + v.cores.length * 2 ^ 16 + v.epoch.toNat * 2 ^ 32 + min 63 (routesOut s p v) * 2 ^ 40 +
      b2n (crossed s p v) * 2 ^ 46
/-- PART_QUERY (R150). -/
def partQueryEff (s : State) (_ : DescEnv) (d : Line) : Eff := .ok s (BitVec.ofNat 128 (partWord s (descPart d)))
/-- PART_QUERY as a row. -/
def execPartQuery (ch : ChanId) (s : State) : Res := .next (descRow s ch.val 0x1C anyDesc partQueryEff)

-- Snapshot request (R133, R277)

/-- PART_SNAPSHOT: it completes when the snapshot counts as taken. -/
def partSnapshotEff (s : State) (e : DescEnv) (d : Line) : Eff :=
  match s.part? (descPart d) with
  | none => Eff.conflict s
  | some v =>
    if v.state ≠ .running || !(v.plan.map Plan.hasSnap).getD false then Eff.conflict s
    else .run (s.modPart (descPart d) fun v => { v with snapReq := some e.ch }) 0
/-- PART_SNAPSHOT as a row. -/
def execPartSnapshot (ch : ChanId) (s : State) : Res := .next (descRow s ch.val 0x1D anyDesc partSnapshotEff)

-- Router reset (R156, R157)

/-- Partitions with a route in a router. -/
def routeOwners (s : State) (c : Nat) : List Nat := ((s.routes.filter fun r => decide (r.core = c)).map Route.owner).foldl addOnce []
/-- The state of a partition by its ID. -/
def partState (s : State) (p : Nat) : Option PState := (s.part? p).map Partition.state
/-- Another partition whose route lies in the router is not stopped (R157). -/
def routerHeld (s : State) (c : Nat) : Bool :=
  (routeOwners s c).any fun p => decide (s.ownerOf c ≠ some p) && match partState s p with
    | some .quiesced | some .loaded | some .failed => false
    | _ => true
/-- ROUTER_RESET (R157); a quarantined core's router takes no command (R23). -/
def routerResetEff (s : State) (_ : DescEnv) (d : Line) : Eff :=
  let c := descCore d
  if s.isQuar c then .fail s .quarantined (coreUnit s c 100) 0
  else if s.ownerState c = .running then Eff.conflict s
  else if routerHeld s c then .fail s .transitBusy (coreUnit s c 100) 0
  else Eff.done (resetRouter s c)
/-- ROUTER_RESET as a row. -/
def execRouterReset (ch : ChanId) (s : State) : Res := .next (descRow s ch.val 0x22 anyDesc routerResetEff)

end Sys2Proof.Machine
end

