-- ==== Sys2Proof/Machine/PlanLoad.lean ====
section
/-! DEFINITION. The plan load (R149, R155, R338, R388, R393): its start, the switch-on of the power regions that it needs, the writes,
and what a restore takes from a snapshot. -/

namespace Sys2Proof.Machine

-- What a restore takes from a snapshot (R132, R155, R392, R393)

/-- The receive side of a stream as a snapshot holds it. -/
def Stream.takeIn (v x : Stream) : Stream :=
  { v with buf := x.buf, wire := x.wire, recvPos := x.recvPos, recvCrc := x.recvCrc, recvSince := x.recvSince }
/-- The sending side of a stream as a snapshot holds it; toward a Muold port the credits stay as the reset left them. -/
def Stream.takeOut (v x : Stream) (port : Bool) : Stream :=
  { v with sendPos := x.sendPos, sendCrc := x.sendCrc, sendSince := x.sendSince,
           credits := if port then v.credits else x.credits, creditsBack := if port then v.creditsBack else x.creditsBack }
/-- Restores a partition's own streams; the credits of their senders, and of the partition where it sends, match the buffers as they
stand (R137). -/
def restoreStreams (s : State) (p : Nat) (x : Snapshot) : State :=
  x.streams.foldl (fun st e =>
    let v := st.streamAt e.1
    let v := if inOwner s e.1 = some p then v.takeIn e.2 else v
    let v := if outOwner s e.1 = some p then v.takeOut e.2 (dPort (e.1 / 96) (e.1 / 16 % 6)).isSome else v
    let st := matchCredit (st.setStream e.1 v) e.1
    match facing e.1 with
    | some f => matchCredit st f
    | none => st) s
/-- A core's sequencer as a snapshot holds it; its cycle counter goes on from the captured value. -/
def restoreCore (x : Snapshot) (s : State) (c : Nat) : State :=
  let k := mget x.cores c Core.empty
  s.modCore c fun old =>
    { k with cycBase := s.quadCycles c - k.cycBase, frozen := old.frozen, scrubLine := old.scrubLine,
             scrubStart := old.scrubStart }
/-- The routes of a partition in its own routers as a snapshot holds them (R95). -/
def restoreRoutes (s : State) (p : Nat) (v : Partition) (x : Snapshot) : State :=
  { s with routes := (s.routes.filter fun r => !(decide (r.owner = p) && v.cores.contains r.core)) ++
      (x.routes.filter fun r => v.cores.contains r.core).map fun r => { r with owner := p } }
/-- SRAM of a core from a slot offset on, out of the core's snapshot area. -/
def restoreSram (x : Snapshot) (s : State) (c lo : Nat) : State :=
  let a := sramDpa c lo
  let n := sramBytes - lo
  { s with
    mem := (x.offsets.find? fun e => decide (e.1 = c)).elim s.mem fun e =>
      (sliceMem (dramMem s) (areaData e + lo) n).foldl (fun m b => wrByte m (b.1 - (areaData e + lo) + a) b.2) (clearMem s.mem a n),
    err := { s.err with sram := s.err.sram.filter fun e => !(decide (a / 8 ≤ e.1) && decide (e.1 < (a + n) / 8)) } }
/-- A region's page table as a snapshot holds it. -/
def restoreTable (x : Snapshot) (s : State) (c : Nat) : State := replaceTable s c (mget x.regions c Region.empty).table
/-- First word of the snapshot's areas that cannot be read. -/
def areaReads (s : State) : List (Nat × Nat) → State × Option (Nat × Nat)
  | [] => (s, none)
  | (c, off) :: t =>
    let r := dramRead s c off snapAreaMin
    match r.2 with
    | some o => (r.1, some (c, o))
    | none => areaReads r.1 t
/-- The core of the first area whose contents differ from its check table (R392). -/
def areaDiffers (s : State) (x : Snapshot) : Option Nat :=
  let m := dramMem s
  (x.offsets.find? fun a => decide (areaTable m a ≠ heldTable m a)).map Prod.fst
/-- A restored core goes on behind its SNAP barrier, and stands STOPPED there. -/
def stopBehind (s : State) (c : Nat) : State :=
  let k := s.coreAt c
  let s := match k.wait with
    | some (.bar _ _) => doneRec (advance s c) c k.pc (recAt s c k.pc)
    | _ => s
  s.modCore c fun k => if k.seq = .running then { k with seq := .stopped } else k

-- Quarantine at the plan-load check (R33, R388, R389)

/-- A core marked for a second UNCORRECTABLE in one SRAM bank is quarantined; its partition recovers as usual (R388; log entry 87). -/
def quarantineBank (s : State) (c : Nat) : State :=
  let owner := s.ownerOf c
  let s := fenceCore s c false
  let r : Report :=
    { unit := coreUnit s c 0, status := Status.quarantined.code, cls := .partitionFatal, part := owner, action := quarAction s }
  checkDegraded (match owner with
    | some p => partFault s p r
    | none => report s r)
/-- Cores marked for a second UNCORRECTABLE in one SRAM bank are quarantined, and DEV_GEOMETRY counts the list. -/
def applyBankQuar (s : State) : State :=
  let cs := s.ras.bankQuar
  let s := cs.foldl quarantineBank { s with ras := { s.ras with bankQuar := [] } }
  { s with dev := { s.dev with qAtLoad := s.ras.quar.length } }

-- The image

/-- The image of n bytes at an address of host memory or of device memory. -/
def imageAt (s : State) (dpa : Bool) (a n : Nat) : State × Except DpaFail Img :=
  if !dpa then (s, .ok ⟨shiftMem s.hostMem a n, n⟩)
  else if a + n > 2 ^ 40 then (s, .error (holeFail s))
  else
    let r := dpaRead s a n
    match r.2 with
    | .ok bs => (r.1, .ok ⟨listMem bs, n⟩)
    | .error f => (r.1, .error f)
/-- The image that a PART_LOAD names. -/
def imageOf (s : State) (d : Line) : State × Except DpaFail Img := imageAt s (bit d 70) (descAddr d) (descAddr2 d)

-- Writes (R149, R155)

/-- Writes the SRAM extents up to a limit of each core's slot. -/
def writeSrams (im : Img) (limit : Nat → Nat) (s : State) : State :=
  im.srams.foldl (fun st x =>
    let n := min x.bytes (limit x.core - x.off)
    (sramWrite st x.core x.off (im.bytes x.data n)).1) s
/-- Writes the DRAM extents; a word that a running NBU command or a mirror protects is a fault of the write (R219). -/
def writeDrams (im : Img) : State → List Extent → State × Option DpaFail
  | s, [] => (s, none)
  | s, x :: t =>
    match writeDram s x.core x.off (im.bytes x.data x.bytes) with
    | .done s' => writeDrams im s' t
    | .fail s' f => (s', some f)
    | .full .. => (s, none)
/-- The SRAM of a core after a fault while a plan is written: undefined (R149). -/
def freeSram (s : State) (c : Nat) : State :=
  freeBytes s (sramDpa c 0) sramBytes
/-- The earlier snapshots of a partition belong to no plan any longer; their areas keep them (R393). -/
def detachSnaps (s : State) (p : Nat) : State :=
  { s with snaps := (s.snaps.filter fun x => decide (¬(x.part = p ∧ x.state ≠ 3))).map fun x => if x.part = p then { x with part := 255 } else x }
/-- A snapshot becomes the partition's latest (R390, R393). -/
def attachSnap (s : State) (p : Nat) (x : Snapshot) : State :=
  let y := { x with part := p, area := if x.offsets = areasOf s p 0 then 0 else 1 }
  ({ s with snaps := s.snaps.map fun z => if z = x then y else z }).modPart p fun v =>
    { v with lastSnap := some x.number, nextSnap := x.number + 1 }
/-- A partition with its plan, and nothing yet done under it. -/
def Partition.withPlan (v : Partition) (pl : Plan) : Partition :=
  { v with state := .loaded, plan := some pl, quiesce := none, snapReq := none, faults := 0, nextSnap := 1, lastSnap := none,
           rotations := 0, rotWanted := [], rotating := [] }
/-- The op list of a core ends here. -/
def listEnd (pl : Plan) (c : Nat) : Nat := 32 * mget pl.records c 0
/-- Takes a named snapshot under a loaded plan. -/
def takeRestore (s : State) (p : Nat) (v : Partition) (pl : Plan) (x : Snapshot) : State × Option DpaFail :=
  let r := areaReads s x.offsets
  match r.2, areaDiffers r.1 x with
  | some (c, o), _ => (r.1, some (unitFail s c (64 + bankOf o) .uncorrectable (dramDetail r.1 c o false)))
  | none, some c => (r.1, some (unitFail s c 96 .checkMismatch 0))
  | none, none =>
    let s := v.cores.foldl (fun st c => restoreTable x (restoreSram x (restoreCore x st c) c (listEnd pl c)) c) r.1
    let s := restoreRoutes (restoreStreams s p x) p v x
    (v.cores.foldl stopBehind (attachSnap s p x), none)
/-- Writes a checked image into a partition (R155). -/
def applyImage (s : State) (p : Nat) (v : Partition) (im : Img) (pl : Plan) : State × Option DpaFail :=
  let snap := if im.restore = 0 then none else restoreSnap s im
  let s := stopCores (detachSnaps s p) p
  let limit := fun (c : Nat) => match snap with
    | some _ => listEnd pl c
    | none => sramBytes
  let w := writeDrams im (writeSrams im limit s) im.drams
  match w.2 with
  | some f => (w.1, some f)
  | none =>
    let s := installDeclared (removeRoutes (w.1.setPart p (v.withPlan pl)) p) p
    match snap with
    | some x => takeRestore s p v pl { x with part := if x.part = p then 255 else x.part }
    | none => (s, none)

-- Power regions (R338)

/-- The regions that a load needs: tier and quadrant of its cores and of the routers of its declared routes. -/
def regionsOf (cores : List Nat) (pl : Plan) : List (Nat × Nat) :=
  ((cores ++ pl.routes.map Route.core).map fun c => (tierOf c, quadOf c)).foldl addOnce []
/-- State of a region. -/
def quadAt (s : State) (r : Nat × Nat) : QState := mget (s.pwrAt r.1).quads r.2 QState.off
/-- Requests the switch-on of a region that is OFF. -/
def requestRegion (s : State) (r : Nat × Nat) : State :=
  if quadAt s r = .off then
    s.modPwr r.1 fun v => { v with
      quads := mset v.quads r.2 .admitting QState.off,
      queue := v.queue ++ [{ kind := .compute, target := r.2, phase := 0, waited := false, again := false, bubbles := 0 }] }
  else s
-- The load

/-- A load that ends without its plan: the partition is FREE again. -/
def loadFails (s : State) (p : Nat) (st : Status) (unit : W32) : Eff := .fail (s.modPart p fun v => { v with state := .free }) st unit 0
/-- Writes the plan, or meets a fault while it does. -/
def commitLoad (s : State) (ch : Nat) (d : Line) (p : Nat) (v : Partition) (im : Img) (pl : Plan) : Eff :=
  let w := applyImage s p v im pl
  match w.2 with
  | none => Eff.done w.1
  | some f =>
    let s := reportDesc (v.cores.foldl freeSram (removeRoutes w.1 p)) ch d f
    loadFails (s.setPart p { v with plan := none }) p f.status (f.concerned s)
/-- The checks of a load, in a partition of whatever state: its image and declarations, or the refusal. -/
def checkLoad (s : State) (ch : Nat) (p : Nat) (v : Partition) (d : Line) : State × Except (Status × W32) (Img × Plan) :=
  match v.cores.find? s.isQuar with
  | some c => (s, .error (.quarantined, coreUnit s c 0))
  | none =>
    let r := imageOf s d
    match r.2 with
    | .error f => (reportDesc r.1 ch d f, .error (f.status, f.concerned s))
    | .ok im =>
      match imageCheck r.1 p v.cores im (descAddr2 d) with
      | some x => (r.1, .error x)
      | none => (r.1, .ok (im, im.plan p (bit d 70) (descAddr d)))
/-- PART_LOAD (R149): the checks; then the regions are switched on, and the plan is written once they are. A commit group has its
regions switched on before its instant (R281). -/
def partLoadEff (s : State) (e : DescEnv) (d : Line) : Eff :=
  let p := descPart d
  match s.part? p with
  | none => Eff.conflict s
  | some v =>
    if v.state ≠ .free then Eff.conflict s
    else
      let s := (applyBankQuar s).modPart p fun v => { v with state := .free }
      let r := checkLoad s e.ch p v d
      match r.2 with
      | .error (st, unit) => .fail r.1 st unit 0
      | .ok (im, pl) =>
        let rs := regionsOf v.cores pl
        if e.grp || rs.all (fun q => decide (quadAt r.1 q = .on)) then commitLoad r.1 e.ch d p v im pl
        else .run ((rs.foldl requestRegion r.1).modPart p fun v => { v with state := .loading }) 0
/-- PART_LOAD as a row. -/
def execPartLoad (ch : ChanId) (s : State) : Res := .next (descRow s ch.val 0x19 anyDesc partLoadEff)
/-- A running PART_LOAD whose regions have been decided: it ends with POWER_DENIED, or its image is checked and written. -/
def finishLoad (s : State) (ch : Nat) (d : Line) : Eff :=
  let p := descPart d
  match s.part? p with
  | none => Eff.no s .resetAborted
  | some v =>
    if v.state ≠ .loading then Eff.no s .powerDenied
    else
      let r := checkLoad s ch p v d
      match r.2 with
      | .error (st, unit) => loadFails r.1 p st unit
      | .ok (im, pl) =>
        let rs := regionsOf v.cores pl
        if rs.any fun q => decide (quadAt r.1 q = .off) then loadFails r.1 p .powerDenied noUnit
        else if rs.all fun q => decide (quadAt r.1 q = .on) then commitLoad r.1 ch d p { v with state := .free } im pl
        else .run s 0

end Sys2Proof.Machine
end

