-- ==== Sys2Proof/Machine/TileOps.lean ====
section
/-! DEFINITION. The tile ops as commands (R99 to R126): each issues the record at the program counter of a core, when that
record has the op's opcode and may issue; a command that finds another record, or none that may issue, is held off and
changes nothing. -/

namespace Sys2Proof.Machine

/-- Every record of an opcode. -/
def anyRec : Rec → Bool := fun _ => true

/-- MMA (R71 to R76, R103, R104). -/
def execMma (c : CoreId) (s : State) : Res := .next (issueTile s c.val 0x01 anyRec)
/-- MMAP (R77, R78, R105). -/
def execMmap (c : CoreId) (s : State) : Res := .next (issueTile s c.val 0x02 anyRec)
/-- EWA (R79, R106). -/
def execEwa (c : CoreId) (s : State) : Res := .next (issueTile s c.val 0x03 anyRec)
/-- VFN (R86 to R88, R107). -/
def execVfn (c : CoreId) (s : State) : Res := .next (issueTile s c.val 0x04 anyRec)
/-- RED (R108). -/
def execRed (c : CoreId) (s : State) : Res := .next (issueTile s c.val 0x05 anyRec)
/-- QSCAN (R109, R110). -/
def execQscan (c : CoreId) (s : State) : Res := .next (issueTile s c.val 0x06 anyRec)
/-- QCONV (R109, R110). -/
def execQconv (c : CoreId) (s : State) : Res := .next (issueTile s c.val 0x07 anyRec)
/-- DQ (R109, R110). -/
def execDq (c : CoreId) (s : State) : Res := .next (issueTile s c.val 0x08 anyRec)
/-- SMX (R111, R112). -/
def execSmx (c : CoreId) (s : State) : Res := .next (issueTile s c.val 0x09 anyRec)
/-- SMXM (R113). -/
def execSmxm (c : CoreId) (s : State) : Res := .next (issueTile s c.val 0x0A anyRec)
/-- SND (R114). -/
def execSnd (c : CoreId) (s : State) : Res := .next (issueTile s c.val 0x0B anyRec)
/-- RCV (R114, R115). -/
def execRcv (c : CoreId) (s : State) : Res := .next (issueTile s c.val 0x0C anyRec)
/-- XFWD that installs a route (R116). -/
def execXfwdInstall (c : CoreId) (s : State) : Res := .next (issueTile s c.val 0x0D fun r => !bit r 78)
/-- XFWD that releases a route (R116). -/
def execXfwdRelease (c : CoreId) (s : State) : Res := .next (issueTile s c.val 0x0D fun r => bit r 78)
/-- CHRD (R117). -/
def execChrd (c : CoreId) (s : State) : Res := .next (issueTile s c.val 0x0E anyRec)
/-- CHWR (R117). -/
def execChwr (c : CoreId) (s : State) : Res := .next (issueTile s c.val 0x0F anyRec)
/-- NBC with ACTION CMD (R118). -/
def execNbcCmd (c : CoreId) (s : State) : Res := .next (issueTile s c.val 0x10 fun r => decide (nbcAction r = 0))
/-- NBC with ACTION RESULT (R118). -/
def execNbcResult (c : CoreId) (s : State) : Res := .next (issueTile s c.val 0x10 fun r => decide (nbcAction r = 1))
/-- CHK (R121). -/
def execChk (c : CoreId) (s : State) : Res := .next (issueTile s c.val 0x13 anyRec)
/-- OPTU (R125, R126). -/
def execOptu (c : CoreId) (s : State) : Res := .next (issueTile s c.val 0x17 anyRec)

/-- WAIT (R119). -/
def execWait (c : CoreId) (s : State) : Res := if mayIssue s c.val 0x11 then .next (fetched s c.val fun st => startWait st c.val) else .next s
/-- WAIT_CONDITION_MET (R119): the condition of the WAIT on which the sequencer holds issue has come true. -/
def execWaitConditionMet (c : CoreId) (s : State) : Res :=
  match (s.coreAt c.val).wait with
  | some (.wait src index value base) =>
    if waitMet s c.val src index value base then .next (endWait s c.val src index value) else .next s
  | _ => .next s
/-- BAR (R120). -/
def execBar (c : CoreId) (s : State) : Res := if mayIssue s c.val 0x12 then .next (fetched s c.val fun st => startBar st c.val) else .next s
/-- IDLE (R122). -/
def execIdle (c : CoreId) (s : State) : Res := if mayIssue s c.val 0x14 then .next (fetched s c.val fun st => startIdle st c.val) else .next s
/-- IDLE_SLOT_END (R122): the slot has lasted its cycles. -/
def execIdleSlotEnd (c : CoreId) (s : State) : Res :=
  match (s.coreAt c.val).wait with
  | some (.idle n (some start)) =>
    if n ≤ (s.rawCycles c.val - start).toNat then .next (endIdle s c.val) else .next s
  | _ => .next s
/-- LOOP (R123). -/
def execLoop (c : CoreId) (s : State) : Res := if mayIssue s c.val 0x15 then .next (fetched s c.val fun st => runLoop st c.val) else .next s
/-- SIG (R124): it issues once the core's signal slot is free. -/
def execSig (c : CoreId) (s : State) : Res :=
  if mayIssue s c.val 0x16 && (s.coreAt c.val).sig.isNone then .next (fetched s c.val fun st => startSig st c.val) else .next s

end Sys2Proof.Machine
end

