-- ==== Sys2Proof/Machine/Modes.lean ====
section
/-! DEFINITION. Region modes and their admissions (R199, R200, R340), the switch-on of power regions (R338, R339), and the fold of a
merge group (R216). -/

namespace Sys2Proof.Machine

-- Region modes (R118, R199, R200, R274)

/-- MODE of a REGION_MODE descriptor. -/
def descMode (d : Line) : Nat := bits d 77 76
/-- A REGION_MODE descriptor for a mode of a region. -/
def asksMode (c mode : Nat) (d : Line) : Bool := decide (descOp d = 0x20 ∧ descCore d = c ∧ descMode d = mode)
/-- A REGION_MODE descriptor is refused (R151, R200): the core's partition is LOADING, RUNNING or RECOVERING, or the core is in none,
and its region stays in NORMAL mode. -/
def modeRefused (s : State) (c mode : Nat) : Bool :=
  match s.ownerState c with
  | .loading | .running | .recovering => true
  | _ => decide (mode = 1) && (s.ownerOf c).isNone
/-- REGION_MODE (R200); in a group it takes effect at the group's instant, so it waits behind no other request, and the admission of
its region comes before (R281, R340). -/
def regionModeEff (s : State) (e : DescEnv) (d : Line) : Eff :=
  let c := descCore d
  let unit := coreUnit s c 80
  let mode := descMode d
  if mode > 2 then Eff.no s .badDescriptor
  else
    if modeRefused s c mode || e.grp && !(s.regionAt c).modeReqs.isEmpty then .fail s .stateConflict unit 0
    else
      match requestMode s c ⟨some e.ch, mode, false⟩ with
      | .now s' .ok => Eff.done s'
      | .now s' st => .fail s' st unit 0
      | .admission s' =>
        if e.grp then Eff.done (s.modRegion c fun r => { r with mode := .compute }) else .run s' 0
/-- A request of a region mode, by the plan or by a descriptor. -/
def modeRow (s : State) (src : ModeSrc) (mode : Nat) : State :=
  match src with
  | .nbc c => issueTile s c.val 0x10 fun r => decide (nbcAction r = 2) && decide (bits r 67 66 = mode)
  | .desc ch => descRow s ch.val 0x20 (fun d => decide (descMode d = mode)) regionModeEff
/-- REGION_MODE_NORMAL (R199). -/
def execRegionModeNormal (src : ModeSrc) (s : State) : Res := .next (modeRow s src 0)
/-- REGION_MODE_COMPUTE (R199). -/
def execRegionModeCompute (src : ModeSrc) (s : State) : Res := .next (modeRow s src 1)
/-- REGION_MODE_DRAIN (R199). -/
def execRegionModeDrain (src : ModeSrc) (s : State) : Res := .next (modeRow s src 2)

-- Admissions (R339, R340)

/-- Removes the first admission of a kind from a tier's queue. -/
def dropAdmit (s : State) (t : Nat) (a : Admit) : State := s.modPwr t fun v => { v with queue := v.queue.erase a }
/-- Replaces an admission. -/
def setAdmit (s : State) (t : Nat) (a b : Admit) : State :=
  s.modPwr t fun v => { v with queue := v.queue.map fun x => if x = a then b else x }
/-- The admission of a kind that a tier decides now: the first requested. -/
def admitOf (s : State) (t : Nat) (k : AdmitKind) : Option Admit := (s.pwrAt t).queue.find? fun a => decide (a.kind = k)
/-- PWR_ADMIT after a switch-on. -/
def countAdmit (s : State) (a : Admit) : State :=
  { s with pwr := { s.pwr with
      admitted := s.pwr.admitted + 1,
      waited := if a.phase = 0 ∧ a.waited then s.pwr.waited + 1 else s.pwr.waited,
      damped := if a.phase = 1 then s.pwr.damped + 1 else s.pwr.damped } }
/-- An admission that finds its headroom short (R339): it waits, and once damping acts it adds 4 bubbles. -/
def Admit.runShort (a : Admit) : Admit :=
  if a.phase = 0 then { a with waited := true }
  else { a with bubbles := min 48 (a.bubbles + 4) }

/-- NBC MODE of a core that waits for its region's admission ends moving with a status. -/
def endModeOp (s : State) (c : Nat) (st : Status) : State :=
  let stop := fun (r : OpRun) =>
    if opOf r.rcd = 0x10 ∧ nbcAction r.rcd = 2 ∧ r.busy then { r with busy := false, status := st, sub := 96 } else r
  s.modCore c fun k => { k with inflight := k.inflight.map stop }
/-- The member of an ending group that asks for a region's COMPUTE. -/
def asksFor (g : Group) (c k : Nat) : Bool :=
  let d := g.members.getD k 0#512
  !g.ready.contains k && asksMode c 1 d
/-- The admission that an ending group has asked for is decided. -/
def answerGroup (s : State) (c ch : Nat) (st : Status) : State :=
  s.modChan ch fun v => { v with group := v.group.map fun g =>
    match (natsFrom 0 g.members.length).find? (asksFor g c) with
    | some k =>
      if st = .ok then { g with ready := g.ready ++ [k] }
      else { g with fail := g.fail.orElse fun _ => some ⟨coreUnit s c 80, descSeq (g.members.getD k 0#512), st, k⟩ }
    | none => g }
/-- Answers a mode request of a region. -/
def answerMode (s : State) (c : Nat) (q : ModeReq) (st : Status) : State :=
  match q.chan with
  | none => endModeOp s c st
  | some ch => if q.grp then answerGroup s c ch st else finishDesc s ch (asksMode c q.mode) st (if st = .ok then 0 else detUnit (coreUnit s c 80))
/-- The region controller decides waiting requests in their order, up to one that has to be admitted. -/
def decideModes (c : Nat) : List ModeReq → State → State
  | [], s => s.modRegion c fun r => { r with modeReqs := [] }
  | q :: t, s =>
    match decideMode s c q.mode with
    | .now s' st => decideModes c t (answerMode s' c q st)
    | .admission s' => s'.modRegion c fun r => { r with modeReqs := q :: t }
/-- A region's oldest request is decided: it is answered, and those that waited behind it are decided in turn (R200). -/
def settleModes (s : State) (c : Nat) (st : Status) : State :=
  match (s.regionAt c).modeReqs with
  | [] => s
  | q :: t => decideModes c t (answerMode s c q st)
/-- A region's admission has been granted: it enters COMPUTE, for a commit group at the group's instant. -/
def grantNbu (s : State) (c : Nat) : State :=
  let later := ((s.regionAt c).modeReqs.head?.map ModeReq.grp).getD false
  settleModes (s.modRegion c fun r => if r.mode = .normal ∧ later = false then { r with mode := .compute } else r) c .ok
/-- A region's admission has been refused; in a recovering partition this is a fault of the episode (R395). -/
def refuseNbu (s : State) (c : Nat) : State :=
  let unit := coreUnit s c 80
  let s := settleModes s c .powerDenied
  match s.ownerOf c, s.ownerState c with
  | some p, .recovering =>
    restartRecovery s p { unit := unit, status := Status.powerDenied.code, cls := .partitionFatal, part := some p }
  | _, _ => s
/-- NBU_ADMISSION (R340): the tier's VDL current decides the first waiting region. -/
def execNbuAdmission (t : TierId) (amps : Nat) (s : State) : Res :=
  match admitOf s t.val .nbu with
  | none => .next s
  | some a =>
    if amps + 2 ≤ s.vdlLim t.val then .next (grantNbu (countAdmit (dropAdmit s t.val a) a) a.target)
    else .next (setAdmit s t.val a a.runShort)

/-- One stage of a region's switch-on (R339): 40 A before the first and after a fallen limit, 20 A before any other; after the eighth the
region is ON. -/
def stageStep (s : State) (t : Nat) (a : Admit) (room : Nat) : State :=
  let put := fun (st : State) (q : QState) => st.modPwr t fun v => { v with quads := mset v.quads a.target q QState.off }
  match quadAt s (t, a.target) with
  | .admitting => if 40 ≤ room then put s (.powering 1) else setAdmit s t a a.runShort
  | .powering k =>
    if k ≥ 8 then countAdmit (put (dropAdmit s t a) .on) a
    else if (if a.again then 40 else 20) ≤ room then put (setAdmit s t a { a with again := false }) (.powering (k + 1))
    else s
  | _ => dropAdmit s t a
/-- ADMISSION_STAGE (R339): the highest 100-ns average of the tier's VCT current over the last 1 µs is at hand. -/
def execAdmissionStage (t : TierId) (amps : Nat) (s : State) : Res :=
  match admitOf s t.val .compute with
  | none => .next s
  | some a => .next (stageStep s t.val a (s.ilim t.val - amps))
/-- The admission still waits for headroom. -/
def stillWaits (s : State) (t : Nat) (a : Admit) : Bool :=
  a.waited && (decide (a.kind = .nbu) || decide (quadAt s (t, a.target) = .admitting))
/-- ADMISSION_WAIT_TIMEOUT (R339, R340): damping begins, or the admission is denied. -/
def execAdmissionWaitTimeout (t : TierId) (k : AdmitKind) (s : State) : Res :=
  match admitOf s t.val k with
  | none => .next s
  | some a =>
    if !stillWaits s t.val a then .next s
    else if a.phase = 0 then .next (setAdmit s t.val a { a with phase := 1, bubbles := 4 })
    else
      let s := dropAdmit s t.val a
      let s := { s with pwr := { s.pwr with denied := s.pwr.denied + 1 } }
      match k with
      | .compute => .next (s.modPwr t.val fun v => { v with quads := mdel v.quads a.target })
      | .nbu => .next (refuseNbu s a.target)

-- The fold of a merge group (R216)

/-- NBC RESULT of a core that waits for the fold of a group takes line 0, with the flags of the fold (R50, R243). -/
def foldToNbc (s : State) (c g : Nat) (fl : Flags) : State :=
  match nbcRun s c with
  | some r =>
    if nbcAction r.rcd = 1 ∧ groupOfLine0 (nbcLine r) = some g then nbcTake s c { r with flags := r.flags ||| fl } (groupLine s.free (s.regionAt c) g 0) else s
  | none => s
/-- GROUP_FOLD (R216): once the round's commands have completed, the partials fold in NBU order and the readers of line 0 get it. -/
def execGroupFold (c : CoreId) (g : Fin 4) (s : State) : Res :=
  let r := s.regionAt c.val
  if !(mget r.groups g.val MGroup.empty).pendingFold || roundBusy r g.val then .next s
  else
    let s := s.setRegion c.val (foldGroup s.free r g.val)
    let s := { s with free := s.free + 8, out := { s.out with win := [groupLine s.free (s.regionAt c.val) g.val 0] } }
    .next (takeFolds (pumpChimney (foldToNbc s c.val g.val (foldFlags r g.val)) c.val) c.val g.val)

end Sys2Proof.Machine
end

