-- ==== Sys2Proof/Machine/Faults.lean ====
section
/-! DEFINITION. Records, Weevil, router faults and partition recovery: the commands of chapter 14 (R378 to R396). -/

namespace Sys2Proof.Machine

-- Records (R378, R379, R381)

/-- CORRECTED_MERGE_EXPIRY (R378): the window closes, and its further events, if any, write one record. -/
def execCorrectedMergeExpiry (unit : W32) (status : Byte) (detail : BitVec 16) (s : State) : Res :=
  match s.ras.windows.find? fun w => decide (w.unit = unit ∧ w.status = status ∧ w.detail = detail) with
  | none => .next s
  | some w =>
    let s := { s with ras := { s.ras with windows := s.ras.windows.erase w } }
    if w.count = 0 then .next s else .next (emitRecord s w.last w.count false)
/-- The RAS block can be written (R446). -/
def rasOpen (s : State) : Bool := wholeMap s
/-- A write of RAS_LOG_CFG (R400): LOG2 while ENABLE is 0, the class, and ENABLE, which writes what the buffer still holds. -/
def writeLogCfg (s : State) (v : W64) : State :=
  if !rasOpen s then s
  else
    let n := bits v 4 0
    flushLog 4097 { s with ras := { s.ras with
      logLog2 := if s.ras.logEnable || decide (n < 6 ∨ 16 < n) then s.ras.logLog2 else n,
      eventClass := bits v 9 8, logEnable := bit v 16 } }
/-- LOG_ENABLE (R379). -/
def execLogEnable (value : W64) (s : State) : Res := .next (writeLogCfg s value)
/-- A write of RAS_SIG_CFG (R400). -/
def writeSigCfg (s : State) (v : W64) : State :=
  if !rasOpen s then s
  else
    let n := bits v 3 0
    { s with ras := { s.ras with
      sigLog2 := if s.ras.sigEnable || decide (n < 4 ∨ 12 < n) then s.ras.sigLog2 else n, sigEnable := bit v 16 } }
/-- SIGNATURE_ENABLE (R381). -/
def execSignatureEnable (value : W64) (s : State) : Res := .next (writeSigCfg s value)

-- Weevil (R385 to R387)

/-- Slices of one core (R385). -/
def sliceCount (g : Grade) : Nat := 96 + 36 * g.arrays
/-- Core cycles of the longest slice. -/
def sliceCycles : Nat := 34000
/-- The first core from an ID on that is not quarantined. -/
def nextCore (s : State) (c : Nat) : Option Nat := (natsFrom c (2048 - c)).find? fun x => !s.isQuar x
/-- The visit goes on to the next core; behind the last one a lap ends (R385, R400). -/
def nextVisit (s : State) : State :=
  let w := { s.weevil with slice := 0, running := false, slot := none, visitStart := s.time.now }
  match nextCore s (s.weevil.core + 1) with
  | some c => { s with weevil := { w with core := c } }
  | none =>
    let secs := (s.nowNat - s.weevil.lapStart.toNat) / oneS
    { s with weevil := { w with
        core := (nextCore s 0).getD 0, skipped := s.weevil.skippedLap, skippedLap := 0, lapStart := s.time.now,
        lapS := min (2 ^ 20 - 1) secs } }
/-- The IDLE slot of a core that holds a slice still (R122, R385): its start. -/
def sliceSlot (s : State) (c : Nat) : Option (BitVec 48) :=
  match (s.coreAt c).wait with
  | some (.idle n (some t)) => if (s.rawCycles c - t).toNat + sliceCycles ≤ n then some t else none
  | _ => none
/-- Starts a slice. -/
def startSlice (s : State) (slot : Option (BitVec 48)) : State :=
  { s with weevil := { s.weevil with running := true, slot := slot } }
/-- The visited core lets a slice start (R385). -/
def trySlice (s : State) : State :=
  let c := s.weevil.core
  match s.ownerState c with
  | .free => startSlice s none
  | .running =>
    match sliceSlot s c with
    | some t => if s.weevil.slot = some t then s else startSlice s (some t)
    | none => s
  | _ => s
/-- Firmware tests cores in READY and DEGRADED. -/
def inService (s : State) : Bool :=
  match s.dev.state with
  | .ready | .degraded => true
  | _ => false
/-- WEEVIL_SLICE (R385): a quarantined core is passed over. -/
def execWeevilSlice (s : State) : Res :=
  if !s.weevil.enable || s.weevil.running || !inService s then .next s
  else if s.isQuar s.weevil.core then .next (nextVisit s)
  else .next (trySlice s)
/-- The record of a slice whose signature differs (R387). -/
def sliceReport (s : State) (observed : W64) : Report :=
  { unit := coreUnit s s.weevil.core 105, status := Status.quarantined.code, cls := .partitionFatal, code := 0x0B,
    detail := detLoc (s.weevil.slice % 256) (s.weevil.slice / 256) ||| detSyn observed.toNat }
/-- WEEVIL_SLICE_COMPLETE (R387): the signature is compared with the ROM's, once. -/
def execWeevilSliceComplete (observed : W64) (s : State) : Res :=
  if !s.weevil.running then .next s
  else if observed ≠ Config.weevilSignature s.weevil.slice s.fuse.grade.arrays then
    .next (nextVisit (quarantineCore s s.weevil.core false (sliceReport s observed)))
  else if s.weevil.slice + 1 < sliceCount s.fuse.grade then
    .next { s with weevil := { s.weevil with running := false, slice := s.weevil.slice + 1 } }
  else .next (nextVisit s)
/-- WEEVIL_VISIT_TIMEOUT (R385): the core is skipped for this lap and counted. -/
def execWeevilVisitTimeout (s : State) : Res :=
  if !inService s || decide (s.nowNat < s.weevil.visitStart.toNat + 60 * oneS) then .next s
  else .next (nextVisit { s with weevil := { s.weevil with skippedLap := s.weevil.skippedLap + 1 } })
/-- A write of RAS_WEEVIL (R400, R445): a slice that runs ends by itself. -/
def writeWeevil (s : State) (v : W64) : State :=
  if rasOpen s then { s with weevil := { s.weevil with enable := bit v 48 } } else s
/-- WEEVIL_DISABLE (R445). -/
def execWeevilDisable (s : State) : Res := .next (writeWeevil s 0#64)

-- Router faults (R159, R388)

/-- Partitions that a router's fault concerns: the core's own, and each with a route in the router. -/
def routerUsers (s : State) (c : Nat) : List Nat :=
  match s.ownerOf c with
  | some p => addOnce (routeOwners s c) p
  | none => routeOwners s c
/-- What a router's parity reports: the port and stream of the line or the route entry (R376). -/
def parityReport (s : State) (c port stream : Nat) : Report :=
  { unit := coreUnit s c 100, status := 0, cls := .partitionFatal, code := 0x0C, detail := detLoc port stream }
/-- The second parity failure of a router within 24 h (R388). -/
def routerQuarantine (s : State) (c : Nat) (r : Report) : State :=
  let r := { r with status := Status.quarantined.code }
  let others := (routeOwners s c).filter fun p => decide (s.ownerOf c ≠ some p)
  let s := others.foldl (fun st p => report (failPartition st p) { r with part := some p, action := quarAction st }) s
  quarantineCore s c true r
/-- The first one: a router fault (R159). The router is reset once every partition concerned has stopped. -/
def routerFault (s : State) (c : Nat) (r : Report) : State :=
  let users := routerUsers s c
  let s := if users.isEmpty then report s { r with cls := .contained } else users.foldl (fun st p => partFault st p r) s
  settleRouters { s with ras := { s.ras with routerDue := s.ras.routerDue.filter (fun e => decide (e.1 ≠ c)) ++ [(c, users)] } }
/-- ROUTER_PARITY_FAILURE (R388): a router that is out of service reports nothing more. -/
def execRouterParityFailure (at_ : RouterSite) (s : State) : Res :=
  let c := at_.core
  if s.isRouterQuar c.val then .next s
  else
    let again := match mget? s.ras.parityAt c.val with
      | some t => s.within t dayNs
      | none => false
    let s := { s with ras := { s.ras with parityAt := mput s.ras.parityAt c.val s.time.now } }
    let r := parityReport s c.val at_.port.val at_.stream.val
    .next (if again then routerQuarantine s c.val r else routerFault s c.val r)

-- Recovery (R392 to R396)

/-- The reset that opens a recovery (R392); a faulty router that other partitions cross is reset with all of them, once none of them
runs (R159). -/
def recoveryReset (s : State) (p : Nat) : State :=
  let all := s.ras.routerDue.filter fun e => e.2.contains p
  let others := (all.flatMap Prod.snd).filter fun q => decide (q ≠ p) && decide (partState s q = some .recovering)
  let due := all.filter fun e => e.2.all fun q => decide (partState s q ≠ some .running)
  let s := resetPartition (others.foldl resetPartition s) p
  let s := due.foldl (fun st e => resetRouter st e.1) s
  { s with ras := { s.ras with routerDue := s.ras.routerDue.filter fun e => !due.contains e } }
/-- The partition's latest taken snapshot (R392). -/
def lastTaken (s : State) (p : Nat) (v : Partition) : Option Snapshot :=
  match v.lastSnap with
  | some n => s.snaps.find? fun x => decide (x.part = p ∧ x.number = n ∧ x.state = 3)
  | none => none
/-- A port that the plan uses is not UP (R395). -/
def downPort (s : State) (v : Partition) : Option Nat :=
  match v.plan with
  | some pl => (pl.links.map LinkUse.port).find? fun q => !portUp s q
  | none => none
/-- A fault of the recovery machinery (R395): a warm device reset follows. The record names the bank of an unreadable word, or the
chimney whose block check failed; its location part holds the snapshot's number (log entry 53). -/
def areaFault (s : State) (x : Snapshot) (unit : W32) (st : Status) : State :=
  let s := { s with dev := { s.dev with resetWanted := some .snapshotArea } }
  report s { unit := unit, status := st.code, cls := .deviceFatal, part := some x.part, code := 0x0F,
             detail := BitVec.ofNat 192 (x.number % 2 ^ 32 * 2 ^ 64) } true
/-- A restored region's mode (R392): COMPUTE is admitted again before the resume. -/
def restoreMode (x : Snapshot) (s : State) (c : Nat) : State :=
  match (mget x.regions c Region.empty).mode with
  | .normal => s
  | .drain => s.modRegion c fun r => { r with mode := .drain }
  | .compute =>
    s.modPwr (tierOf c) fun v => { v with
      queue := v.queue ++ [{ kind := .nbu, target := c, phase := 0, waited := false, again := false, bubbles := 0 }] }
/-- The barrier at which a restored partition's cores meet, with every core in it (R392, R396). -/
def restoredBar (s : State) (p : Nat) (v : Partition) (x : Snapshot) : Option Barrier :=
  v.cores.findSome? fun c =>
    match (s.coreAt c).wait with
    | some (.bar id true) =>
      some { Barrier.fresh p id.val x.scope with snap := true, timeSync := bit (recNow s c) 69, arrived := v.cores }
    | _ => none
/-- Every core, table and mode of a partition from a snapshot (R392); the cores stand at its barrier. -/
def restoreAll (s : State) (p : Nat) (v : Partition) (x : Snapshot) : State :=
  let s := v.cores.foldl (fun st c => restoreTable x (restoreSram x (restoreCore x st c) c 0) c) s
  let s := v.cores.foldl (restoreMode x) (restoreRoutes (restoreStreams s p x) p v x)
  let s := s.modPart p fun v => { v with restored := true }
  match restoredBar s p v x with
  | some b => stepBar (setBar s b) b
  | none => s
/-- The restore of a snapshot, as far as it gets (R395). -/
def restoreFrom (s : State) (p : Nat) (v : Partition) (x : Snapshot) (hw : RestoreHw) : State :=
  let clean := fun (s : State) =>
    let r := areaReads s x.offsets
    match r.2, areaDiffers r.1 x with
    | some (c, o), _ => areaFault r.1 x (bankUnit s c o) .uncorrectable
    | none, some c => areaFault r.1 x (coreUnit s c 96) .checkMismatch
    | none, none => restoreAll r.1 p v x
  match hw with
  | .areaFault c => areaFault s x (coreUnit s c.val 96) .checkMismatch
  | .chimneyCrc c fails =>
    if !v.cores.contains c.val then clean s
    else
      let t := countCrcs s c.val fails
      match crcLost s c.val fails with
      | some g =>
        restartRecovery t p
          { unit := coreUnit s c.val 96, status := Status.checkMismatch.code, cls := .partitionFatal, detail := detLoc g 0 }
      | none => clean t
  | .clean => clean s
/-- Recovery of a plan without a snapshot (R393): the image is read and written again, and the cores start at record 0. -/
def reloadPlan (s : State) (p : Nat) (v : Partition) (pl : Plan) : State :=
  let again := fun (st : State) (f : DpaFail) => restartRecovery st p
    { unit := f.unit, status := f.status.code, cls := .partitionFatal, detail := f.detail }
  let r := imageAt s pl.imgDpa pl.imgAddr.toNat pl.imgLen
  match r.2 with
  | .error f => again r.1 f
  | .ok im =>
    if !(im.formOk pl.imgLen && im.checksOk) then
      report (failPartition r.1 p)
        { unit := hearthUnit s 256, status := Status.checkMismatch.code, cls := .partitionFatal, part := some p }
    else
      let w := writeDrams im (writeSrams im (fun _ => sramBytes) r.1) im.drams
      match w.2 with
      | some f => again w.1 f
      | none => (releaseSeqs w.1 v.cores).modPart p fun v => { v with state := .running, runSince := s.time.now }
/-- RECOVERY_RESTORE_COMPLETE (R392 to R396): the reset, and the restore with what it met. It waits while a SNAP barrier whose
RELEASE will decide the latest snapshot is open. -/
def execRecoveryRestoreComplete (p : PartId) (hw : RestoreHw) (s : State) : Res :=
  match s.part? p.val with
  | none => .next s
  | some v =>
    if v.state ≠ .recovering || v.restored || s.bars.any (fun b => decide (b.part = p.val) && b.undecided s.snaps) then .next s
    else
      let s := recoveryReset s p.val
      match downPort s v with
      | some q =>
        .next (restartRecovery s p.val { unit := portUnit s q, status := Status.linkDown.code, cls := .partitionFatal })
      | none =>
        match lastTaken s p.val v, v.plan with
        | some x, _ => .next (restoreFrom s p.val v x hw)
        | none, some pl => .next (reloadPlan s p.val v pl)
        | none, none => .next s
/-- RECOVERY_EPISODE_END (R394): 1 s of RUNNING, for a plan that declares no SNAP barrier; a snapshot ends an episode where it counts
as taken. -/
def execRecoveryEpisodeEnd (p : PartId) (s : State) : Res :=
  match s.part? p.val with
  | none => .next s
  | some v =>
    let snap := match v.plan with
      | some pl => pl.hasSnap
      | none => false
    if v.state ≠ .running || snap || decide (s.nowNat < v.runSince.toNat + oneS) then .next s
    else .next (s.modPart p.val fun v => { v with faults := 0 })

end Sys2Proof.Machine
end

