-- ==== Sys2Proof/Machine/KvOps.lean ====
section
/-! DEFINITION. The descriptors of the cache (R225, R228 to R230, R247, R277, R279): contexts, page-table edits and
sequences. -/

namespace Sys2Proof.Machine

/-- CTX of a descriptor. -/
def descCtx (d : Line) : Nat := bits d 71 64
/-- The context's sequence is held in a formed batch. -/
def ctxFormed (s : State) (ctx : Nat) : Bool := ((kvSeqOf s ctx).map KvSeq.formed) = some true

-- KV_SETUP and KV_RELEASE (R225, R230, R279)

/-- The context that a KV_SETUP describes; −0 is stored as +0. -/
def setupCtx (d : Line) : Ctx :=
  { part := bits d 77 72, layers := bits d 87 80, budget := bits d 102 88, initScore := BitVec.ofNat 32 (bits d 158 128),
    shards := bits d 109 104 + 1, shard := bits d 115 110, mirrorOff := bits d 186 160 }
/-- Fields of a KV_SETUP that R225 and R275 bound; the mirror's 513 lines lie in the data range. -/
def setupOk (d : Line) : Bool :=
  let x := setupCtx d
  decide (1 ≤ x.layers ∧ x.layers ≤ 128 ∧ 36 ≤ x.budget ∧ x.budget ≤ 16384) &&
    decide (bits d 158 151 ≠ 255) && (!bit d 159 || decide (bits d 158 128 = 0)) &&
    decide (x.mirrorOff % 0x800 = 0 ∧ x.mirrorOff + 513 * 64 ≤ dramBytes)
/-- Another context of the partition names another mirror (R225). -/
def mirrorDiffers (s : State) (x : Ctx) : Bool := s.kv.ctxs.any fun e => decide (e.2.part = x.part ∧ e.2.mirrorOff ≠ x.mirrorOff)
/-- A region's mirror begins: every line of it is written (R230). -/
def startMirror (off : Nat) (s : State) (c : Nat) : State :=
  if (s.regionAt c).mirror = some off then s
  else writeMirror (s.modRegion c fun r => { r with mirror := some off }) c (natsFrom 0 2048)
/-- Entries that a context holds for a layer in SPARE, OPEN or FULL (R225). -/
def layerEntries (s : State) (cores : List Nat) (ctx layer : Nat) : Nat :=
  (layerPages s cores ctx layer fun st => decide (st = 1) || retained st).length
/-- A context has BUDGET + 1 entries for each of its layers (R225). -/
def ctxProvided (s : State) (ctx : Nat) (x : Ctx) : Bool :=
  match s.part? x.part with
  | none => false
  | some v => (natsFrom 0 x.layers).all fun l => decide (x.budget + 1 ≤ layerEntries s v.cores ctx l)
/-- The shards of a context span more than one tray, and POD is missing on a device that holds one (R250): more than 8 devices are
more than a tray, one device is none, and a device without POD is missing it itself. Where the shards lie otherwise, and what the other
devices hold, no descriptor says: free values (log entry 90). -/
def podMissing (s : State) (x : Ctx) : Bool :=
  let spans := decide (8 < x.shards) || (decide (1 < x.shards ∧ 1 < s.lnk.nTrays) && (drawBool s).1)
  spans && (!bit s.sec.features 2 || (drawBool s.draw).1)
/-- KV_SETUP (R225, R250, R279); in a group the entries per layer are counted at its end. -/
def kvSetupEff (s : State) (e : DescEnv) (d : Line) : Eff :=
  let x := setupCtx d
  if !setupOk d || mirrorDiffers s x || decide (x.shards ≤ x.shard) then Eff.no s .badDescriptor
  else
    match s.part? x.part, mget? s.kv.ctxs (descCtx d) with
    | some v, none =>
      let t := if x.shards ≤ 1 then s else s.draw.draw
      if podMissing s x then Eff.no t .licenceDenied
      else if !e.grp && !ctxProvided s (descCtx d) x then Eff.no t .noFit
      else Eff.done (v.cores.foldl (startMirror x.mirrorOff) { t with kv := { s.kv with ctxs := mput s.kv.ctxs (descCtx d) x } })
    | _, _ => Eff.no s .stateConflict
/-- KV_SETUP as a row. -/
def execKvSetup (ch : ChanId) (s : State) : Res := .next (descRow s ch.val 0x50 anyDesc kvSetupEff)

/-- Every valid entry of a context in a region becomes INVALID (R274). -/
def dropEntries (ctx : Nat) (s : State) (c : Nat) : State :=
  editTable s c (((s.regionAt c).table.filter fun e => pteValid e.2 && decide (pteCtx e.2 = ctx)).map fun e =>
    (e.1, pteWith e.2 0 (pteSeq e.2) (pteCount e.2)))
/-- The cores whose regions hold a context's frames; of a partition that is no longer in use, the regions that no partition owns. -/
def ctxCores (s : State) (p : Nat) : List Nat :=
  match s.part? p with
  | some v => v.cores
  | none => (s.region.map Prod.fst).filter fun c => (s.ownerOf c).isNone
/-- The mirrors of a partition without contexts end (R230). -/
def endMirrors (s : State) (p : Nat) : State :=
  if s.kv.ctxs.any fun e => decide (e.2.part = p) then s
  else (ctxCores s p).foldl (fun st c => st.modRegion c fun r => { r with mirror := none }) s
/-- Deletes a context, its sequence and its entries (R274, R279). -/
def releaseCtxEntries (s : State) (ctx : Nat) (x : Ctx) : State :=
  let s := (ctxCores s x.part).foldl (dropEntries ctx) (dropKvSeq s ctx)
  endMirrors { s with kv := { s.kv with
    ctxs := mdel s.kv.ctxs ctx, openings := s.kv.openings.filter fun o => decide (o.ctx ≠ ctx) } } x.part
/-- KV_RELEASE (R274, R279). -/
def kvReleaseEff (s : State) (_ : DescEnv) (d : Line) : Eff :=
  match mget? s.kv.ctxs (descCtx d) with
  | none => Eff.no s .stateConflict
  | some x => if ctxFormed s (descCtx d) then Eff.no s .stateConflict else Eff.done (releaseCtxEntries s (descCtx d) x)
/-- KV_RELEASE as a row. -/
def execKvRelease (ch : ChanId) (s : State) : Res := .next (descRow s ch.val 0x51 anyDesc kvReleaseEff)

-- KV_PTE (R228 to R230)

/-- COUNT of KV_PTE. -/
def pteEdits (d : Line) : Nat := bits d 87 76
/-- Reserved bits of an entry (R229). -/
def pteReserved : BitVec 128 := ~~~BitVec.ofNat 128
  (7 + (2 ^ 23 - 2 ^ 8) + (2 ^ 38 - 2 ^ 24) + (2 ^ 47 - 2 ^ 40) + (2 ^ 50 - 2 ^ 48) + (2 ^ 81 - 2 ^ 64))
/-- An edit as it stands in host memory: index, the bytes that are zero, and the entry. -/
def editAt (s : State) (d : Line) (k : Nat) : Nat × Nat × BitVec 128 :=
  let a := descAddr d + 32 * k
  (rdNat s.hostMem a 2, rdNat s.hostMem (a + 2) 14, BitVec.ofNat 128 (rdNat s.hostMem (a + 16) 16))
/-- The edits of a KV_PTE. -/
def editsOf (s : State) (d : Line) : List (Nat × Nat × BitVec 128) := (natsFrom 0 (pteEdits d)).map (editAt s d)
/-- The form of one edit (R8, R228, R229). -/
def editFormOk (e : Nat × Nat × BitVec 128) : Bool :=
  let p := e.2.2
  decide (e.1 < 2048 ∧ e.2.1 = 0 ∧ p &&& pteReserved = 0 ∧ pteState p ≤ 4 ∧ pteCount p ≤ 64) &&
    (!pteValid p || decide (pteFba p + 32 ≤ 98303))
/-- An edit meets no conflict (R229, R279): the context is in use, its partition holds the core, and no batch holds it or the
context of the entry that the edit replaces. -/
def editFree (s : State) (c : Nat) (e : Nat × Nat × BitVec 128) : Bool :=
  let old := pteAt (s.regionAt c) e.1
  let p := e.2.2
  !(pteValid old && ctxFormed s (pteCtx old)) &&
    (!pteValid p || (match mget? s.kv.ctxs (pteCtx p) with
      | some x => decide (s.ownerOf c = some x.part) && !ctxFormed s (pteCtx p)
      | none => false))
/-- A valid frame of a table overlaps no other and no word of the mirror (R228). -/
def frameOk (t : SMap (BitVec 128)) (m : Option Nat) (i : Nat) : Bool :=
  let e := mget t i 0#128
  !pteValid e || ((t.all fun x => decide (x.1 = i) || !pteValid x.2 || !frameMeets e x.2) && (match m with
    | some off => !frameInMirror off e
    | none => true))
/-- KV_PTE (R228 to R230, R279): every edit takes effect at once, or none. -/
def kvPteEff (s : State) (_ : DescEnv) (d : Line) : Eff :=
  let c := descCore d
  let es := editsOf s d
  if pteEdits d = 0 ∨ pteEdits d > 2048 then Eff.no s .badDescriptor
  else if !es.all editFormOk then Eff.no s .badDescriptor
  else if !es.all (editFree s c) then Eff.no s .stateConflict
  else
    let r := s.regionAt c
    let es := es.map fun e => (e.1, e.2.2)
    let t := putEntries r.table es
    if !es.all fun e => frameOk t r.mirror e.1 then Eff.no s .badDescriptor
    else
      let s := editTable s c es
      .ok s (BitVec.ofNat 128 (s.regionAt c).gen.toNat)
/-- KV_PTE as a row. -/
def execKvPte (ch : ChanId) (s : State) : Res := .next (descRow s ch.val 0x52 anyDesc kvPteEff)

-- KV_SEQ (R246, R247, R277, R279)

/-- ACTION of KV_SEQ. -/
def seqAction (d : Line) : Nat := bits d 74 72
/-- DETAIL of a KV_SEQ: the bucket. -/
def bucketDetail (n : Nat) : BitVec 128 := BitVec.ofNat 128 (bucketOf n)
/-- REGISTER. -/
def seqRegister (s : State) (d : Line) : Eff :=
  let n := bits d 116 96
  if n = 0 ∨ n > maxTokens then Eff.no s .badDescriptor
  else if (mget? s.kv.ctxs (descCtx d)).isNone || (kvSeqOf s (descCtx d)).isSome then Eff.no s .stateConflict
  else
    let q : KvSeq :=
      { ctx := descCtx d, length := n, done := 0, paused := false, formed := false, since := s.kv.clock, wantPause := none,
        wantRemove := none }
    .ok { s with kv := { s.kv with seqs := s.kv.seqs ++ [q], clock := s.kv.clock + 1 } } (bucketDetail n)
/-- The registered sequence of a context in use. -/
def seqOf (s : State) (d : Line) : Option KvSeq := (mget? s.kv.ctxs (descCtx d)).bind fun _ => kvSeqOf s (descCtx d)
/-- PAUSE: of a sequence in a formed batch once the batch has finished. -/
def seqPause (s : State) (ch : Nat) (d : Line) : Eff :=
  match seqOf s d with
  | none => Eff.no s .stateConflict
  | some q =>
    if q.paused || q.wantPause.isSome || q.wantRemove.isSome then Eff.no s .stateConflict
    else if q.formed then .run (modKvSeq s (descCtx d) fun q => { q with wantPause := some ch }) 0
    else .ok (modKvSeq s (descCtx d) fun q => { q with paused := true }) (bucketDetail q.length)
/-- RESUME: the sequence waits again, behind the others. -/
def seqResume (s : State) (d : Line) : Eff :=
  match seqOf s d with
  | none => Eff.no s .stateConflict
  | some q =>
    if !q.paused then Eff.no s .stateConflict
    else
      let now := s.kv.clock
      .ok (modKvSeq { s with kv := { s.kv with clock := now + 1 } } (descCtx d) fun q => { q with paused := false, since := now })
        (bucketDetail q.length)
/-- REMOVE: of a sequence in a formed batch once the batch has finished. -/
def seqRemove (s : State) (ch : Nat) (d : Line) : Eff :=
  match seqOf s d with
  | none => Eff.no s .stateConflict
  | some q =>
    if q.wantRemove.isSome then Eff.no s .stateConflict
    else if q.formed then .run (modKvSeq s (descCtx d) fun q => { q with wantRemove := some ch }) 0
    else .ok (dropKvSeq s (descCtx d)) (bucketDetail q.length)
/-- KV_SEQ (R247, R279). -/
def kvSeqEff (s : State) (e : DescEnv) (d : Line) : Eff :=
  match seqAction d with
  | 0 => seqRegister s d
  | 1 => seqPause s e.ch d
  | 2 => seqResume s d
  | 3 => seqRemove s e.ch d
  | _ => Eff.no s .badDescriptor
/-- A KV_SEQ of an action. -/
def seqIs (a : Nat) (d : Line) : Bool := decide (seqAction d = a)
/-- KV_SEQ with ACTION REGISTER. -/
def execKvSeqRegister (ch : ChanId) (s : State) : Res := .next (descRow s ch.val 0x53 (seqIs 0) kvSeqEff)
/-- KV_SEQ with ACTION PAUSE. -/
def execKvSeqPause (ch : ChanId) (s : State) : Res := .next (descRow s ch.val 0x53 (seqIs 1) kvSeqEff)
/-- KV_SEQ with ACTION RESUME. -/
def execKvSeqResume (ch : ChanId) (s : State) : Res := .next (descRow s ch.val 0x53 (seqIs 2) kvSeqEff)
/-- KV_SEQ with ACTION REMOVE. -/
def execKvSeqRemove (ch : ChanId) (s : State) : Res := .next (descRow s ch.val 0x53 (seqIs 3) kvSeqEff)

end Sys2Proof.Machine
end

