-- ==== Sys2Proof/Machine/Ecdsa.lean ====
section
/-! DEFINITION. ECDSA with SHA-384 on brainpoolP384r1, which the manual names (R403, R419, R420, R423): the curve of RFC 5639 and
the algorithm of FIPS 186 (PRESUMED, log entry 9). -/

namespace Sys2Proof.Machine

/-- The field's prime. -/
def curveP : Nat := 0x8CB91E82A3386D280F5D6F7E50E641DF152F7109ED5456B412B1DA197FB71123ACD3A729901D1A71874700133107EC53
/-- The coefficients of y² = x³ + a·x + b. -/
def curveA : Nat := 0x7BC382C63D8C150C3C72080ACE05AFA0C2BEA28E4FB22787139165EFBA91F90F8AA5814A503AD4EB04A8C7DD22CE2826
/-- See `curveA`. -/
def curveB : Nat := 0x04A8C7DD22CE28268B39B55416F0447C2FB77DE107DCD2A62E880EA53EEB62D57CB4390295DBC9943AB78696FA504C11
/-- The base point. -/
def curveGx : Nat := 0x1D1C64F068CF45FFA2A63A81B7C13F6B8847A3E77EF14FE3DB7FCAFE0CBD10E8E826E03436D646AAEF87B2E247D4AF1E
/-- See `curveGx`. -/
def curveGy : Nat := 0x8ABE1D7520F9C2A45CB1EB8E95CFD55262B70B29FEEC5864E19C054FF99129280E4646217791811142820341263C5315
/-- The order of the base point. -/
def curveN : Nat := 0x8CB91E82A3386D280F5D6F7E50E641DF152F7109ED5456B31F166E6CAC0425A7CF3AB6AF6B7FC3103B883202E9046565

/-- a − b modulo the prime. -/
def subP (a b : Nat) : Nat := (a + (curveP - b % curveP)) % curveP
/-- a to the power e modulo m, by the lowest `bits` bits of e. -/
def powMod (m : Nat) : Nat → Nat → Nat → Nat
  | 0, _, _ => 1 % m
  | n + 1, a, e =>
    let h := powMod m n (a * a % m) (e / 2)
    if e % 2 = 1 then a * h % m else h
/-- The inverse modulo a prime. -/
def invMod (m a : Nat) : Nat := powMod m 384 (a % m) (m - 2)

/-- A point in Jacobian coordinates: (x ÷ z², y ÷ z³); z = 0 is the point at infinity. -/
structure Point where
  x : Nat
  y : Nat
  z : Nat
  deriving DecidableEq, Repr
/-- The point at infinity. -/
def Point.zero : Point := ⟨1, 1, 0⟩
/-- The base point. -/
def Point.base : Point := ⟨curveGx, curveGy, 1⟩
/-- Twice a point. -/
def Point.double (p : Point) : Point :=
  if p.y = 0 ∨ p.z = 0 then .zero
  else
    let yy := p.y * p.y % curveP
    let zz := p.z * p.z % curveP
    let s := 4 * p.x * yy % curveP
    let m := (3 * p.x * p.x + curveA * (zz * zz)) % curveP
    let x := subP (m * m) (2 * s)
    ⟨x, subP (m * subP s x) (8 * yy * yy), 2 * p.y * p.z % curveP⟩
/-- The sum of two points. -/
def Point.add (p q : Point) : Point :=
  if p.z = 0 then q
  else if q.z = 0 then p
  else
    let pz := p.z * p.z % curveP
    let qz := q.z * q.z % curveP
    let u := p.x * qz % curveP
    let v := p.y * (qz * q.z) % curveP
    let h := subP (q.x * pz) u
    let r := subP (q.y * (pz * p.z)) v
    if h = 0 then (if r = 0 then p.double else .zero)
    else
      let hh := h * h % curveP
      let x := subP (r * r) (h * hh + 2 * u * hh)
      ⟨x, subP (r * subP (u * hh) x) (v * (h * hh)), h * p.z * q.z % curveP⟩
/-- A multiple of a point, by the lowest n bits of the factor. -/
def Point.mul (p : Point) : Nat → Nat → Point
  | 0, _ => .zero
  | n + 1, k =>
    let q := (p.mul n (k / 2)).double
    if k % 2 = 1 then q.add p else q
/-- The affine x of a point. -/
def Point.affX (p : Point) : Nat :=
  let i := invMod curveP p.z
  p.x * (i * i % curveP) % curveP
/-- The affine y of a point. -/
def Point.affY (p : Point) : Nat :=
  let i := invMod curveP p.z
  p.y * (i * i % curveP * i % curveP) % curveP
/-- The 97 bytes of an uncompressed point. -/
def Point.bytes (p : Point) : List Byte := 4#8 :: (beBytes p.affX 48 ++ beBytes p.affY 48)
/-- The affine coordinates lie in the field and on the curve. -/
def onCurve (x y : Nat) : Bool := decide (x < curveP ∧ y < curveP ∧ y * y % curveP = (x * x * x + curveA * x + curveB) % curveP)
/-- The point of 97 bytes, if they are an uncompressed point of the curve. -/
def pointOf (bs : List Byte) : Option Point :=
  let x := beNat ((bs.drop 1).take 48)
  let y := beNat (bs.drop 49)
  if bs.length = 97 ∧ bs.headD 0 = 4#8 ∧ onCurve x y = true then some ⟨x, y, 1⟩ else none
/-- A signature, r then s, over a hash verifies under a public key (R403). -/
def ecdsaVerify (key hash sig : List Byte) : Bool :=
  let r := beNat (sig.take 48)
  let s := beNat (sig.drop 48)
  match pointOf key with
  | none => false
  | some q =>
    if sig.length ≠ 96 ∨ r = 0 ∨ s = 0 ∨ r ≥ curveN ∨ s ≥ curveN then false
    else
      let w := invMod curveN s
      let p := (Point.base.mul 384 (beNat hash * w % curveN)).add (q.mul 384 (r * w % curveN))
      decide (p.z ≠ 0 ∧ p.affX % curveN = r)
/-- The signature, r then s, of a hash by a private key with a nonce (R420). -/
def ecdsaSign (d nonce : Nat) (hash : List Byte) : List Byte :=
  let r := (Point.base.mul 384 nonce).affX % curveN
  beBytes r 48 ++ beBytes (invMod curveN nonce * (beNat hash + r * d) % curveN) 48
/-- The public point of a private key, as 97 bytes (R419). -/
def publicKey (d : Nat) : List Byte := (Point.base.mul 384 d).bytes

end Sys2Proof.Machine
end

