-- ==== Sys2Proof/Machine/Trust.lean ====
section
/-! DEFINITION. Signatures, manifests and licences (R403 to R406, R413, R419 to R422): what the security engine accepts. -/

namespace Sys2Proof.Machine

-- Signatures (R403)

/-- Usage fuses of a key slot. -/
inductive Usage where
  | firmware
  | licence
  | debug
  deriving DecidableEq, Repr
/-- Bit of a usage. -/
def Usage.bit : Usage → Nat
  | .firmware => 0 | .licence => 1 | .debug => 2
/-- A slot may sign objects of a kind: its usage fuse is set and its revocation fuse intact. -/
def slotAllows (s : State) (u : Usage) (k : Nat) : Bool := Sys2Proof.bit (mget s.fuse.slotUsage k 0) u.bit && !Sys2Proof.bit s.fuse.revoked k
/-- The hash that a slot holds. -/
def slotHashOf (s : State) (k : Nat) : List Byte := mget s.fuse.slotHash k (List.replicate 48 0#8)
/-- The device key hash (R419), of the public point in the certificate. -/
def State.keyHash (s : State) : List Byte := sha384 (Config.certKey s.fuse.certificate)
/-- A signer's key and its signature over a hash are accepted for a usage (R403). -/
def accepted (s : State) (u : Usage) (signer hash sig : List Byte) : Bool :=
  (natsFrom 0 4).any fun k => slotAllows s u k && decide (slotHashOf s k = sha384 signer) && ecdsaVerify signer hash sig

-- Manifests (R404, R405)

/-- Bytes a to a + n − 1 of a source. -/
def takeAt (f : Nat → Byte) (a n : Nat) : List Byte := (natsFrom a n).map f
/-- A range of a source holds zeros. -/
def zeroAt (f : Nat → Byte) (a n : Nat) : Bool := (natsFrom a n).all fun i => decide (f i = 0#8)
/-- Entry i of a manifest. -/
def entryAt (f : Nat → Byte) (i : Nat) : Image :=
  let a := 128 + 64 * i
  { kind := leNat f a 1, offset := leNat f (a + 4) 4, length := leNat f (a + 8) 4, crc := BitVec.ofNat 32 (leNat f (a + 12) 4),
    hash := takeAt f (a + 16) 48 }
/-- ENTRIES. -/
def manEntries (f : Nat → Byte) : Nat := leNat f 6 2
/-- The manifest at the start of a source. -/
def manifestAt (f : Nat → Byte) : Manifest :=
  let e := min 16 (manEntries f)
  { bundleVer := leNat f 8 4, svn := leNat f 12 1, advance := Sys2Proof.bit (f 13) 0, revoke := BitVec.ofNat 4 (leNat f 14 1),
    keySlot := leNat f 15 1, signer := takeAt f 16 97, entries := (natsFrom 0 e).map (entryAt f),
    hash := sha384 (takeAt f 0 (128 + 64 * e)) }
/-- The fields of a manifest lie in their ranges and its zero fields are zero (R404, R405). -/
def manifestForm (f : Nat → Byte) : Bool :=
  decide (leNat f 0 4 = 0x4E4D5A4B ∧ leNat f 4 2 = 1 ∧ 1 ≤ manEntries f ∧ manEntries f ≤ 16) &&
    decide (leNat f 12 1 ≤ 64 ∧ leNat f 13 1 ≤ 1 ∧ leNat f 14 1 < 16 ∧ leNat f 15 1 < 4) && zeroAt f 113 15 &&
    (natsFrom 0 (min 16 (manEntries f))).all fun i => zeroAt f (129 + 64 * i) 3
/-- The signature of a manifest. -/
def manifestSig (f : Nat → Byte) : List Byte := takeAt f (128 + 64 * min 16 (manEntries f)) 96
/-- Largest image of a type (R405). -/
def imageMax (kind : Nat) : Nat :=
  match kind with
  | 1 => 0x800000 | 2 => 0x100000 | 3 => 0x80000 | 4 => 0x40000 | 5 => 0x30000 | _ => 0
/-- Images lie behind one another within a source of a length, each within its type's bound. -/
def imagesFit (m : Manifest) (len : Nat) : Bool :=
  let spans := m.entries.map fun e => (e.offset, e.offset + e.length)
  let apart := (natsFrom 0 spans.length).all fun i => (natsFrom 0 spans.length).all fun j =>
    decide (i = j) || (match spans[i]?, spans[j]? with
      | some a, some b => decide (a.2 ≤ b.1 ∨ b.2 ≤ a.1)
      | _, _ => true)
  (m.entries.all fun e => decide (e.offset % 64 = 0 ∧ e.length ≤ imageMax e.kind ∧ e.offset + e.length ≤ len)) && apart
/-- The image of an entry has the entry's hash. -/
def hashHolds (f : Nat → Byte) (e : Image) : Bool := decide (sha384 (takeAt f e.offset e.length) = e.hash)
/-- The image of an entry has the entry's CRC (R413). -/
def crcHolds (f : Nat → Byte) (e : Image) : Bool := decide (crc32c (takeAt f e.offset e.length) = e.crc.toNat)
/-- The manifest is accepted: form, signature with FIRMWARE usage, SVN, and a REVOKE that does not name its own slot (R406, R418). -/
def manifestOk (s : State) (f : Nat → Byte) : Bool :=
  let m := manifestAt f
  manifestForm f && accepted s .firmware m.signer m.hash (manifestSig f) && decide (s.fuse.svn ≤ m.svn) &&
    !Sys2Proof.bit m.revoke m.keySlot
/-- A boot bundle of at most 16 MiB holds one entry of each of the five types (R405). -/
def bundleForm (m : Manifest) (len : Nat) : Bool :=
  decide (m.entries.length = 5) && ([1, 2, 3, 4, 5].all fun k => m.entries.any fun e => decide (e.kind = k)) && imagesFit m len
/-- The entry of a type. -/
def entryOf (m : Manifest) (k : Nat) : Option Image := m.entries.find? fun e => decide (e.kind = k)
/-- Extends a measurement by an image's hash (R420). -/
def extendMeasure (s : State) (n : Nat) (hash : List Byte) : State :=
  let old := mget s.boot.measures n (List.replicate 48 0#8)
  { s with boot := { s.boot with measures := mput s.boot.measures n (sha384 (old ++ hash)) } }

-- Licences (R421, R422, R426)

/-- A field of a licence blob. -/
def licN (b : List Byte) (a n : Nat) : Nat := leNat (fun i => b.getD i 0#8) a n
/-- The form of a blob: length, MAGIC, VERSION, LENGTH, zero fields, and FEATURES that are defined. -/
def licForm (b : List Byte) : Bool :=
  decide (b.length = 280 ∧ licN b 0 4 = 0x434C5A4B ∧ licN b 4 2 = 1 ∧ licN b 6 2 = 280) &&
    decide (1 ≤ licN b 56 8 ∧ licN b 56 8 < 8 ∧ licN b 73 7 = 0 ∧ licN b 177 7 = 0)
/-- The blob binds to this device's key. -/
def licBinds (s : State) (b : List Byte) : Bool := decide ((b.drop 8).take 48 = s.keyHash)
/-- The blob's signature is accepted with LICENCE usage. -/
def licSigned (s : State) (b : List Byte) : Bool :=
  accepted s .licence ((b.drop 80).take 97) (sha384 (b.take 184)) ((b.drop 184).take 96)
/-- SERIAL. -/
def licSerial (b : List Byte) : Nat := licN b 64 8
/-- The blob verifies at a start. -/
def licVerifies (s : State) (b : List Byte) : Bool := licForm b && licBinds s b && licSigned s b
/-- SEC_LIC_STATE (R426). -/
def licState (s : State) : Nat :=
  s.sec.features.toNat + (s.sec.licences.length - s.sec.badLicences) * 256 + b2n s.sec.cleared * 2 ^ 16

end Sys2Proof.Machine
end

