-- ==== Sys2Proof/Machine/SecOps.lean ====
section
/-! DEFINITION. The security engine at work (R417, R419 to R423): licences, firmware updates, attestation and debug unlock. -/

namespace Sys2Proof.Machine

-- Licences (R422)

/-- What follows new features: PORTS24 starts training, POD applies R296 again (R422). -/
def applyFeatures (s : State) (f : BitVec 3) : State :=
  let old := s.sec.features
  let s := { s with sec := { s.sec with features := old ||| f } }
  let s := if bit f 1 && !bit old 1 then
      (natsFrom 13 12).foldl (fun st p => if (st.portAt p).state = .unlicensed ∧ (st.portAt p).peer.isNone then startTraining st p else st) s
    else s
  if bit f 2 && !bit old 2 then resendIdent s true else s
/-- DETAIL of LIC_INSTALL. -/
def licDetail (s : State) : BitVec 128 := BitVec.ofNat 128 (licState s)
/-- LIC_INSTALL, with the outcome of the flash write (R422). -/
def licInstallEff (flashOk : Bool) (s : State) (_ : DescEnv) (d : Line) : Eff :=
  let n := bits d 207 192
  let b := rdBytes s.hostMem (descAddr d) n
  let unit := hearthUnit s 259
  if n = 0 ∨ n > 4096 ∨ !licForm b then Eff.no s .badDescriptor
  else if !licBinds s b || !licSigned s b then .fail s .licenceDenied unit 0
  else if !s.sec.identityOk || s.sec.debugUnlocked then .fail s .stateConflict unit 0
  else if s.sec.licences.any fun x => decide (licSerial x = licSerial b) then .ok s (licDetail s)
  else if s.sec.licences.length ≥ 16 then .fail s .noFit unit 0
  else if !flashOk then .fail s .timeout (hearthUnit s 297) 0
  else
    let t := applyFeatures { s with sec := { s.sec with licences := s.sec.licences ++ [b] } } (BitVec.ofNat 3 (licN b 56 8))
    .ok t (licDetail t)

-- Firmware updates (R277, R417)

/-- The update's entries: SEQ_UCODE, REGION_UCODE or one of each (R417). -/
def updateForm (m : Manifest) (len : Nat) : Bool :=
  let kinds := m.entries.map Image.kind
  decide (1 ≤ kinds.length ∧ kinds.length ≤ 2) && (kinds.all fun k => decide (k = 4 ∨ k = 5)) &&
    !(kinds == [4, 4]) && !(kinds == [5, 5]) && imagesFit m len
/-- The units of a partition's cores hold an image: their sequencers SEQ_UCODE, their region controllers REGION_UCODE (R417). -/
def storeImage (cores : List Nat) (s : State) (e : Image) : State :=
  let put := fun (m : SMap (List Byte)) => cores.foldl (fun m c => mput m c e.hash) m
  if e.kind = 4 then { s with boot := { s.boot with seqCode := put s.boot.seqCode } }
  else { s with boot := { s.boot with regionCode := put s.boot.regionCode } }
/-- Unit of a core that receives an image. -/
def ucodeUnit (s : State) (c : Nat) (e : Image) : W32 := coreUnit s c (if e.kind = 4 then 104 else 80)
/-- FW_UPDATE, with the unit at which the delivery failed, if any (R413, R417): an image without its CRC fails at the core that it enters. -/
def fwUpdateEff (failed : Option W32) (s : State) (_ : DescEnv) (d : Line) : Eff :=
  let n := bits d 223 192
  let f := fun i => if i < n then rdByte s.hostMem (descAddr d + i) else 0#8
  let m := manifestAt f
  let p := descPart d
  if n = 0 ∨ n > 524288 then Eff.no s .badDescriptor
  else
    match s.part? p with
    | none => Eff.no s .stateConflict
    | some v =>
      if v.state ≠ .loaded ∧ v.state ≠ .quiesced then Eff.no s .stateConflict
      else if !manifestForm f || !updateForm m n then Eff.no s .badDescriptor
      else if !manifestOk s f || !m.entries.all (hashHolds f) then Eff.no s .checkMismatch
      else
        match ((m.entries.find? fun e => !crcHolds f e).map (ucodeUnit s (v.cores.headD 0))).orElse fun _ => failed with
        | some u => .fail s .checkMismatch u 0
        | none =>
          Eff.done (m.entries.foldl (fun st e =>
            storeImage v.cores (extendMeasure st (if e.kind = 4 then 5 else 6) e.hash) e) s)

-- Attestation (R420)

/-- Measurement n of the report. -/
def measureOf (s : State) (n : Nat) : List Byte := mget s.boot.measures n (List.replicate 48 0#8)
/-- Fuse state of the report, bytes 488 to 503. -/
def fuseBytes (s : State) : List Byte :=
  let usage := (natsFrom 0 4).foldl (fun a k => a + (mget s.fuse.slotUsage k 0).toNat * 2 ^ (3 * k)) 0
  leBytes s.fuse.grade.arrays 1 ++ leBytes ((s.boot.manifest.map Manifest.keySlot).getD 0) 1 ++ leBytes s.fuse.revoked.toNat 1 ++
    leBytes usage 2 ++ leBytes s.fuse.svn 1 ++ leBytes (b2n s.sec.debugUnlocked) 1 ++ List.replicate 9 0#8
/-- Row repair of the report, bytes 512 to 639. -/
def rowBytes (s : State) : List Byte :=
  (natsFrom 0 128).map fun i => BitVec.ofNat 8 (match mget s.fuse.failedCol i 0 with
    | 0 => 0xFF
    | k + 1 => k)
/-- Array map of the report, bytes 640 to 1,151. -/
def arrayBytes (s : State) : List Byte :=
  (natsFrom 0 512).map fun i => BitVec.ofNat 8 ((natsFrom 0 4).foldl (fun a j =>
    a + (if s.fuse.grade = .a3 then (s.fuse.arraysOff (4 * i + j)).headD 0 else 0) * 2 ^ (2 * j)) 0)
/-- Zeros that pad n bytes to a multiple of 4. -/
def padTo4 (n : Nat) : List Byte := List.replicate (4 * cdiv n 4 - n) 0#8
/-- The report but for its signature. -/
def reportBody (s : State) (nonce : Nat) : List Byte :=
  let cert := s.fuse.certificate
  let len := 1156 + 4 * cdiv cert.length 4 + 96
  leBytes 0x54415A4B 4 ++ leBytes 1 2 ++ leBytes len 2 ++ leBytes nonce 32 ++ leBytes s.nowNat 8 ++ leBytes (s.sec.reports + 1) 8 ++
    sha384 cert ++ (natsFrom 0 8).flatMap (measureOf s) ++ fuseBytes s ++ leBytes (licState s) 8 ++ rowBytes s ++ arrayBytes s ++
    leBytes cert.length 2 ++ [0#8, 0#8] ++ cert ++ padTo4 cert.length
/-- The nonce of a signature, from the random number generator (R419, R420). -/
def signNonce (s : State) : Nat := beNat ((natsFrom 0 48).map (Config.random s.free)) % (curveN - 1) + 1
/-- ATTEST (R419, R420, R423). -/
def attestEff (s : State) (_ : DescEnv) (d : Line) : Eff :=
  match s.sec.key with
  | none => .fail s .stateConflict (hearthUnit s 259) 0
  | some k =>
    if !s.sec.identityOk || s.sec.debugUnlocked then .fail s .stateConflict (hearthUnit s 259) 0
    else
      let body := reportBody s (bits d 447 192)
      let t := { s.draw with sec := { s.sec with reports := s.sec.reports + 1 } }
      .ok (hostWrite t (descAddr d) (body ++ ecdsaSign k (signNonce s) (sha384 body))) (BitVec.ofNat 128 (body.length + 96))
/-- ATTEST as a row. -/
def execAttest (ch : ChanId) (s : State) : Res := .next (descRow s ch.val 0x38 anyDesc attestEff)

-- Debug unlock (R423)

/-- The test access port answers: the device has power. -/
def tapLive (s : State) : Bool := decide (s.dev.state ≠ .off)
/-- DBG_CHALLENGE (R423): a fresh nonce and the device key hash are shifted out. -/
def execDbgChallenge (s : State) : Res :=
  if !tapLive s then .next s
  else
    let c := (natsFrom 0 32).map (Config.random s.free) ++ s.keyHash
    .next { s.draw with sec := { s.sec with challenge := c }, tap := { s.tap with ir := 0x20, tdo := c, drive := .device } }
/-- A response's signature is accepted: by the key of a slot with DEBUG usage, over the challenge and LEVEL. -/
def responseOk (s : State) (data : List Byte) : Bool :=
  let h := sha384 (s.sec.challenge ++ [1#8])
  decide (data.headD 0 = 1#8) && ((data.drop 1).take 7).all (fun b => decide (b = 0#8)) && !s.sec.challenge.isEmpty &&
    (natsFrom 0 4).any fun k => accepted s .debug (Config.slotKey (slotHashOf s k)) h (data.drop 8)
/-- The effects of an accepted response, up to the warm reset that follows. -/
def unlockDebug (s : State) : State :=
  let s := { s with sec := { s.sec with identityOk := false, key := none, features := 0, cleared := true, debugUnlocked := true } }
  let s := reportContained s (hearthUnit s 259) .ok
  { s with dev := { s.dev with resetWanted := some .debugUnlock } }
/-- A response that fails is counted; the third locks debug (R423). -/
def failDebug (s : State) : State :=
  let n := min 3 (s.sec.dbgFails + 1)
  { s with sec := { s.sec with dbgFails := n, dbgLocked := s.sec.dbgLocked || decide (n ≥ 3) } }
/-- DBG_RESPONSE (R423). -/
def execDbgResponse (data : List Byte) (s : State) : Res :=
  if !dbgResponseOk data then .fault .malformedCommand
  else if !tapLive s then .next s
  else
    let s := { s with tap := { s.tap with ir := 0x21, drive := .device } }
    if s.sec.dbgLocked then .next s else if responseOk s data then .next (unlockDebug s) else .next (failDebug s)

end Sys2Proof.Machine
end

