-- ==== Sys2Proof/Machine/Groups.lean ====
section
/-! DEFINITION. Fetched descriptors (R270, R280 to R283): their checks at arrival, commit groups, and the completion of what has
started (R272). -/

namespace Sys2Proof.Machine

-- The members of a group (R280, R281)

/-- Codes of an opcode that are reserved (R275). -/
def codesOk (d : Line) : Bool :=
  match descOp d with
  | 0x1A => decide (partCmd d ≤ 4)
  | 0x20 => decide (descMode d ≤ 2)
  | 0x53 => decide (seqAction d ≤ 3)
  | _ => true
/-- What is wrong with a descriptor in itself (R270), or in SAFE (R398). -/
def arrivalFault (s : State) (ch : Nat) (d : Line) : Option Status :=
  if !descReservedOk d || !codesOk d || !kindAccepts (s.chanAt ch).kind (descOp d) then some .badDescriptor
  else if s.dev.state = .safe ∧ !safeOp (descOp d) then some .stateConflict
  else none
/-- The effect of an opcode in a commit group; none for one that no group may hold (R274). -/
def groupEff (op : Nat) : Option (State → DescEnv → Line → Eff) :=
  match op with
  | 0x00 => some nopEff
  | 0x10 => some chCreateEff
  | 0x11 => some chDestroyEff
  | 0x18 => some partCreateEff
  | 0x19 => some partLoadEff
  | 0x1A => some partCtrlEff
  | 0x1B => some partDestroyEff
  | 0x20 => some regionModeEff
  | 0x28 => some (licInstallEff true)
  | 0x2A => some (fwUpdateEff none)
  | 0x30 => some pwrCapEff
  | 0x50 => some kvSetupEff
  | 0x51 => some kvReleaseEff
  | 0x52 => some kvPteEff
  | 0x53 => some kvSeqEff
  | _ => none
/-- Bytes of operand data that a member stages (R280). -/
def payloadOf (d : Line) : Nat :=
  match descOp d with
  | 0x18 => 256
  | 0x28 => bits d 207 192
  | 0x2A => bits d 223 192
  | 0x52 => 32 * pteEdits d
  | _ => 0
/-- What a member's effect leaves of it: its DETAIL, or, of one that runs on, none. -/
abbrev MemberOut := Except (Status × W32) (State × Option (BitVec 128))
/-- One member's effect on a state, or its own status and the unit concerned. -/
def memberEff (s : State) (ch : Nat) (d : Line) : MemberOut :=
  match arrivalFault s ch d with
  | some st => .error (st, noUnit)
  | none =>
    match groupEff (descOp d) with
    | none => .error (.badDescriptor, noUnit)
    | some f =>
      if heldElsewhere s ch (namesOf s d ++ changesOf s d) then .error (.stateConflict, noUnit)
      else
        match f s ⟨ch, true⟩ d with
        | .ok s' det => .ok (s', some det)
        | .run s' _ => .ok (s', none)
        | .fail _ st unit _ => .error (st, unit)
        | .hold => .error (.stateConflict, noUnit)
/-- A PART_LOAD that passes its checks and meets a fault while the plan is written: the cores and the fault. -/
def loadFault (s : State) (ch : Nat) (d : Line) : Option (List Nat × DpaFail) :=
  match s.part? (descPart d) with
  | some v =>
    if descOp d = 0x19 ∧ v.state = .free then
      match checkLoad s ch (descPart d) v d with
      | (t, .ok (im, pl)) => ((applyImage t (descPart d) v im pl).2).map fun f => (v.cores, f)
      | _ => none
    else none
  | none => none
/-- The plan that a PART_LOAD stages, when it passes its checks. -/
def stageLoad (s : State) (ch : Nat) (d : Line) : State :=
  match s.part? (descPart d) with
  | some v =>
    match checkLoad s ch (descPart d) v d with
    | (_, .ok (_, pl)) => s.setPart (descPart d) (v.withPlan pl)
    | _ => s
  | none => s
/-- A member as it is staged at its arrival: nothing is written yet, so a fault of its writes is met at GROUP_END alone (R281,
R282). -/
def stageMember (s : State) (ch : Nat) (d : Line) : MemberOut :=
  match memberEff s ch d with
  | .ok x => .ok x
  | .error e => if (loadFault s ch d).isSome then .ok (stageLoad s ch d, some 0) else .error e
/-- The members in order, each on the state that the earlier ones leave: the last state and what the members leave, or the first
member that fails, with the fault of its writes if it met one. -/
def foldMembers (ch : Nat) : State → Nat → List Line → List (Option (BitVec 128)) →
    Except (GroupFail × Option (List Nat × DpaFail)) (State × List (Option (BitVec 128)))
  | s, _, [], ds => .ok (s, ds)
  | s, k, d :: t, ds =>
    match memberEff s ch d with
    | .ok (s', det) => foldMembers ch s' (k + 1) t (ds ++ [det])
    | .error (st, unit) => .error (⟨unit, descSeq d, st, k⟩, loadFault s ch d)
/-- The group of a channel takes one more member. -/
def addMember (s : State) (ch : Nat) (d : Line) : State :=
  s.modChan ch fun v => { v with group := v.group.map fun g => { g with members := g.members ++ [d], payload := g.payload + payloadOf d } }
/-- The state that the earlier members of a group leave, as a later one meets it at its arrival (R281). -/
def stagedState (s : State) (ch : Nat) (ms : List Line) : State :=
  ms.foldl (fun st d => match stageMember st ch d with
    | .ok (s', _) => s'
    | .error _ => st) s
/-- Checks the member of an open group that has just arrived (R281, R282). -/
def checkGroup (s : State) (ch : Nat) : State :=
  match (s.chanAt ch).group with
  | none => s
  | some g =>
    if g.members.length > 64 ∨ g.payload > 2 ^ 20 then markGroup s ch (lastMember g.members .noFit)
    else
      let d := g.members.getLastD 0#512
      match stageMember (stagedState s ch g.members.dropLast) ch d with
      | .error (st, unit) => markGroup s ch ⟨unit, descSeq d, st, g.members.length - 1⟩
      | .ok _ => s

-- GROUP_END (R225, R230, R281)

/-- The contexts that a group sets up have their entries per layer (R225). -/
def setupsProvided (s : State) (ms : List Line) : Bool :=
  ms.all fun d => decide (descOp d ≠ 0x50) || (match mget? s.kv.ctxs (descCtx d) with
    | some x => ctxProvided s (descCtx d) x
    | none => true)
/-- The rules that relate several objects, on the state that the last member leaves. -/
def jointFault (s : State) (ms : List Line) : Option Status :=
  if (ms.any fun d => decide (descOp d = 0x30)) && !capsFit s then some .powerDenied
  else if !setupsProvided s ms then some .noFit
  else none
/-- GEN of every region whose table the group changed rises by one in all (R230). -/
def mergeGens (old s : State) : State :=
  s.region.foldl (fun st e =>
    let g := (old.regionAt e.1).gen
    if e.2.gen = g then st
    else writeMirror (st.modRegion e.1 fun r => { r with gen := g + 1 }) e.1 []) s
/-- DETAIL of a member once the whole group has taken effect: a KV_PTE answers the GEN of the group's instant. -/
def memberDetail (s : State) (d : Line) (det : BitVec 128) : BitVec 128 :=
  if descOp d = 0x52 then BitVec.ofNat 128 (s.regionAt (descCore d)).gen.toNat else det
/-- The named GROUP_END member of a joint failure. -/
def endMember (ms : List Line) (st : Status) : GroupFail := lastMember ms st
/-- A fault while a member's plan is written is reported, and the SRAM of its cores is undefined (R149, R282). -/
def scarLoad (s : State) (ch : Nat) (d : Line) (x : Option (List Nat × DpaFail)) : State :=
  match x with
  | some (cores, f) => reportDesc (cores.foldl freeSram s) ch d f
  | none => s
/-- The entries of a group that has taken effect: a member that runs on holds the others (R281). -/
def committed (s : State) (ms : List (Line × Option (BitVec 128))) : List DescEntry :=
  let runs := ms.any fun x => x.2.isNone
  ms.map fun x => ⟨x.1, match x.2 with
    | none => .running
    | some det => if runs then .held (memberDetail s x.1 det) else .done .ok (memberDetail s x.1 det) s.time.now, true, 0⟩
/-- Takes a group's effects at one instant, or aborts it (R281). -/
def commitGroup (s : State) (ch : Nat) : State :=
  match (s.chanAt ch).group with
  | none => s
  | some g =>
    match foldMembers ch s 0 g.members [] with
    | .error (f, x) => abortGroup (scarLoad s ch (g.members.getD f.pos 0#512) x) ch f
    | .ok (s', ds) =>
      match jointFault s' g.members with
      | some st => abortGroup s ch (endMember g.members st)
      | none =>
        let s' := mergeGens s s'
        s'.modChan ch fun v => { v with group := none, q := v.q ++ committed s' (g.members.zip ds) }

-- What a group needs before its instant (R281, R339, R340, R417, R422)

/-- What has to come before a member's effect: power regions, an admission, a delivery or a flash write. -/
inductive Need where
  | regions (rs : List (Nat × Nat))
  | admission (c : Nat)
  | outcome (op : Nat)
  deriving DecidableEq, Repr
/-- What a member needs, on the state that the earlier ones leave. -/
def memberNeed (s : State) (ch : Nat) (d : Line) : Option Need :=
  match descOp d with
  | 0x19 =>
    match s.part? (descPart d) with
    | some v =>
      match (checkLoad s ch (descPart d) v d).2 with
      | .ok (_, pl) =>
        match (regionsOf v.cores pl).filter fun q => decide (quadAt s q ≠ .on) with
        | [] => none
        | rs => some (.regions rs)
      | .error _ => none
    | none => none
  | 0x20 => if descMode d = 1 ∧ (s.regionAt (descCore d)).mode = .normal then some (.admission (descCore d)) else none
  | 0x28 =>
    if s.sec.licences.any fun x => decide (licSerial x = licSerial (rdBytes s.hostMem (descAddr d) (bits d 207 192))) then none
    else some (.outcome 0x28)
  | 0x2A => some (.outcome 0x2A)
  | _ => none
/-- The first member that still needs something. -/
def firstNeed (ch : Nat) (ready : List Nat) : State → Nat → List Line → Option (Nat × Need)
  | _, _, [] => none
  | s, k, d :: t =>
    match (if ready.contains k then none else memberNeed s ch d) with
    | some x => some (k, x)
    | none => firstNeed ch ready (stagedState s ch [d]) (k + 1) t
/-- Another group's GROUP_END has arrived before. -/
def earlierGroup (s : State) (ch n : Nat) : Bool :=
  s.hst.chans.any fun e => decide (e.1 ≠ ch) && (match e.2.group.bind Group.ending with
    | some m => decide (m < n)
    | none => false)
/-- A member as the named member of a group's failure. -/
def namedMember (g : Group) (k : Nat) (unit : W32) (st : Status) : GroupFail := ⟨unit, descSeq (g.members.getD k 0#512), st, k⟩
/-- Begins what a member needs, or finds it refused. -/
def meetNeed (s : State) (ch : Nat) (g : Group) (k : Nat) : Need → State
  | .regions rs =>
    if g.asked = some k then
      if rs.any fun q => decide (quadAt s q = .off) then abortGroup s ch (namedMember g k noUnit .powerDenied) else s
    else (rs.foldl requestRegion s).modChan ch fun v => { v with group := v.group.map fun g => { g with asked := some k } }
  | .admission c =>
    if (s.regionAt c).modeReqs.any fun q => decide (q.chan = some ch) && q.grp then s
    else
      match requestMode s c ⟨some ch, 1, true⟩ with
      | .admission s' => s'
      | .now _ st => answerGroup s c ch st
  | .outcome _ => s
/-- A group whose GROUP_END has arrived goes on: it aborts, waits for its turn or for what it needs, or takes effect (R281). -/
def endGroup (s : State) (ch : Nat) : State :=
  match (s.chanAt ch).group with
  | none => s
  | some g =>
    match g.ending, g.fail with
    | none, _ => s
    | some _, some f => abortGroup s ch f
    | some n, none =>
      if earlierGroup s ch n then s
      else
        match foldMembers ch s 0 g.members [] with
        | .error (f, x) => abortGroup (scarLoad s ch (g.members.getD f.pos 0#512) x) ch f
        | .ok _ =>
          match firstNeed ch g.ready s 0 g.members with
          | some (k, x) => meetNeed s ch g k x
          | none => commitGroup s ch
/-- The place of the next group to end. -/
def nextEnding (s : State) : Nat := s.hst.chans.foldl (fun a e => max a (((e.2.group.bind Group.ending).map (· + 1)).getD 0)) 0
/-- GROUP_END has arrived. -/
def beginEnd (s : State) (ch : Nat) : State :=
  endGroup (s.modChan ch fun v => { v with group := v.group.map fun g => { g with ending := some (nextEnding s) } }) ch
/-- The member of a channel's ending group that waits for the outcome of its delivery or flash write. -/
def awaited (s : State) (ch op : Nat) : Option (Group × Nat) :=
  match (s.chanAt ch).group with
  | some g =>
    match g.ending, firstNeed ch g.ready s 0 g.members with
    | some n, some (k, .outcome o) => if o = op ∧ earlierGroup s ch n = false then some (g, k) else none
    | _, _ => none
  | none => none
/-- The outcome for a member of an ending group: the group goes on, or aborts with the failure. -/
def takeOutcome (s : State) (ch : Nat) (g : Group) (k : Nat) (bad : Option (W32 × Status)) : State :=
  match bad with
  | some (unit, st) => abortGroup s ch (namedMember g k unit st)
  | none => endGroup (s.modChan ch fun v => { v with group := v.group.map fun g => { g with ready := g.ready ++ [k] } }) ch
/-- LIC_INSTALL (R422): alone, or the flash write of a member at its group's end. -/
def execLicInstall (ch : ChanId) (flashOk : Bool) (s : State) : Res :=
  match awaited s ch.val 0x28 with
  | some (g, k) => .next (takeOutcome s ch.val g k (if flashOk then none else some (hearthUnit s 297, .timeout)))
  | none => .next (descRow s ch.val 0x28 anyDesc (licInstallEff flashOk))
/-- FW_UPDATE (R417): alone, or the delivery of a member while its group is staged. -/
def execFwUpdate (ch : ChanId) (failedUnit : Option W32) (s : State) : Res :=
  match awaited s ch.val 0x2A with
  | some (g, k) => .next (takeOutcome s ch.val g k (failedUnit.map fun u => (u, .checkMismatch)))
  | none => .next (descRow s ch.val 0x2A anyDesc (fwUpdateEff failedUnit))

-- Arrival (R270, R280, R282)

/-- Groups that hold a staging place (R280). -/
def stagedGroups (s : State) : Nat :=
  (s.hst.chans.filter fun e => match e.2.group with
    | some g => g.fail.isNone && !g.waiting
    | none => false).length
/-- Puts a descriptor that completes at once into its channel's entries. -/
def putDone (s : State) (ch : Nat) (d : Line) (st : Status) : State :=
  s.modChan ch fun v => { v with q := v.q ++ [⟨d, .done st (detUnit noUnit) s.time.now, false, 0⟩] }
/-- Puts a descriptor that waits to start into its channel's entries. -/
def putReady (s : State) (ch : Nat) (d : Line) : State := s.modChan ch fun v => { v with q := v.q ++ [⟨d, .ready, false, 0⟩] }
/-- GROUP_BEGIN opens a group; without a staging place it waits (R280). -/
def openGroup (s : State) (ch : Nat) (d : Line) : State :=
  let g : Group :=
    { tag := BitVec.ofNat 16 (bits d 31 16), members := [d], payload := payloadOf d, fail := none,
      waiting := decide (stagedGroups s ≥ 16), ending := none, asked := none, ready := [] }
  s.modChan ch fun v => { v with group := some g }
/-- An open group goes on behind its last member: it is checked, and takes effect with GROUP_END. -/
def afterMember (s : State) (ch : Nat) (d : Line) : State :=
  let waits := ((s.chanAt ch).group.map Group.waiting).getD false
  if waits then s
  else
    let s := checkGroup s ch
    if bit d 11 then beginEnd s ch else s
/-- A descriptor of a channel without an open group. -/
def arriveAlone (s : State) (ch : Nat) (d : Line) : State :=
  if bit d 10 then afterMember (openGroup s ch d) ch d
  else
    match arrivalFault s ch d with
    | some st => putDone s ch d st
    | none => if bit d 11 then putDone s ch d .badDescriptor else putReady s ch d
/-- A descriptor that meets an open group: a member, or one that ends the group. -/
def arriveInGroup (s : State) (ch : Nat) (g : Group) (d : Line) : State :=
  let s := addMember s ch d
  if bit d 10 || decide (bits d 31 16 ≠ g.tag.toNat) then
    abortGroup s ch (g.fail.getD (lastMember (g.members ++ [d]) .badDescriptor))
  else afterMember s ch d
/-- A descriptor whose SEQ is not the expected one is not run, and the channel stalls; an open group cannot go on, and its members
that have been fetched end with it (log entry 76). -/
def arriveWrong (s : State) (ch : Nat) (d : Line) : State :=
  let s := match (s.chanAt ch).group with
    | some g => abortGroup (joinFetched s ch) ch (g.fail.getD (lastMember g.members .badDescriptor))
    | none => s
  (putDone s ch d .badDescriptor).modChan ch fun v => { v with state := if v.state = .stalledProducer then .stalledProducer else .stalledSeq }
/-- A descriptor waits while a group is about to take effect; a group member waits until the channel's earlier descriptors have started, and on a MGMT channel or with FENCE until they have
completed; one that reads host memory waits for bus mastering. -/
def memberWaits (s : State) (v : Channel) (d : Line) : Bool :=
  let grouped := v.group.isSome || bit d 10
  ((v.group.bind Group.ending).isSome) ||
  grouped && (v.q.any DescEntry.waiting || (decide (v.kind = 3) || bit d 8) && v.q.any DescEntry.started ||
    (match v.group with
      | some g => g.waiting
      | none => false) || readsHost d && !s.canMaster)
/-- Descriptors already fetched go on: in OPEN and in every stall (R261). -/
def takesFetched (v : Channel) : Bool :=
  match v.state with
  | .closing | .closed => false
  | _ => true
/-- DESCRIPTOR_ARRIVAL (R261, R270): the oldest fetched descriptor of a channel is checked. -/
def execDescriptorArrival (ch : ChanId) (s : State) : Res :=
  let v := s.chanAt ch.val
  match v.raw with
  | [] => .next s
  | d :: rest =>
    if !takesFetched v || memberWaits s v d then .next s
    else
      let s := s.setChan ch.val { v with raw := rest, nextSeq := v.nextSeq + 1 }
      if descSeq d ≠ v.nextSeq then .next (arriveWrong s ch.val d)
      else
        match v.group with
        | some g => .next (arriveInGroup s ch.val g d)
        | none => .next (arriveAlone s ch.val d)
/-- GROUP_ADMISSION (R280): a staging place has become free. -/
def execGroupAdmission (ch : ChanId) (s : State) : Res :=
  match (s.chanAt ch.val).group with
  | none => .next s
  | some g =>
    if !g.waiting || decide (stagedGroups s ≥ 16) then .next s
    else
      let s := s.modChan ch.val fun v => { v with group := some { g with waiting := false } }
      .next (afterMember s ch.val (g.members.getLastD 0#512))
/-- GROUP_END has been fetched and waits to be checked. -/
def endFetched (v : Channel) (g : Group) : Bool := v.raw.any fun d => bit d 11 && decide (bits d 31 16 = g.tag.toNat)
/-- GROUP_TIMEOUT (R282): 100 ms without GROUP_END. -/
def execGroupTimeout (ch : ChanId) (s : State) : Res :=
  let v := s.chanAt ch.val
  match v.group with
  | none => .next s
  | some g =>
    if endFetched v g || g.ending.isSome then .next s
    else
      let s := joinFetched s ch.val
      .next (abortGroup s ch.val (g.fail.getD (lastMember (groupMembers s ch.val) .timeout)))

/-- The data of a group member cannot be read as it arrives (R256): its group fails. -/
def failArriving (s : State) (ch : Nat) (st : Status) : State :=
  let v := s.chanAt ch
  match v.raw with
  | [] => s
  | d :: rest =>
    let reads := takesFetched v && !memberWaits s v d && decide (descSeq d = v.nextSeq) && readsHost d
    let opens := v.group.isNone && bit d 10 && decide (stagedGroups s < 16)
    let joins := match v.group with
      | some g => !bit d 10 && decide (bits d 31 16 = g.tag.toNat) && g.fail.isNone
      | none => false
    if !reads || !(opens || joins) then s
    else
      let s := s.setChan ch { v with raw := rest, nextSeq := v.nextSeq + 1 }
      let s := if opens then openGroup s ch d else addMember s ch d
      let s := markGroup s ch (lastMember (groupMembers s ch) st)
      if bit d 11 then beginEnd s ch else s
/-- A failing read of host memory (R256), with its status. -/
def readFailure (what : HostRead) (st : Status) (s : State) : State :=
  if !readsNow s what then s
  else
    let s := if st = .timeout then noteTimeout s else s
    match what with
    | .data ch true => failArriving s ch.val st
    | _ => hostReadFails s what st
/-- COMPLETION_TIMEOUT (R256). -/
def execCompletionTimeout (what : HostRead) (s : State) : Res := .next (readFailure what .timeout s)
/-- COMPLETION_ERROR (R256): Unsupported Request or Completer Abort. -/
def execCompletionError (what : HostRead) (_err : ReadErr) (s : State) : Res := .next (readFailure what .addrFault s)

-- Completion (R272)

/-- A running PART_LOAD goes on (R338). -/
def continueLoad (ch : Nat) (s : State) (e : DescEntry) : State := putEff ch e.desc (finishLoad s ch e.desc) s
/-- DESCRIPTOR_COMPLETION (R272): what has started goes on or ends, and completion records are written in SEQ order. -/
def execDescriptorCompletion (ch : ChanId) (s : State) : Res :=
  let s := (runningAt (s.chanAt ch.val) 0x19).foldl (continueLoad ch.val) s
  let s := endGroup (continueAll s ch.val) ch.val
  .next (writeDone ((s.chanAt ch.val).q.length + 1) s ch.val)

end Sys2Proof.Machine
end

