-- ==== Sys2Proof/Machine/Startup.lean ====
section
/-! DEFINITION. Cold start, boot sources and bundles, self-tests, repair, READY, and the boot mailbox (chapter 15; R186, R187, R314,
R315). BOOT_STATUS.STAGE says which step of the start comes next. -/

namespace Sys2Proof.Machine

-- A start that stops (R410, R411)

/-- The device stays in RESET_HOLD with a cause. The record of R411 is written when the hearth firmware runs. -/
def holdReset (s : State) (cause : Nat) (unit : W32) (action : Nat) (code : Nat := 0) : State :=
  let s := if s.dev.state = .selftest then
      report s { unit := unit, status := 0, cls := .deviceFatal, action := action, code := code } true
    else s
  let s := (natsFrom 0 8).foldl stopClock s
  setDevState { s with
    boot := { s.boot with fault := true, cause := cause, failUnit := unit, waiting := false },
    pins := { s.pins with fault := true } } .resetHold
/-- The start has not failed and stands at a stage. -/
def atStage (s : State) (n : Nat) : Bool := !s.boot.fault && decide (s.boot.stage = n)
/-- Moves the start to a stage. -/
def toStage (s : State) (n : Nat) : State := { s with boot := { s.boot with stage := n } }

-- Power and clocks (R314, R315, R409, R432)

/-- PWR_OK_RISE (R409, R432): the straps are sampled and the cold start begins; BOOT_SRC = 11 holds it (R401). -/
def execPwrOkRise (s : State) : Res :=
  if s.pins.pwrOk then .next s
  else
    let s := powerOff s
    let s := setDevState { s with strap := s.land, pins := { s.pins with pwrOk := true, fault := false } } .resetHold
    if s.strap.bootSrc = 3#2 then .next (holdReset s 2 (hearthUnit s 256) 0) else .next s
/-- ROOT_PLL_RELEASE (R314, R315): the settle delay ends; the strapped reference is tried first. The device finds VBYP in
its range, unless it has left it (R331, R436). -/
def execRootPllRelease (s : State) : Res :=
  if s.dev.state ≠ .resetHold || s.boot.fault || s.clk.rootReleased then .next s
  else .next { s with
    clk := { s.clk with rootReleased := true, active := if s.strap.refSel then .b else .a },
    pwr := { s.pwr with vbypOk := !s.pwr.vbypLost } }
/-- Kindling waits for a bundle from the mailbox (R401, R407). ACK stands until the next PUSH (R425). -/
def mailboxWait (s : State) : State :=
  { s with boot := { s.boot with waiting := true, received := 0, nextChunk := 0, bundle := [], mbox := false } }
/-- Kindling starts (R409): with BOOT_SRC = 01 and no bundle it waits for one. -/
def startKindling (s : State) : State :=
  let s := toStage s 1
  if s.strap.bootSrc = 1#2 && !s.boot.mbox then mailboxWait s else s
/-- The root PLL and behind it the timebase have locked; global time runs. -/
def pllsLocked (s : State) : State :=
  let s := s.setRef s.clk.active { s.refAt s.clk.active with present := true }
  { s with
    clk := { s.clk with rootLocked := true, timebaseLocked := true, holdover := false },
    time := { s.time with held := false }, pins := { s.pins with fault := false } }
/-- ROOT_PLL_LOCK (R315, R397). -/
def execRootPllLock (s : State) : Res :=
  if !s.clk.rootReleased || s.clk.rootLocked || !atStage s 0 || (s.dev.state ≠ .resetHold && s.dev.state ≠ .boot) then .next s
  else .next (startKindling (setDevState (pllsLocked s) .boot))
/-- ROOT_PLL_LOCK_TIMEOUT (R315, R410): the other reference is tried once; then the device holds with NO_REF. -/
def execRootPllLockTimeout (s : State) : Res :=
  if !s.clk.rootReleased || s.clk.rootLocked || !atStage s 0 then .next s
  else if !s.clk.triedOther then .next { s with clk := { s.clk with triedOther := true, active := otherRef s.clk.active } }
  else .next (holdReset s 1 (hearthUnit s 264) 0)
/-- FLASH_DISCOVERY_TIMEOUT (R402). -/
def execFlashDiscoveryTimeout (s : State) : Res :=
  if s.dev.state = .boot && atStage s 1 then .next (holdReset s 3 (hearthUnit s 297) 0) else .next s

-- Bundles (R403 to R406, R412)

/-- Bytes of an image bank. -/
def bankBytes : Nat := 0x1000000
/-- A flash bank: false A, true B. -/
def flashBank (s : State) (b : Bool) : Nat → Byte := fun i => rdByte s.flash (bankBytes * b2n b + i)
/-- The bundle in use. -/
def bundleSrc (s : State) : Nat → Byte := if s.boot.mbox then fun i => s.boot.bundle.getD i 0#8 else flashBank s s.boot.bank
/-- Bytes that a bundle's images may take. -/
def bundleLen (s : State) : Nat := if s.boot.mbox then s.boot.bundle.length else bankBytes
/-- A bundle's manifest verifies (R406). -/
def bundleOk (s : State) (f : Nat → Byte) (len : Nat) : Bool := manifestOk s f && bundleForm (manifestAt f) len
/-- The image of a type has the manifest's hash. -/
def imageHolds (s : State) (kind : Nat) : Bool :=
  match entryOf (manifestAt (bundleSrc s)) kind with
  | some e => hashHolds (bundleSrc s) e
  | none => false
/-- The bank that kindling tries first: one whose manifest verifies, the higher BUNDLE_VER, A on a tie. -/
def firstBank (s : State) : Bool :=
  let a := flashBank s false
  let b := flashBank s true
  bundleOk s b bankBytes &&
    (!bundleOk s a bankBytes || decide ((manifestAt a).bundleVer < (manifestAt b).bundleVer))
/-- A check of the bundle in use has failed at a unit (R406, R407): the other bank, the mailbox, or RESET_HOLD. -/
def bundleFails (s : State) (unit : W32) : State :=
  let s := { s with boot := { s.boot with resume := max s.boot.resume s.boot.stage } }
  if s.boot.mbox then
    setDevState (toStage (mailboxWait { s with boot := { s.boot with result := .checkMismatch } }) 1) .boot
  else if !s.boot.fallback then
    setDevState { s with boot := { s.boot with fallback := true, bank := !s.boot.bank, stage := 1 } } .boot
  else if s.strap.bootSrc = 2#2 then setDevState (toStage (mailboxWait s) 1) .boot
  else holdReset s 4 unit 0
/-- The board configuration record (R408). -/
def boardRecord (s : State) : List Byte := rdBytes s.flash 0x2000000 64
/-- The record stands. -/
def boardOk (s : State) : Bool :=
  let b := boardRecord s
  let n := fun a k => leNat (fun i => b.getD i 0#8) a k
  decide (n 0 4 = 0x43425A4B ∧ n 4 2 = 1 ∧ n 6 2 = 64 ∧ n 60 4 = crc32c (b.take 60))
/-- Applies the record's port settings, or the defaults. -/
def applyBoard (s : State) : State :=
  let ok := boardOk s
  let v := leNat (fun i => (boardRecord s).getD (8 + i) 0#8) 0 9
  let s := { s with boot := { s.boot with boardBad := !ok } }
  (natsFrom 1 24).foldl (fun st p => st.modPort p fun x => { x with
    setting := if ok then v / 2 ^ (2 * p - 2) % 4 else 0, reverse := ok && v.testBit (48 + p - 1) }) s
/-- Measurements of R420 that kindling takes. -/
def takeMeasures (s : State) (m : Manifest) : State :=
  let img := fun k => (entryOf m k).map Image.hash
  let all := [(0, some m.hash), (1, some Config.kindlingHash), (2, img 1), (3, img 2), (4, img 3), (5, img 4), (6, img 5),
    (7, some (sha384 (boardRecord s)))]
  { s with boot := { s.boot with measures := all.filterMap fun e => e.2.map fun h => (e.1, h) } }
/-- The manifest and the HEARTH image have verified: hearth firmware runs. -/
def hearthRuns (s : State) : State :=
  let m := manifestAt (bundleSrc s)
  let s := applyBoard (takeMeasures { s with boot := { s.boot with manifest := some m, waiting := false } } m)
  setDevState (toStage s 2) .selftest
/-- Kindling (R406): the choice of the bank, the manifest, and the HEARTH image. -/
def kindle (s : State) : State :=
  let s := if s.boot.mbox || s.boot.fallback then s else { s with boot := { s.boot with bank := firstBank s } }
  if bundleOk s (bundleSrc s) (bundleLen s) && imageHolds s 1 then hearthRuns s else bundleFails s (hearthUnit s 256)
/-- What the security engine establishes when it starts: identity, the licences that verify, and a record of each
that does not (R419, R422). -/
def securityRuns (s : State) : State :=
  let key := Config.unwrapKey s.fuse.wrappedKey
  let ok := decide (publicKey key = Config.certKey s.fuse.certificate) && !s.sec.debugUnlocked
  let good := s.sec.licences.filter (licVerifies s)
  let bad := s.sec.licences.filter fun b => !licVerifies s b
  let f := good.foldl (fun a b => a ||| BitVec.ofNat 3 (licN b 56 8)) 0#3
  let s := { s with sec := { s.sec with
    identityOk := ok, key := if ok then some key else none, features := if ok && !s.sec.cleared then f else 0, badLicences := if ok then bad.length else s.sec.licences.length } }
  let s := if ok then s else reportContained s (hearthUnit s 259) .ok
  bad.foldl (fun st _ => reportContained st (hearthUnit s 259) .licenceDenied) s
/-- Stage behind the privileged images: a warm start runs no analogue test, no power-up and no logic BIST (R416). -/
def afterImages (s : State) : Nat := max (if s.boot.cold then 3 else 8) s.boot.resume
/-- PRIVILEGED_IMAGE_VERIFY (R406, R412): by kindling, by the security engine and management cores 1 and 2, and by the tier
controllers, as the stage says; a start that does not come by stage 5 again verifies the tier controllers' image with the others. -/
def execPrivilegedImageVerify (s : State) : Res :=
  if atStage s 1 && s.dev.state = .boot && !s.boot.waiting then .next (kindle s)
  else if atStage s 2 then
    if !imageHolds s 1 then .next (bundleFails s (hearthUnit s 257))
    else if !imageHolds s 2 then .next (bundleFails s (hearthUnit s 259))
    else if decide (afterImages s > 5) && !imageHolds s 3 then .next (bundleFails s (tierUnit s 0))
    else .next (toStage (securityRuns s) (afterImages s))
  else if atStage s 5 then
    if imageHolds s 3 then .next (toStage s 6) else .next (bundleFails s (tierUnit s 0))
  else .next s

-- Self-tests and tier power (R186, R187, R334 to R337, R409, R410)

/-- Lanes of a port that the loop-back found bad, by port lane (R286, R408). -/
def badOf (v : Port) (p : Nat) (lanes : BitVec 96) : BitVec 4 :=
  BitVec.ofNat 4 ((natsFrom 0 4).foldl (fun a i =>
    a + b2n (bit lanes (4 * (p - 1) + (if v.reverse then 3 - i else i))) * 2 ^ i) 0)
/-- The unit that stands for a layer's sensors, as in R361. -/
def sensorUnit (s : State) (l : Nat) : W32 := if l = 0 then hearthUnit s 305 else tierUnit s ((l - 1) / 2)
/-- The sensor cross-check: far sensors are excluded, and a zone left without a sensor stops the start. -/
def crossCheck (dc : List Int) (s : State) : State :=
  let bad := (natsFrom 0 17).flatMap (farSensors dc)
  match (natsFrom 0 17).find? (zoneBlind bad) with
  | some l => holdReset s 9 (sensorUnit s l) 0
  | none => toStage { s with thm := { s.thm with badSensors := bad } } 7
/-- The lanes of every port that the loop-back found bad. -/
def excludeLanes (lanes : BitVec 96) (s : State) : State :=
  (natsFrom 1 24).foldl (fun st p => st.modPort p fun v => { v with lanesBad := badOf v p lanes }) s
/-- ANALOGUE_SELFTEST (R410): the first part, or the second. -/
def execAnalogueSelftest (r : AnalogueResult) (s : State) : Res :=
  match r with
  | .firstPass => if atStage s 3 then .next (toStage s 4) else .next s
  | .pllJitter tb => if atStage s 3 then .next (holdReset s 6 (hearthUnit s (264 + b2n tb)) 0) else .next s
  | .ivrReference t => if atStage s 3 then .next (holdReset s 7 (ivrUnit s t.val) 0) else .next s
  | .secondPass lanes dc =>
    if !sensorOk dc then .fault .malformedCommand
    else if atStage s 6 then .next (crossCheck dc (excludeLanes lanes s))
    else .next s
/-- The phases of a mask, for a group of n. -/
def phasesOf (mask n : Nat) : List Nat := (natsFrom 0 n).filter mask.testBit
/-- The next tier to be powered. -/
def nextTier (s : State) : Option Nat := (natsFrom 0 8).find? fun t => !s.boot.tiersUp.contains t
/-- A tier's rails with the phases that failed their test; its four quadrants are admitted (R409, R410; log entry 80). -/
def railsUp (s : State) (t : Nat) (vct vdl vda : List Nat) : State :=
  let s := (vct ++ vdl ++ vda).foldl (fun st i => phaseRecord st t i) s
  let s := s.modPwr t fun v => { v with
    badVct := vct, badVdl := vdl, badVda := vda, bypass := false, failed := false, setpoint := setpointOf s t 4,
    quads := (natsFrom 0 4).foldl (fun m q => mput m q QState.on) [] }
  let s := s.modClk t fun k => { k with cur := 4, target := none, toBypass := false, stopped := false, floorBypass := 0 }
  { s with boot := { s.boot with tiersUp := s.boot.tiersUp ++ [t] }, pwr := { s.pwr with admitted := s.pwr.admitted + 4 } }
/-- A VCT group with more than 8 failed phases: bypass, or the group has failed (R335, R410). -/
def startBypass (s : State) (t : Nat) : State :=
  if s.pwr.vbypOk && decide (bypassCount s < 4) then
    let s := (s.modPwr t fun v => { v with bypass := true }).modClk t fun k => { k with floorBypass := 3 }
    report s { unit := ivrUnit s t, status := 0, cls := .contained, action := 3 }
  else
    let s := (stopClock s t).modPwr t fun v => { v with failed := true, quads := [] }
    report s { unit := ivrUnit s t, status := Status.powerDenied.code, cls := .contained, action := 3 }
/-- TIER_POWER_UP (R409, R410): tiers 0 to 7 in turn; a bit of each mask names a phase that fails its test. Behind THERMTRIP the groups
stay open (R360). -/
def execTierPowerUp (t : TierId) (badVct badVdl badVda : Nat) (s : State) : Res :=
  if !atStage s 4 || s.thm.thermtrip || nextTier s ≠ some t.val then .next s
  else
    let vct := phasesOf badVct 48
    let vdl := phasesOf badVdl 24
    let vda := phasesOf badVda 8
    let s := railsUp s t.val vct vdl vda
    if vdl.length > 8 || vda.length > 2 then .next (holdReset s 8 (ivrUnit s t.val) 4)
    else
      let s := if vct.length > 8 then startBypass s t.val else s
      if (nextTier s).isNone then .next (toStage s 5) else .next s
/-- Core of a unit address of this device. -/
def unitCore (u : W32) : Nat := coreIdOf (bits u 19 17) (bits u 16 13) (bits u 12 9)
/-- The site is in service: its core is not quarantined, and it is not an array that the grade leaves out (R68, R410). -/
def siteUsed (s : State) (u : W32) : Bool :=
  !(decide (bits u 8 0 < 256) && s.isQuar (unitCore u)) && !(decide (s.fuse.grade.arrays < bits u 8 0 ∧ bits u 8 0 ≤ 4))
/-- LOGIC_BIST (R410). -/
def execLogicBist (mismatch : List W32) (s : State) : Res :=
  if !atStage s 7 then .next s
  else
    match mismatch.find? (siteUsed s) with
    | some u => .next (holdReset s 10 u 4)
    | none => .next (toStage s 8)
/-- CHECKER_SELFTEST (R186, R188, R193). -/
def execCheckerSelftest (fail : Option CheckerFail) (s : State) : Res :=
  if !atStage s 8 || s.memc.selftestPass then .next s
  else
    match fail with
    | some f =>
      let s := { s with memc := { s.memc with
        selftestDone := true, selftestPass := false, failUnit := f.unit, failKind := f.kind.val, failValid := true } }
      .next (holdReset s 11 f.unit 4)
    | none =>
      let s := { s with memc := { s.memc with selftestDone := true, selftestPass := true } }
      if s.boot.cold then .next s else .next (toStage s 9)
/-- Every DRAM and SRAM byte is zero, with valid codes, and no page is stale (R187). -/
def fillMemory (s : State) : State :=
  { s with
    mem := clearMem s.mem 0 (0x4000000000 + 0x200000000),
    err := { sram := [], dram := [], stale := [], synd := [] },
    memc := { s.memc with fillDone := true, lost := [], fillTime := s.time.now } }
/-- MEMORY_FILL (R187): at a cold start, behind the checker self-test. -/
def execMemoryFill (s : State) : Res :=
  if atStage s 8 && s.memc.selftestPass && s.boot.cold then .next (toStage (fillMemory s) 9) else .next s

-- Repair (R414)

/-- Faulty lines of chimneys, from the fuses and the repair log (R183). -/
def allLines (s : State) : List (Nat × Nat × Nat) := (s.fuse.chimLines ++ s.ras.faultyLines).foldl addOnce []
/-- Lines of a group that are to be replaced. -/
def linesIn (ls : List (Nat × Nat × Nat)) (c g : Nat) : Nat := (ls.filter fun l => decide (l.1 = c ∧ l.2.1 = g)).length
/-- One chimney group after repair: spares in use, or disabled. -/
def repairGroup (ls : List (Nat × Nat × Nat)) (s : State) (e : Nat × Nat) : State :=
  let n := linesIn ls e.1 e.2
  let k := s.chimAt e.1
  let off := decide (n > 4) || s.ras.disabledLog.contains e
  let dis := if off then insertNat e.2 k.disabled else k.disabled
  s.setChim e.1 { k with spares := mset k.spares e.2 (min 4 n) 0, disabled := dis, failed := decide (dis.length ≥ 3) }
/-- Chimneys as fuses and repair log leave them. -/
def repairChimneys (s : State) : State :=
  let ls := allLines s
  let gs := (ls.map (fun l => (l.1, l.2.1)) ++ s.ras.disabledLog).foldl addOnce []
  gs.foldl (repairGroup ls) { s with chim := [] }
/-- Compute domains of quarantined cores are held in reset without clock (R389). -/
def holdQuarantined (s : State) : State :=
  s.ras.quar.foldl (fun st q => st.modCore q.core fun k =>
    { k with frozen := some (k.frozen.getD (st.rawCycles q.core)) }) s
/-- Floors that ageing has raised (R366). -/
def applyAgeing (s : State) : State :=
  (natsFrom 0 8).foldl (fun st t => st.modClk t fun k => { k with floorAge := (st.ageAt t).floor }) s
/-- Every port starts training, but one that is held down (R293, R295). -/
def trainPorts (s : State) : State :=
  (natsFrom 1 24).foldl (fun st p =>
    if (st.portAt p).state = .heldDown then st else startTraining (st.modPort p fun v => { v with trained := false }) p) s
/-- Rows and arrays as the fuses leave them (R16, R17, R32, R67, R68): the failed or the spare site of each row is held without power
and clock, and every array that hosts no logical array without clock. -/
def repairSites (s : State) : State :=
  { s with repair := {
      site := (natsFrom 0 128).foldl (fun m i => mset m i (if mget s.fuse.failedCol i 0 = 0 then 17 else mget s.fuse.failedCol i 0) 0) [],
      arrays := (natsFrom 0 2048).foldl (fun m c =>
        mset m c (BitVec.ofNat 4 ((s.fuse.arraysOff c).foldl (fun a i => a + 2 ^ i) 0)) 0) [] } }
/-- FUSE_REPAIR (R414); behind it ports train while microcode is delivered (R409). -/
def execFuseRepair (s : State) : Res :=
  if !atStage s 9 then .next s
  else .next (trainPorts (toStage (applyAgeing (holdQuarantined (repairChimneys (repairSites s)))) 10))

-- Microcode, training, READY (R295, R409, R413, R418)

/-- Cores that receive microcode: quarantined ones receive nothing (R413). -/
def ucodeCores (s : State) : List Nat := (natsFrom 0 2048).filter fun c => !s.isQuar c
/-- The first unit at which the delivery of an image fails twice, because the image does not have its CRC-32C: the sequencer of a core, or
a region controller (R413). -/
def crcFails (s : State) (kind sub : Nat) : Option W32 :=
  match entryOf (manifestAt (bundleSrc s)) kind with
  | some e => if crcHolds (bundleSrc s) e then none else (ucodeCores s).head?.map fun c => coreUnit s c sub
  | none => none
/-- Every unit that receives microcode holds the bundle's: its image, by its hash (R413). -/
def storeUcode (s : State) : State :=
  let img := fun k => ((entryOf (manifestAt (bundleSrc s)) k).map Image.hash).getD []
  { s with boot := { s.boot with
      ucode := true, seqCode := (ucodeCores s).map fun c => (c, img 4), regionCode := (ucodeCores s).map fun c => (c, img 5) } }
/-- MICROCODE_DELIVERY (R413): the security engine's hash check, the units' check of the CRC, and the unit at which the delivery failed
twice, if any: a unit of a core in service. -/
def execMicrocodeDelivery (failedTwice : Option W32) (s : State) : Res :=
  if !atStage s 10 || s.boot.ucode then .next s
  else if !imageHolds s 4 || !imageHolds s 5 then .next (bundleFails s (hearthUnit s 259))
  else
    match ((crcFails s 4 104).orElse fun _ => crcFails s 5 80).orElse fun _ => failedTwice.filter (siteUsed s) with
    | some u => .next (holdReset s 12 u 0)
    | none => .next (storeUcode s)
/-- TRAINING_WAIT_END (R295). -/
def execTrainingWaitEnd (s : State) : Res :=
  if atStage s 10 then .next { s with boot := { s.boot with trainEnd := true } } else .next s
/-- Some port still trains. -/
def portsTrain (s : State) : Bool := (natsFrom 1 24).any fun p => inTraining (s.portAt p)
/-- A powered tier runs at its fastest permitted step; a step that completes is counted (R323, R329). -/
def stepUp (s : State) (t : Nat) : State :=
  if (s.pwrAt t).failed then s
  else
    let n := limitOf s t
    let moved := decide ((s.clkAt t).cur ≠ n)
    let s := (s.modClk t fun k => { k with stopped := false, cur := n, target := none, phase := 0 }).modPwr t fun v =>
      { v with setpoint := setpointOf s t n }
    if moved then { s with clk := { s.clk with steps := s.clk.steps + 1 } } else s
/-- Records and signatures that waited for READY (R381, R406, R408). -/
def readyRecords (s : State) : State :=
  let s := if s.boot.fallback then reportContained s (hearthUnit s 256) .ok else s
  let s := if s.boot.boardBad then reportContained s (hearthUnit s 297) .checkMismatch else s
  let due := s.ras.sigDue
  due.foldl writeSignature { s with ras := { s.ras with sigDue := [] } }
/-- DEVICE_READY (R397, R409). -/
def execDeviceReady (s : State) : Res :=
  if !atStage s 10 || !s.boot.ucode || (portsTrain s && !s.boot.trainEnd) then .next s
  else
    let s := s.boot.tiersUp.foldl stepUp (toStage s 11)
    let s := { s with
      dev := { s.dev with ready := true },
      weevil := { s.weevil with running := false, slice := 0, slot := none, visitStart := s.time.now, lapStart := s.time.now } }
    let s := setDevState s (if degradeCause s then .degraded else .ready)
    .next (readyRecords (releaseHeldWrites s))
/-- SVN_ADVANCE (R418). -/
def execSvnAdvance (s : State) : Res :=
  match s.boot.manifest with
  | none => .next s
  | some m =>
    if !s.dev.ready || s.boot.stage ≠ 11 then .next s
    else
      let own := BitVec.ofNat 4 (2 ^ m.keySlot)
      .next { s with fuse := { s.fuse with
        svn := if m.advance then max s.fuse.svn m.svn else s.fuse.svn,
        revoked := s.fuse.revoked ||| (m.revoke &&& ~~~own) } }

-- The boot mailbox (R407, R425)

/-- Every image of a bundle has its hash (R406). -/
def wholeBundleOk (s : State) : Bool :=
  bundleOk s (bundleSrc s) (bundleLen s) && (manifestAt (bundleSrc s)).entries.all (hashHolds (bundleSrc s))
/-- The transfer starts again from CHUNK_SEQ 0 with a result. -/
def restartMailbox (s : State) (st : Status) : State := { mailboxWait s with boot := { (mailboxWait s).boot with result := st } }
/-- The final chunk has come: the bundle is verified. -/
def endMailbox (s : State) : State :=
  let t := { s with boot := { s.boot with mbox := true } }
  if wholeBundleOk t then hearthRuns t else restartMailbox s .checkMismatch
/-- A pushed chunk (R407). -/
def takeChunk (s : State) (last : Bool) : State :=
  let n := s.boot.mboxLen.toNat
  if n = 0 || s.boot.mboxSeq.toNat ≠ s.boot.nextChunk || s.boot.received + n > bankBytes then restartMailbox s .badDescriptor
  else
    let s := { s with boot := { s.boot with
      bundle := s.boot.bundle ++ rdBytes s.boot.window 0 n, received := s.boot.received + n, nextChunk := s.boot.nextChunk + 1,
      ack := true, result := .ok } }
    if last then endMailbox s else s
/-- A write of BOOT_MBOX_CTRL (R425): discarded while WAITING is 0. -/
def writeMboxCtrl (s : State) (v : W64) : State :=
  if !s.boot.waiting then s
  else
    let n := bits v 15 0
    let s := { s with boot := { s.boot with
      mboxLen := if decide (1 ≤ n ∧ n ≤ 32768) then BitVec.ofNat 16 n else s.boot.mboxLen,
      mboxSeq := BitVec.ofNat 16 (bits v 47 32) } }
    if bit v 16 then takeChunk { s with boot := { s.boot with ack := false } } (bit v 17) else s
/-- MAILBOX_PUSH (R407): the write of BOOT_MBOX_CTRL that takes a chunk. -/
def execMailboxPush (value : W64) (s : State) : Res := .next (writeMboxCtrl s value)
/-- MAILBOX_LAST (R407): the same write with LAST. -/
def execMailboxLast (value : W64) (s : State) : Res := .next (writeMboxCtrl s value)
/-- MAILBOX_TIMEOUT (R407). -/
def execMailboxTimeout (s : State) : Res :=
  if s.boot.waiting then .next (holdReset s 5 (hearthUnit s 256) 0) else .next s

end Sys2Proof.Machine
end

