-- ==== Sys2Proof/Machine/Resets.lean ====
section
/-! DEFINITION. Warm device resets, the PCIe link and PERST#, the firmware watchdog, and flash writes that failed (R252, R313, R395,
R415, R416, R427, R447, R450). -/

namespace Sys2Proof.Machine

-- The PCIe link (R252, R313, R431)

/-- The link is down: what the host has set in configuration space is gone with it. -/
def pcieDown (s : State) : State :=
  { s with hst := s.hst.unconfigured }
/-- Code of a cause in DEV_RESET_INFO (R450). -/
def causeCode : WarmCause → Nat
  | .devReset => 1 | .snapshotArea => 2 | .watchdog => 3 | .perst => 4 | .debugUnlock => 5 | .badStatus => 6
/-- Requests a warm reset; one already requested stands. -/
def wantReset (s : State) (c : WarmCause) : State :=
  { s with dev := { s.dev with resetWanted := s.dev.resetWanted.orElse fun _ => some c } }
/-- A cold start that has not reached READY, or a device that holds after a failure (R411, R427). -/
def coldOrHeld (s : State) : Bool :=
  match s.dev.state with
  | .off | .resetHold => true
  | .boot | .selftest => s.boot.cold
  | _ => false
/-- PERST_ASSERT (R415, R427, R441): the PCIe controller is reset; outside a cold start a warm reset follows. -/
def execPerstAssert (s : State) : Res :=
  let s := { s with pins := { s.pins with perst := true } }
  if !s.pins.pwrOk then .next s
  else if coldOrHeld s then .next (pcieDown s)
  else .next (wantReset (pcieDown s) .perst)
/-- PERST_DEASSERTION (R409): the link begins training. -/
def execPerstDeassertion (s : State) : Res := .next { s with pins := { s.pins with perst := false } }
/-- LINK_RATE of a rate code: 5, 6 and 7 are 32, 64 and 128 GT/s, and 0 is lower (R257). -/
def rateCode (r : Nat) : Nat := if 5 ≤ r then r else 0
/-- Lanes of a trained width (R252, R257). -/
def widthCode (w : Nat) : Nat := if w = 3 then 2 else w
/-- PCIE_LINK_TRAINED (R252): a link without a lane has not trained. -/
def execPcieLinkTrained (rate : Fin 8) (width : Fin 5) (s : State) : Res :=
  if s.pins.perst || s.dev.state = .off || width.val = 0 then .next s
  else .next { s with hst := { s.hst with
      linkUp := true, linkRate := rateCode rate.val, linkWidth := widthCode width.val } }
/-- PE_REFCLK_LOSS (R313). -/
def execPeRefclkLoss (s : State) : Res := .next (pcieDown s)

-- Warm device reset (R415, R416, R447)

/-- A channel after a warm reset: closed, with its generation (R260). -/
def Channel.ended (v : Channel) : Channel := { Channel.closed0 with gen := v.gen }
/-- Partitions, contexts and routes cease to exist; snapshot areas keep what counts as taken (R393, R415). -/
def endPartitions (s : State) : State :=
  let s := stopRegions s (s.region.map Prod.fst)
  { s with
    core := mall s.core Core.empty Core.resetCompute, stream := [], routes := [], part := [], bars := [],
    snaps := (s.snaps.filter fun x => decide (x.state = 3)).map fun x => { x with part := 255 },
    kv := { ctxs := [], seqs := [], openings := [], clock := 0 },
    region := mall s.region Region.empty fun r => { r with modeReqs := [], table := [], mirror := none },
    pwr := { s.pwr with tiers := mall s.pwr.tiers TierPwr.empty fun v => { v with queue := [], quads := v.quads.filter fun e => decide (e.2 = .on) },
                        coreBubbles := [] },
    ras := { s.ras with routerDue := [] } }
/-- Channels cease to exist, and what they held (R277, R415). -/
def endChannels (s : State) : State :=
  { s with hst := { s.hst with
      chans := mall s.hst.chans Channel.closed0 Channel.ended, scanEn := false, scanning := false, scanResult := .ok, ignored := 0,
      held := [], heldIrq := [] } }
/-- Registers that a warm reset returns to their reset values (R447). -/
def warmRegs (s : State) : State :=
  { s with
    ras := { s.ras with logEnable := false, sigEnable := false },
    lnk := { s.lnk with tray := 0, lock := false, nTrays := 1, tree := [] },
    pwr := { s.pwr with devCap := 0xCE4, budget := 0xCE4, balanced := false, jobs := [], jobsRun := [], devInt := 0, partInt := [] },
    memc := { s.memc with selftestDone := false, selftestPass := false, failUnit := 0, failKind := 0, failValid := false },
    weevil := { s.weevil with running := false, slice := 0, slot := none } }
/-- A reference to which the root PLL can lock. -/
def readyRef (s : State) : Option Ref :=
  if (s.refAt s.clk.active).ready then some s.clk.active
  else if (s.refAt (otherRef s.clk.active)).ready then some (otherRef s.clk.active)
  else none
/-- The root PLL is confirmed locked, or locks afresh to a READY reference (R416); without either the start waits for one. -/
def warmClocks (s : State) : State :=
  let s := { s with clk := { s.clk with switchTo := none, triedOther := false } }
  let kindled := fun (st : State) => startKindling { st with
    clk := { st.clk with rootLocked := true, timebaseLocked := true, holdover := false }, time := { st.time with held := false } }
  if s.clk.rootLocked && !s.clk.holdover && (s.refAt s.clk.active).present then kindled s
  else
    match readyRef s with
    | some r => kindled { s with clk := { s.clk with active := r } }
    | none => toStage { s with clk := { s.clk with rootLocked := false } } 0
/-- The start begins again (R416); a cold start that had not reached READY has every step of a cold start still before it (log entry
71). -/
def warmBoot (s : State) : State :=
  { s with boot := { s.boot with
      stage := 0, cause := 0, fault := false, fallback := false, failUnit := 0, cold := coldOrHeld s, waiting := false, resume := 0,
      ucode := false, trainEnd := false, tiersUp := if coldOrHeld s then [] else s.boot.tiersUp } }
/-- The reset itself, with its cause (R415, R450). -/
def beginWarmReset (s : State) (c : WarmCause) : State :=
  let safe := decide (s.dev.state = .safe)
  let s := (natsFrom 0 8).foldl (fun st t => (stopClock st t).modClk t fun k => { k with target := none, toBypass := false }) s
  let s := warmRegs (portsDown (endChannels (endPartitions s)))
  let s := { s with
    dev := { s.dev with
      ready := false, resetCause := causeCode c, fromSafe := safe, warmResets := s.dev.warmResets + 1, resetTime := s.time.now,
      fwDead := false, resetWanted := none },
    sec := { s.sec with scanOpen := s.sec.scanOpen || s.sec.debugUnlocked },
    pins := { s.pins with fault := false } }
  warmClocks (setDevState (warmBoot s) .boot)
/-- The reset can begin: nothing leaves RESET_HOLD or OFF, and SAFE needs a READY reference (R322, R398). -/
def resetPossible (s : State) : Bool :=
  match s.dev.state with
  | .off | .resetHold => false
  | .safe => (readyRef s).isSome
  | _ => true
/-- An undefined status code (R375): its record. -/
def badStatusRecord (s : State) : State :=
  report s { unit := hearthUnit s 256, status := 0, cls := .deviceFatal, code := 0x12 } true
/-- A unit produces an undefined status code (R9, R375): its record at once, and the reset as soon as it can begin, which in SAFE
takes a READY reference (R322). -/
def undefinedStatus (s : State) : State :=
  let s := badStatusRecord s
  if resetPossible s then beginWarmReset s .badStatus else wantReset s .badStatus
/-- WARM_RESET (R415): for the cause that has been requested; an undefined status code is its own cause (R375), in every state in
which units work. -/
def execWarmReset (cause : WarmCause) (s : State) : Res :=
  if s.dev.resetWanted = some cause then (if resetPossible s then .next (beginWarmReset s cause) else .next s)
  else if cause = .badStatus ∧ s.dev.state ≠ .off ∧ s.dev.state ≠ .resetHold then .next (undefinedStatus s)
  else .next s

-- Firmware (R395, R410)

/-- The firmware has stopped. -/
def stopFirmware (s : State) : State := { s with dev := { s.dev with fwDead := true } }
/-- FIRMWARE_WATCHDOG (R395, R410): a warm reset once READY; before it, RESET_HOLD. -/
def execFirmwareWatchdog (s : State) : Res :=
  let s := stopFirmware s
  if s.dev.ready then
    .next (wantReset (report s { unit := hearthUnit s 256, status := 0, cls := .deviceFatal, code := 0x10 } true) .watchdog)
  else if s.dev.state = .selftest then .next (holdReset s 13 (hearthUnit s 256) 0 0x10)
  else .next s
/-- FLASH_WRITE_RETRY (R427): the write that waits in hearth SRAM is tried; one that fails waits for another hour. -/
def execFlashWriteRetry (ok : Bool) (s : State) : Res :=
  if ok then .next { s with ras := { s.ras with flashPending := false } }
  else .next (reportContained { s with ras := { s.ras with flashPending := true } } (hearthUnit s 297) .timeout)

end Sys2Proof.Machine
end

