-- ==== Sys2Proof/Machine/Thermal.lean ====
section
/-! DEFINITION. Coolant, temperatures, refresh intervals, thermal actions and ageing: the commands of chapter 13, and the
change of a refresh interval (R174). -/

namespace Sys2Proof.Machine

-- Coolant reports (R354, R355)

/-- Tray sideband controller (R22). -/
def trayUnit (s : State) : W32 := hearthUnit s 296
/-- An inlet temperature or flow outside R353. -/
def coolantOut (v : W64) : Bool :=
  let inlet := sbits v 15 0
  let flow := bits v 47 32
  decide (inlet < 2000) || decide (inlet > 4000) || decide (flow < 3000) || decide (flow > 6000)
/-- 600,000 · Q of R355, in watts. -/
def heatScaled (v : W64) : Int := (bits v 47 32 * 398 : Nat) * (sbits v 31 16 - sbits v 15 0)
/-- |Q − P| exceeds 15 % of P. -/
def heatApart (v : W64) (p : Nat) : Bool :=
  decide (100 * (heatScaled v - 600000 * (p : Int)).natAbs > 15 * 600000 * p)
/-- The balance check of an accepted report (R355): the hundredth report in a row that differs sets HEAT_MISMATCH. -/
def heatBalance (s : State) (v : W64) (p : Nat) : State :=
  let run := if decide (p ≥ 500) && heatApart v p then s.thm.mismatchRun + 1 else 0
  let s := { s with thm := { s.thm with
      heatW := roundInt (heatScaled v) 600000, elecW := p, mismatchRun := run } }
  if run = 100 then
    report { s with thm := { s.thm with heatMismatch := true } }
      { unit := trayUnit s, status := 0, cls := .contained, code := 7 }
  else s
/-- The range check of an accepted report: one record for each excursion (R354). -/
def coolantRangeCheck (s : State) (v : W64) : State :=
  if coolantOut v then
    let s' := { s with thm := { s.thm with coolantRange := true, inExcursion := true } }
    if s.thm.inExcursion then s' else reportContained s' (trayUnit s) .ok
  else { s with thm := { s.thm with inExcursion := false } }
/-- COOLANT_REPORT (R354, R355). -/
def execCoolantReport (value : W64) (auxW : Nat) (s : State) : Res :=
  if s.dev.state = .off then .next s
  else
    let seq := BitVec.ofNat 8 (bits value 55 48)
    let fresh := bit value 56 && decide (s.thm.lastSeq ≠ some seq)
    let s := { s with thm := { s.thm with lastSeq := some seq } }
    if !fresh then .next s
    else
      let s := { s with thm := { s.thm with
          report := BitVec.ofNat 48 (bits value 47 0), reportSeq := seq, coolantValid := true, coolantLost := false,
          acceptedAt := some s.time.now } }
      .next (heatBalance (coolantRangeCheck s value) value (s.pwr.p10ms + auxW))
/-- COOLANT_REPORT_TIMEOUT (R354, R368). -/
def execCoolantReportTimeout (s : State) : Res :=
  if s.thm.coolantLost || s.dev.state = .off then .next s
  else
    let s := { s with thm := { s.thm with coolantValid := false, coolantLost := true, mismatchRun := 0 } }
    .next (reportContained s (trayUnit s) .timeout)

-- Sensors and refresh (R174, R356)

/-- The readings of a layer by zone. -/
def layerReadings (bad : List Nat) (dc : List Int) (l : Nat) : SMap Int :=
  (natsFrom 0 16).map fun z => (z, zoneReading bad dc l z)
/-- Largest of a zone function over the 16 zones. -/
def hottest (f : Nat → Int) : Int := (natsFrom 1 15).foldl (fun a z => max a (f z)) (f 0)
/-- The interval that a DRAM layer's reading calls for at once (R174). -/
def shortenInterval (s : State) (t : Nat) : State :=
  if hottest (s.layerAt (2 * t + 1)).temp > 850 then { s with memc := { s.memc with interval := mset s.memc.interval t 1 0 } } else s
/-- SENSOR_SAMPLE (R356, R174). -/
def execSensorSample (dc : List Int) (s : State) : Res :=
  if !sensorOk dc then .fault .malformedCommand
  else
    let s := (natsFrom 0 17).foldl (fun st l => st.modLayer l fun v => { v with sensor := layerReadings s.thm.badSensors dc l }) s
    .next ((natsFrom 0 8).foldl shortenInterval s)
/-- REFRESH_INTERVAL_RELAX (R174): after 100 ms at or below 83 °C the layer returns to 32 ms. -/
def execRefreshIntervalRelax (t : TierId) (s : State) : Res :=
  if hottest (s.layerAt (2 * t.val + 1)).temp ≤ 830 then
    .next { s with memc := { s.memc with interval := mdel s.memc.interval t.val } }
  else .next s
/-- MEM_REFRESH.INTERVAL of a tier (R174, R192): a suspect layer halves the interval. -/
def intervalCode (s : State) (t : Nat) : Nat := mget s.memc.interval t 0 + b2n (s.layerAt (2 * t + 1)).suspect

-- The thermal model (R357 to R361)

/-- Tier of a layer other than L0. -/
def layerTier (l : Nat) : Nat := (l - 1) / 2
/-- The layer is a DRAM layer. -/
def isDram (l : Nat) : Bool := decide (l % 2 = 1)
/-- Unit that names a layer (R361). -/
def layerUnit (s : State) (l : Nat) : W32 := if l = 0 then hearthUnit s 305 else tierUnit s (layerTier l)
/-- Tiers that a layer's zones act on (R359). -/
def layerTiers (l : Nat) : List Nat :=
  let t := layerTier l
  if isDram l && decide (t > 0) then [t, t - 1] else [t]
/-- Layers that act on a tier. -/
def tierLayers (t : Nat) : List Nat := if t < 7 then [2 * t + 1, 2 * t + 2, 2 * t + 3] else [2 * t + 1, 2 * t + 2]
/-- Throttle threshold of a layer, 0.1 °C (R358). -/
def throttleOf (s : State) (l : Nat) : Int :=
  if l = 0 then 1000 else if isDram l then 10 * s.thm.dramThrottle else 10 * s.thm.computeThrottle
/-- A temperature reaches a layer's throttle: above it in a DRAM layer (R358). -/
def reaches (l : Nat) (x thr : Int) : Bool := if isDram l then decide (x > thr) else decide (x ≥ thr)
/-- Coolant inlet (0.01 °C) and flow (mL/min) that the model takes (R354, R357). -/
def modelCoolant (s : State) : Int × Nat :=
  if s.thm.coolantValid then (sbits s.thm.report 15 0, bits s.thm.report 47 32) else (4000, 3000)
/-- Power of every zone of every tier, from the scaled estimates of its cores, in mW (R343, R357). -/
def zonePowers (s : State) : List Nat :=
  (natsFrom 0 128).map fun i =>
    s.pwr.coreMw.foldl (fun a e => if tierOf e.1 = i / 16 ∧ zoneOf e.1 = i % 16 then a + e.2 else a) 0 * s.pwr.scale.1 / s.pwr.scale.2
/-- Runs the RC network for one layer (free values of Config). -/
def modelLayer (run : Nat) (power : List Nat) (cool : Int × Nat) (temps : List Int) (l : Nat) (v : Layer) : Layer :=
  let f := fun (g : Nat → Nat → Nat → List Nat → Int → Nat → List Int → Int) =>
    (natsFrom 0 16).filterMap fun z =>
      let x := g l z run power cool.1 cool.2 temps
      if x = 0 then none else some (z, x)
  { v with estimate := f Config.thermalEstimate, forecast := f Config.thermalForecast }
/-- Gap of a zone: estimate above sensor. -/
def Layer.gap (v : Layer) (z : Nat) : Int := mget v.estimate z 0 - v.temp z
/-- Streaks of a layer after a run (R359, R361). A streak of n runs spans n − 1 ms. -/
def Layer.streaks (v : Layer) (thr : Int) : Layer :=
  let zones := natsFrom 0 16
  { v with
    gapHi := zones.filterMap fun z => if v.gap z > 60 then some (z, mget v.gapHi z 0 + 1) else none,
    gapLo := if zones.all fun z => decide ((v.gap z).natAbs ≤ 30) then v.gapLo + 1 else 0,
    hot := zones.filterMap fun z => if v.control z ≥ thr then some (z, mget v.hot z 0 + 1) else none,
    overTemp := zones.filterMap fun z => if v.control z ≥ 1050 then some (z, mget v.overTemp z 0 + 1) else none,
    cool := if decide (hottest v.acted < thr - 50) then v.cool + 1 else 0 }
/-- The longest streak of a layer's zones. -/
def longest (m : SMap Nat) : Nat := m.foldl (fun a e => max a e.2) 0
/-- SENSOR_SUSPECT (R361): marked after 20 ms above 6 K, unmarked after 10 s within 3 K. -/
def suspectLayer (s : State) (l : Nat) : State :=
  let v := s.layerAt l
  if !v.suspect && v.gapHi.any fun e => decide (e.2 > 20) then
    report (s.modLayer l fun v => { v with suspect := true, gapLo := 0 })
      { unit := layerUnit s l, status := 0, cls := .contained, code := 8 }
  else if v.suspect && decide (v.gapLo > 10000) then s.modLayer l fun v => { v with suspect := false, proxy := none }
  else s
/-- A zone of a tier holds a member of a rotation set. -/
def RotSet.inZone (r : RotSet) (t z : Nat) : Bool := r.members.any fun c => decide (tierOf c = t) && decide (zoneOf c = z)
/-- Requests a rotation of every set with a member in a zone (R359, R363). -/
def wantRotation (t z : Nat) (v : Partition) : Partition :=
  match v.plan with
  | some pl => { v with rotWanted := (pl.rots.filter (·.inZone t z)).foldl (fun a r => insertNat r.set a) v.rotWanted }
  | none => v
/-- Rotation requests of a layer (R359). -/
def rotationRequests (s : State) (l : Nat) : State :=
  let v := s.layerAt l
  let hot := (natsFrom 0 16).filter fun z => decide (v.acted z ≥ throttleOf s l - 30)
  { s with part := s.part.map fun e => (e.1, hot.foldl (fun p z => wantRotation (layerTier l) z p) e.2) }
/-- Lowers a tier's thermal limit by 5 % of its phase limit (R359). -/
def lowerLimit (s : State) (t : Nat) : State :=
  s.modPwr t fun v => { v with thermalLim := min v.thermalLim v.phaseLim - v.phaseLim * 5 / 100 }
/-- Raises a tier's thermal limit by 5 % up to its phase limit; the tier's thermal step request ends (R359). -/
def raiseLimit (s : State) (t : Nat) : State :=
  let s := s.modPwr t fun v =>
    { v with thermalLim := if v.thermalLim + v.phaseLim * 5 / 100 ≥ v.phaseLim then 480 else v.thermalLim + v.phaseLim * 5 / 100 }
  s.modClk t fun k => { k with thermal := 0 }
/-- Requests one step slower for a thermal cause; a faster step that is pending gives way to it (R359, R368). -/
def slowerStep (s : State) (t : Nat) : State :=
  let k := s.clkAt t
  let n := min 4 (k.cur + 1)
  let s := s.modClk t fun k => { k with thermal := n }
  match k.target with
  | none => requestStep s t n
  | some x => if k.toBypass || decide (n ≤ x) then s else s.modClk t fun k => { k with target := if n = k.cur then none else some n }
/-- A compute zone at 105 °C: 0.850 GHz at once and 150 A (R359). -/
def slowestStep (s : State) (t : Nat) : State :=
  let s := s.modPwr t fun v => { v with thermalLim := min v.thermalLim 150 }
  s.modClk t fun k =>
    { k with thermal := 4, target := if k.cur = 4 ∧ k.target = none then none else if k.stopped then k.target else some 4 }
/-- The layer of the hottest zone. -/
def hottestLayer (s : State) : Nat :=
  (natsFrom 1 16).foldl (fun a l => if hottest (s.layerAt l).control > hottest (s.layerAt a).control then l else a) 0
/-- Entry to SAFE for a thermal cause, naming the hottest zone's layer (R359). -/
def thermalSafe (s : State) : State :=
  if s.dev.state = .safe then s else enterSafe s { unit := layerUnit s (hottestLayer s), status := 0, cls := .deviceFatal }
/-- Some layer that acts on a tier meets a condition. -/
def tierAny (s : State) (t : Nat) (f : Nat → Layer → Bool) : Bool := (tierLayers t).any fun l => f l (s.layerAt l)
/-- Current limits and steps of a tier (R359). -/
def thermalTier (s : State) (t : Nat) : State :=
  let lower := tierAny s t fun l v => reaches l (hottest v.acted) (throttleOf s l)
  let cool := (tierLayers t).all fun l => decide ((s.layerAt l).cool > 10)
  let s := if lower then lowerLimit s t else if cool then raiseLimit s t else s
  let p := s.pwrAt t
  let slow := tierAny s t (fun _ v => decide (longest v.hot > 2)) || (lower && decide (2 * p.thermalLim ≤ p.phaseLim))
  let s := if slow then slowerStep s t else s
  if longest (s.layerAt (2 * t + 2)).overTemp > 0 then slowestStep s t else s
/-- SAFE rows of R358 and R359 for a layer: a compute zone after 10 ms at 105 °C, a DRAM or hearth zone at once. -/
def overLimit (s : State) (l : Nat) : Bool :=
  let n := longest (s.layerAt l).overTemp
  if l = 0 ∨ isDram l then decide (n > 0) else decide (n > 10)
/-- The hearth's budget cut (R359). -/
def hearthCutAfter (s : State) : Nat :=
  if hottest (s.layerAt 0).control ≥ 1000 then min 100 (s.thm.hearthCut + 5) else s.thm.hearthCut - 5
/-- THERMAL_MODEL_RUN (R357 to R361): estimates and forecasts, suspect sensors, then the actions. -/
def execThermalModelRun (s : State) : Res :=
  let layers := natsFrom 0 17
  let temps := layers.flatMap fun l => (natsFrom 0 16).map fun z => (s.layerAt l).temp z
  let cool := modelCoolant s
  let run := s.thm.modelRuns
  let power := zonePowers s
  let s := { s with thm := { s.thm with modelRuns := run + 1 } }
  let s := layers.foldl (fun st l => st.modLayer l fun v => modelLayer run power cool temps l v) s
  let s := layers.foldl (fun st l => st.modLayer l fun v => v.streaks (throttleOf st l)) s
  let s := layers.foldl suspectLayer s
  let s := (natsFrom 1 16).foldl rotationRequests s
  let s := (natsFrom 0 8).foldl thermalTier s
  let s := { s with thm := { s.thm with hearthCut := hearthCutAfter s } }
  .next (if layers.any (overLimit s) then thermalSafe s else s)

-- The error rate as a thermometer (R362)

/-- Windows of 24 h. -/
def ceWindows : Nat := 86400
/-- CE_RATE_WINDOW (R362): the rate of the window against the baseline, taken as at least 1 per second. -/
def execCeRateWindow (t : TierId) (s : State) : Res :=
  let now := mget s.memc.ce t.val 0
  let rate := (now - mget s.thm.ceLast t.val 0).toNat
  let hist := mget s.thm.ceHist t.val []
  let l := 2 * t.val + 1
  let s := { s with thm := { s.thm with ceLast := mset s.thm.ceLast t.val now 0 } }
  if !(s.layerAt l).suspect then
    .next { s with thm := { s.thm with ceHist := mput s.thm.ceHist t.val ((rate :: hist).take ceWindows) } }
  else
    -- rate ≥ k × baseline, with baseline = max(sum, n) ÷ n
    let n := max 1 hist.length
    let base := max n (hist.foldl (· + ·) 0)
    if rate * n ≥ 32 * base then .next (thermalSafe (s.modLayer l fun v => { v with proxy := some 1050 }))
    else if rate * n ≥ 4 * base then .next (s.modLayer l fun v => { v with proxy := some (10 * s.thm.dramThrottle + 10) })
    else .next (s.modLayer l fun v => { v with proxy := none })

-- THERMTRIP (R360)

/-- Management firmware runs: behind the kindling, until a watchdog stops it (R365, R395, R397). -/
def firmwareRuns (s : State) : Bool :=
  match s.dev.state with
  | .off | .resetHold | .boot => false
  | _ => !s.dev.fwDead
/-- THERMTRIP (R360, R368): the comparator opens every rail group; firmware writes a record if it still runs. -/
def execThermtrip (s : State) : Res :=
  if s.dev.state = .off || s.thm.thermtrip then .next s
  else
    let running := firmwareRuns s
    let s := { s with thm := { s.thm with thermtrip := true } }
    let s := if running then report s { unit := hearthUnit s 256, status := 0, cls := .deviceFatal, action := 4 } else s
    let s := (natsFrom 0 8).foldl stopClock s
    let s := (natsFrom 0 8).foldl (fun st t => st.modPwr t fun v => { v with quads := [], queue := [] }) s
    let s := (s.part.map Prod.fst).foldl stopPartition s
    .next { s with memc := { s.memc with lost := natsFrom 0 8 }, boot := { s.boot with tiersUp := [] } }

-- Ageing (R365, R366)

/-- Guard band of a tier at a step and a raise: the smallest among its cores, quarantined cores excluded (R365). -/
def tierGuard (s : State) (t : Nat) (guard : List Int) (level step : Nat) : Option Int :=
  ((natsFrom 0 256).filter fun c => !s.isQuar (256 * t + c)).foldl (fun (a : Option Int) c =>
    let g := guard.getD (1280 * level + 256 * step + c) 0
    match a with
    | some m => some (min m g)
    | none => some g) none
/-- The guard band reaches 5 %. A tier whose cores are all quarantined has none to miss it. -/
def guardOk (g : Option Int) : Bool :=
  match g with
  | some x => decide (x ≥ 50)
  | none => true
/-- The least further raise, in 5 mV, that gives a step its guard band within the limits of R366. -/
def neededRaise (s : State) (t : Nat) (guard : List Int) (step : Nat) : Option Nat :=
  let old := mget (s.ageAt t).raise step 0
  let fused := mget s.fuse.vf (5 * t + step) (vfLow step)
  (natsFrom 0 9).find? fun k =>
    (decide (k = 0) || decide (old + 5 * k ≤ 40 ∧ fused + old + 5 * k ≤ vfLow step + 60)) && guardOk (tierGuard s t guard k step)
/-- Changes a tier's ageing results. -/
def modAge (s : State) (t : Nat) (f : Ageing → Ageing) : State :=
  { s with thm := { s.thm with ageing := mset s.thm.ageing t (f (s.ageAt t)) Ageing.empty } }
/-- A step is lost: FLOOR moves to the next slower step (R366). -/
def loseStep (s : State) (t step : Nat) : State :=
  let fl := min 4 (step + 1)
  let s := modAge s t fun a => { a with lost := true, floor := max a.floor fl }
  let s := s.modClk t fun k => { k with floorAge := max k.floorAge fl }
  report s { unit := tierUnit s t, status := 0, cls := .contained, action := if step = 4 then 4 else 3, code := 9 }
/-- Refits one step that the tier may use (R366). -/
def refitStep (guard : List Int) (t : Nat) (s : State) (step : Nat) : State :=
  if step < (s.clkAt t).floor then s
  else
    match neededRaise s t guard step with
    | some k => modAge s t fun a => { a with raise := mset a.raise step (mget a.raise step 0 + 5 * k) 0 }
    | none => loseStep s t step
/-- Guard band at each step after the refit, 0.1 % (R367). -/
def guardsNow (old s : State) (t : Nat) (guard : List Int) : SMap Nat :=
  (natsFrom 0 5).map fun st =>
    let lvl := (mget (s.ageAt t).raise st 0 - mget (old.ageAt t).raise st 0) / 5
    (st, ((tierGuard s t guard lvl st).getD 0).toNat)
/-- A core whose ring-oscillator ratio has fallen by more than 10 % since manufacture is named in a record (R366). -/
def ringRecord (t : Nat) (ratios : List Nat) (s : State) (i : Nat) : State :=
  let c := 256 * t + i
  if 10 * ratios.getD i 0 < 9 * mget s.fuse.ringRatio c 0 then
    report s { unit := coreUnit s c 0, status := 0, cls := .contained, action := 1 }
  else s
/-- AGEING_MEASUREMENT (R365, R366, R368): the guard bands, and the ring-oscillator ratio of each core in parts per million. -/
def execAgeingMeasurement (t : TierId) (guard : List Int) (ratios : List Nat) (s : State) : Res :=
  if !ageingOk guard ratios then .fault .malformedCommand
  else
    let s' := (natsFrom 0 5).foldl (refitStep guard t.val) (keepStored s)
    let s' := modAge s' t.val fun a =>
      { a with guards := guardsNow s s' t.val guard, hours := BitVec.ofNat 16 s.thm.poweredHours }
    let s' := s'.modPwr t.val fun v => { v with setpoint := setpointOf s' t.val (s'.clkAt t.val).cur }
    let s' := (natsFrom 0 256).foldl (ringRecord t.val ratios) s'
    .next (checkDegraded (requestNeeded s' t.val))
/-- POWERED_HOURS_UPDATE (R365): by management firmware. -/
def execPoweredHoursUpdate (s : State) : Res :=
  if !firmwareRuns s then .next s
  else
    let s := keepStored s
    .next { s with thm := { s.thm with poweredHours := s.thm.poweredHours + 1 } }

end Sys2Proof.Machine
end

