-- ==== Sys2Proof/Machine/TierMem.lean ====
section
/-! DEFINITION. Refresh and scrubbing of tier DRAM (R171 to R175) and the line test of chimney groups (R180 to R183). -/

namespace Sys2Proof.Machine

-- Refresh (R175)

/-- Rows of a bank: 384 commands of 8 rows. -/
def bankRows : Nat := 3072
/-- REFRESH_COMMAND (R175): eight rows of one bank. Stored data stay as they are. -/
def execRefreshCommand (c : CoreId) (n : NbuId) (s : State) : Res :=
  if s.memc.lost.contains (tierOf c.val) then .next s
  else .next (s.modRegion c.val fun r => { r with refreshRow := mset r.refreshRow n.val ((mget r.refreshRow n.val 0 + 8) % bankRows) 0 })

-- Scrubbing (R171 to R173)

/-- Pages of a bank. -/
def bankPages : Nat := 3072
/-- The page that the scrubber reads next in a bank: a queued one first (R171). -/
def nextScrub (r : Region) (n : Nat) : Nat × Region :=
  match r.repairQ.find? fun p => decide (p % 16 = n) with
  | some p => (p, { r with repairQ := r.repairQ.erase p })
  | none =>
    let k := mget r.scrubPage n 0
    (16 * (k % bankPages) + n, { r with scrubPage := mput r.scrubPage n (k + 1) })
/-- Words of a page in which the word code corrects a bit. -/
def pageCorr (s : State) (key : Nat) : List Nat :=
  (flipped s key).filter fun w => match wordSay s w with
    | .corrected | .passes _ true => true
    | _ => false
/-- A word is written back as it is read, by the word code alone; the parity of its page stays. -/
def writeWord (s : State) (w : Nat) : State :=
  let r := residual s w
  let s' := clearDramMarks (absorb s (wordPage w) w (w + 1)) w (w + 1)
  if r = 0#512 then s' else { s' with mem := wrLine s.mem (64 * w) (wordData s w ^^^ r) }
/-- Writes corrected words back and counts them. -/
def writeBack (s : State) (c : Nat) (ws : List Nat) : State := ws.foldl (fun st w => writeWord (countCe st c) w) s
/-- The scrubber's record about a word of a page, as it read it. -/
def scrubReport (s : State) (c off code : Nat) (erasure : Bool) : Report :=
  { unit := bankUnit s c off, status := 0, cls := .corrected, code := code, detail := dramDetail s c off erasure }
/-- A page that the scrubber cannot repair: a record once a lap, with the number of laps so far (R172). -/
def scrubFails (s : State) (c page off : Nat) : State :=
  let r := s.regionAt c
  let s := countUe s
  if r.ueSeen.contains page then s
  else
    let n := mget r.ueCount page 0 + 1
    report (s.setRegion c { r with ueCount := mput r.ueCount page n, ueSeen := insertNat page r.ueSeen })
      { unit := bankUnit s c off, status := Status.uncorrectable.code, cls := .contained, count := n,
        detail := dramDetail s c off false }
/-- Offset of a word in its core's slot. -/
def wordOff (c w : Nat) : Nat := w * 64 - dramDpa c 0
/-- What the scrubber does with a page (R172). -/
def scrubDram (s : State) (c page : Nat) : State :=
  let off := 2048 * page
  let key := pageKey c off
  let corr := pageCorr s key
  match pageUes s key, isStale s key, readSynd (seenSynd s key) with
  | [], true, _ => setStale (parityFresh (writeBack s c corr) key) key false
  | [], false, .clean => writeBack s c corr
  | [], false, .parity => countCe (parityFresh (writeBack s c corr) key) c
  | [], false, .word k =>
    let w := pageWord key + k
    let l := wordData s w ^^^ readOff s w ^^^ (seenSynd s key).1
    let t := parityFresh (clearDramMarks (writeBack (countCe s c) c (corr.filter fun v => decide (v ≠ w))) w (w + 1)) key
    report { t with mem := wrLine t.mem (w * 64) l } (scrubReport s c (wordOff c w) 4 false)
  | [w], false, _ =>
    if canRebuild s w then
      let l := wordData s w ^^^ readOff s w
      let t := parityFresh (clearDramMarks (writeBack (countCe s c) c corr) w (w + 1)) key
      report { t with mem := wrLine t.mem (w * 64) l } (scrubReport s c (wordOff c w) 0 true)
    else scrubFails s c page (wordOff c w)
  | w :: _, _, _ => scrubFails s c page (wordOff c w)
  | [], false, .other => scrubFails s c page off
/-- A page that needs no record any more leaves the counts. -/
def scrubClean (s : State) (c page : Nat) : State :=
  s.modRegion c fun r => if r.ueSeen.contains page then r else { r with ueCount := mdel r.ueCount page }
/-- Every region has completed a lap beyond the last device-wide one. -/
def deviceLap (s : State) : Bool := (natsFrom 0 2048).all fun c => decide ((s.regionAt c).lapDone > 0)
/-- The longest of the regions' laps. -/
def longestLap (s : State) : Nat := s.region.foldl (fun a e => max a e.2.lapMs) 0
/-- A device-wide lap ends (R191): the regions' counts begin again. -/
def endDeviceLap (s : State) : State :=
  if deviceLap s then
    { s with
      memc := { s.memc with dramLapMs := min (2 ^ 24 - 1) (longestLap s), laps := s.memc.laps + 1 },
      region := mall s.region Region.empty fun r => { r with lapDone := 0, lapMs := 0 } }
  else s
/-- Start of a region's lap in progress: none began before the fill (R187). -/
def lapFrom (s : State) (r : Region) : Nat := max r.lapStart.toNat s.memc.fillTime.toNat
/-- A region's lap ends once every page has been scrubbed (R173). -/
def endRegionLap (s : State) (c : Nat) : State :=
  let r := s.regionAt c
  if (natsFrom 0 16).all fun b => decide (mget r.scrubPage b 0 ≥ bankPages) then
    endDeviceLap (s.setRegion c { r with
      scrubPage := (r.scrubPage.map fun e => (e.1, e.2 - bankPages)).filter fun e => decide (e.2 ≠ 0),
      lapMs := max r.lapMs ((s.nowNat - lapFrom s r) / 1000000), lapStart := s.time.now, lapDone := r.lapDone + 1, alarmed := false,
      ueSeen := [] })
  else s
/-- The scrubber may not take a page now: the bank's NBU runs a command, or the page lies in a declared output range of a running
command (R218, R223). -/
def scrubDefers (r : Region) (n page : Nat) : Bool :=
  r.nbus.any fun e =>
    match e.2.running with
    | some run => decide (e.1 = n) || cmdOutputs run.cmd.cmd e.1 page
    | none => false
/-- DRAM_SCRUB_PAGE (R171, R172): the next page of one bank. A page that must wait stays the next one. -/
def execDramScrubPage (c : CoreId) (n : NbuId) (s : State) : Res :=
  let d := nextScrub (s.regionAt c.val) n.val
  if s.memc.lost.contains (tierOf c.val) || scrubDefers (s.regionAt c.val) n.val d.1 then .next s
  else .next (endRegionLap (scrubClean (scrubDram (s.setRegion c.val d.2) c.val d.1) c.val d.1) c.val)
/-- SCRUB_LAP_ALARM (R173): the lap in progress exceeds ALARM_S; its record is written once. -/
def execScrubLapAlarm (c : CoreId) (s : State) : Res :=
  let r := s.regionAt c.val
  if s.nowNat ≤ lapFrom s r + max 1 s.memc.alarmS * oneS then .next s
  else
    let s := { s with memc := { s.memc with scrubAlarm := true } }
    if r.alarmed then .next s
    else .next (reportContained (s.setRegion c.val { r with alarmed := true }) (coreUnit s c.val 80) .timeout 5)

-- Chimney line test (R180 to R183)

/-- The group is served again, with no failure counted. -/
def Chimney.unpause (k : Chimney) (g : Nat) : Chimney :=
  { k with paused := k.paused.filter (fun x => decide (x ≠ g)), fails := mdel k.fails g }
/-- The record of a chimney about a line of a group. -/
def lineReport (s : State) (c g line : Nat) (cls : ErrClass) : Report :=
  { unit := coreUnit s c 96, status := 0, cls := cls, detail := detLoc g line }
/-- Lines that a test finds beyond the fused ones and those of the repair log (R183). -/
def newFaults (s : State) (c g : Nat) (faulty : List (Fin 134)) : List Nat :=
  faulty.foldl (fun a l =>
    if s.fuse.chimLines.contains (c, g, l.val) || s.ras.faultyLines.contains (c, g, l.val) then a else addOnce a l.val) []
/-- Lists faulty lines in the repair log. -/
def logLines (s : State) (c g : Nat) (ls : List Nat) : State :=
  let s := keepStored s
  { s with ras := { s.ras with faultyLines := s.ras.faultyLines ++ ls.map fun l => (c, g, l) } }
/-- Lists a disabled group in the repair log. -/
def logDisabled (s : State) (c g : Nat) : State :=
  let s := keepStored s
  { s with ras := { s.ras with disabledLog := addOnce s.ras.disabledLog (c, g) } }
/-- The group is disabled (R181). -/
def disableGroup (s : State) (c g line : Nat) : State :=
  let k := s.chimAt c
  let s := s.setChim c { k.unpause g with disabled := insertNat g k.disabled, spares := mset k.spares g 4 0 }
  let s := logDisabled s c g
  checkDegraded (report s { lineReport s c g line .contained with action := 3 })
/-- The running chimney ops of a core whose chimney fails end with QUARANTINED (R182, R196). -/
def endChimneyOps (s : State) (c : Nat) : State :=
  let mine := fun (r : OpRun) => [0x0E, 0x0F, 0x10, 0x17].contains (bits r.rcd 7 0)
  let s' := ((s.coreAt c).inflight.filter mine).foldl (fun st r =>
    report st { opReport st c 96 r.index r.rcd .quarantined 0 0 with cls := .contained, part := st.ownerOf c }) s
  s'.modCore c fun k => { k with inflight := k.inflight.filter fun r => !mine r }
/-- The chimney is declared failed (R181, R182). -/
def failChimney (s : State) (c g line : Nat) : State :=
  let k := s.chimAt c
  let s := s.setChim c { k.unpause g with failed := true, disabled := insertNat g k.disabled, spares := mset k.spares g 4 0 }
  let s := logDisabled s c g
  quarantineCore (endChimneyOps s c) c false { lineReport s c g line .partitionFatal with status := Status.quarantined.code }
/-- CHIMNEY_LINE_TEST (R180, R181): the test of a paused group. -/
def execChimneyLineTest (c : CoreId) (group : Fin 8) (faulty : List (Fin 134)) (s : State) : Res :=
  let k := s.chimAt c.val
  if !k.paused.contains group.val then .next s
  else
    match newFaults s c.val group.val faulty with
    | [] => .next (s.setChim c.val (k.unpause group.val))
    | l :: ls =>
      let used := mget k.spares group.val 0 + (l :: ls).length
      let s := logLines s c.val group.val (l :: ls)
      if used ≤ 4 then
        let s := s.setChim c.val { k.unpause group.val with spares := mset k.spares group.val used 0 }
        .next ((l :: ls).foldl (fun st x => report st (lineReport st c.val group.val x .corrected)) s)
      else if k.disabled.length < 2 then .next (disableGroup s c.val group.val l)
      else .next (failChimney s c.val group.val l)

end Sys2Proof.Machine
end

