-- ==== Sys2Proof/Machine/Registers.lean ====
section
/-! DEFINITION. BAR0 (R442 to R452): what every register reads as, the sideband view of R451, the lands that report, and the write of
registers. -/

namespace Sys2Proof.Machine

/-- A register from its fields: lowest bit and value. -/
def fieldsOf (l : List (Nat × Nat)) : W64 := BitVec.ofNat 64 (l.foldl (fun a e => a + e.2 * 2 ^ e.1) 0)
/-- One field for each of n entries. -/
def packed (n width : Nat) (f : Nat → Nat) : Nat := (natsFrom 0 n).foldl (fun a i => a + f i % 2 ^ width * 2 ^ (width * i)) 0
/-- A bit for each of n entries. -/
def bitsOf (n : Nat) (f : Nat → Bool) : Nat := packed n 1 fun i => b2n (f i)

-- DEV (R33, R424, R449, R450)

/-- The grade can be read: the device has been in BOOT (R424). -/
def gradeRead (s : State) : Nat := if s.boot.stage = 0 ∧ s.dev.state = .resetHold then 0 else s.fuse.grade.arrays
/-- DEV_ID. -/
def regDevId (s : State) : W64 := fieldsOf [(0, 0x1F5E), (16, 0x4B17), (32, 1), (40, gradeRead s)]
/-- DEV_STATUS. -/
def regDevStatus (s : State) : W64 :=
  fieldsOf [(0, b2n s.dev.ready), (1, s.dev.state.code), (4, b2n (decide (s.dev.state = .degraded))), (5, b2n s.sec.debugUnlocked)]
/-- The DEV block. -/
def readDev (s : State) (off : Nat) : W64 :=
  match off with
  | 0x00 => regDevId s
  | 0x08 => regDevStatus s
  | 0x10 => s.dev.scratch
  | 0x18 => fieldsOf [(0, s.dev.resetCause), (4, b2n s.dev.fromSafe), (8, s.dev.warmResets.toNat)]
  | 0x20 => s.dev.resetTime
  | 0x40 => fieldsOf [(0, s.fuse.grade.arrays), (4, 8), (8, 16), (16, 16), (24, 3), (32, 96), (48, s.dev.qAtLoad % 4096)]
  | _ => 0

-- HST (R257)

/-- The HST block. -/
def readHst (s : State) (off : Nat) : W64 :=
  let h := s.hst
  match off with
  | 0x00 => fieldsOf [(0, b2n h.scanEn)]
  | 0x08 => fieldsOf [(0, b2n h.scanning), (1, b2n (h.linkUp && (decide (h.linkRate < 5) || decide (h.linkWidth < 4)))),
      (4, h.linkRate), (8, h.linkWidth), (16, h.scanResult.code), (32, h.ignored)]
  | 0x10 => h.dbBase
  | 0x18 => fieldsOf [(0, h.dbPoll)]
  | 0x20 => h.ch0Sq
  | 0x28 => h.ch0Cq
  | 0x30 => h.ch0Cfg
  | _ => 0

-- CLK and TIME (R329)

/-- The CLK block. -/
def readClk (s : State) (off : Nat) : W64 :=
  let k := s.clk
  let src := match k.active with
    | .a => 0
    | .b => 1
  match off with
  | 0x00 => fieldsOf [(0, src), (1, b2n k.autoFailover)]
  | 0x08 => fieldsOf [(0, b2n k.refA.present), (1, b2n k.refA.ready), (2, b2n k.refB.present), (3, b2n k.refB.ready), (4, src),
      (5, b2n k.rootLocked), (6, b2n k.holdover), (7, b2n k.switchTo.isSome), (8, k.switchResult.code), (16, k.refA.losses),
      (24, k.refB.losses), (32, s.strap.refSettle.toNat), (35, b2n s.strap.refSel), (36, b2n k.timebaseLocked)]
  | 0x10 => fieldsOf [(0, packed 8 3 fun t => (s.clkAt t).cur), (24, packed 8 3 fun t => (s.clkAt t).floor),
      (48, bitsOf 8 fun t => (s.clkAt t).target.isSome)]
  | 0x18 => fieldsOf [(0, k.stepCap.toNat)]
  | 0x20 => fieldsOf [(0, k.steps.toNat), (48, k.deferred)]
  | _ => 0
/-- The TIME block. STEP_NS reads as zero (R444). -/
def readTime (s : State) (off : Nat) : W64 :=
  match off with
  | 0x00 => s.time.now
  | 0x08 => fieldsOf [(0, s.time.tierSync.toNat), (8, s.time.missed), (16, b2n (followsMaster s)), (17, b2n s.time.adjIgnored)]
  | 0x10 => fieldsOf [(32, s.time.slew.toNat)]
  | _ => 0

-- PWR (R351)

/-- PWR_TIERt. -/
def regPwrTier (s : State) (t : Nat) : W64 :=
  let v := s.pwrAt t
  let phases := if s.boot.tiersUp.contains t then 48 - v.badVct.length else 0
  fieldsOf [(0, phases), (6, b2n v.bypass), (7, b2n (v.failed || v.bypass || (s.clkAt t).toBypass)), (8, if s.boot.tiersUp.contains t then s.ilim t else 0),
    (18, min 1023 v.amps), (28, tierBubbles s t), (34, bitsOf 4 fun q => decide (mget v.quads q QState.off = .on)),
    (38, v.setpoint % 1024), (48, v.droopTrips.toNat)]
/-- PWR_MEAS. -/
def regPwrMeas (s : State) : W64 :=
  fieldsOf [(0, min 65535 s.pwr.p1us), (16, min 65535 s.pwr.p1ms), (32, min 65535 s.pwr.p10ms), (48, min 65535 s.pwr.vinMv)]
/-- The PWR block. -/
def readPwr (s : State) (off : Nat) : W64 :=
  match off with
  | 0x00 => fieldsOf [(0, bitsOf 8 fun t => (s.pwrAt t).bypass), (8, bitsOf 8 fun t => (s.pwrAt t).failed), (16, b2n s.pwr.vbypOk),
      (17, b2n s.pwr.vinLow), (18, b2n s.pwr.balanced), (19, b2n s.pwr.dramRailFailed)]
  | 0x08 => fieldsOf [(0, s.pwr.devCap % 4096), (16, s.pwr.budget % 4096), (32, min 4095 (partSum s))]
  | 0x10 => regPwrMeas s
  | 0x18 => fieldsOf [(0, s.pwr.gain), (16, s.pwr.droopMv), (24, s.pwr.deepMv)]
  | 0x20 => fieldsOf [(0, s.pwr.admitted.toNat), (16, s.pwr.waited.toNat), (32, s.pwr.damped.toNat), (48, s.pwr.denied.toNat)]
  | _ => if 0x40 ≤ off ∧ off < 0x80 then regPwrTier s ((off - 0x40) / 8) else 0

-- THM (R359, R367)

/-- A thermal limit or step acts on a tier (R359). -/
def tierThrottled (s : State) (t : Nat) : Bool :=
  decide ((s.pwrAt t).thermalLim < (s.pwrAt t).phaseLim) || decide ((s.clkAt t).thermal > 0)
/-- THM_STATUS. -/
def regThmStatus (s : State) : W64 :=
  fieldsOf [(0, b2n s.thm.coolantValid), (1, b2n s.thm.coolantRange), (2, b2n s.thm.heatMismatch),
    (3, b2n ((natsFrom 0 8).any (tierThrottled s))), (4, b2n s.thm.thermtrip), (8, bitsOf 17 fun l => (s.layerAt l).suspect),
    (32, bitsOf 8 fun t => (s.ageAt t).lost)]
/-- A temperature in a field of 12 bits. -/
def tempField (x : Int) : Nat := min 4095 x.toNat
/-- Zone of the highest control temperature. -/
def hotZone (v : Layer) : Nat := (natsFrom 1 15).foldl (fun a z => if v.control z > v.control a then z else a) 0
/-- THM_LAYERl. -/
def regThmLayer (s : State) (l : Nat) : W64 :=
  let v := s.layerAt l
  let z := hotZone v
  let acts := decide (l > 0) && (layerTiers l).any (tierThrottled s)
  fieldsOf [(0, tempField (v.temp z)), (12, tempField (mget v.estimate z 0)), (24, tempField (v.acted z)), (36, z), (40, b2n v.suspect),
    (41, b2n (acts || decide (l = 0 ∧ s.thm.hearthCut > 0)))]
/-- THM_AGEINGt. -/
def regThmAgeing (s : State) (t : Nat) : W64 :=
  let a := s.ageAt t
  let fl := (s.clkAt t).floor
  fieldsOf [(0, min 1023 (mget a.guards fl 0)), (16, mget a.raise fl 0), (24, fl), (32, a.hours.toNat)]
/-- MISMATCH_PERMIL: (Q − P) ÷ P in units of 0.1 %. -/
def mismatchField (s : State) : Nat :=
  if s.thm.elecW = 0 then 0
  else
    let p := 600000 * s.thm.elecW
    toCode 16 (clampInt (-32768) 32767 (roundInt (1000 * (heatScaled (s.thm.report.setWidth 64) - p)) p))
/-- AGE_10MS. -/
def coolantAge (s : State) : Nat :=
  match s.thm.acceptedAt with
  | some t => min 255 ((s.nowNat - t.toNat) / 10000000)
  | none => 0
/-- The THM block. -/
def readThm (s : State) (off : Nat) : W64 :=
  match off with
  | 0x00 => regThmStatus s
  | 0x08 => fieldsOf [(0, s.thm.computeThrottle), (8, s.thm.dramThrottle), (16, 0x69), (24, 0x73), (32, 0x69), (40, 0x69)]
  | 0x10 => fieldsOf [(0, s.thm.report.toNat), (48, s.thm.reportSeq.toNat), (56, coolantAge s)]
  | 0x18 => fieldsOf [(0, toCode 16 (clampInt (-32768) 65535 s.thm.heatW)), (16, min 65535 s.thm.elecW), (32, mismatchField s)]
  | _ =>
    if 0x40 ≤ off ∧ off ≤ 0xC0 then regThmLayer s ((off - 0x40) / 8)
    else if 0x100 ≤ off ∧ off < 0x140 then regThmAgeing s ((off - 0x100) / 8)
    else 0

-- RAS and SEC (R400, R426)

/-- Partitions in a state. -/
def partsIn (s : State) (x : PState) : Nat := (s.part.filter fun e => decide (e.2.state = x)).length
/-- The RAS block. -/
def readRas (s : State) (off : Nat) : W64 :=
  let r := s.ras
  match off with
  | 0x00 => fieldsOf [(0, s.dev.state.code), (8, partsIn s .recovering), (16, partsIn s .failed), (24, r.quar.length % 4096)]
  | 0x08 => r.logBase
  | 0x10 => fieldsOf [(0, r.logLog2), (8, r.eventClass), (16, b2n r.logEnable)]
  | 0x18 => fieldsOf [(0, r.nextSeq % 2 ^ 32), (32, r.lost)]
  | 0x20 => r.sigBase
  | 0x28 => fieldsOf [(0, r.sigLog2), (16, b2n r.sigEnable)]
  | 0x30 => fieldsOf [(0, s.weevil.lapS), (20, s.weevil.core), (32, s.weevil.skipped), (48, b2n s.weevil.enable)]
  | _ => if 0x100 ≤ off ∧ off < 0x200 then BitVec.ofNat 64 (bitsOf 64 fun n => s.isQuar (8 * (off - 0x100) + n)) else 0
/-- The SEC block. -/
def readSec (s : State) (off : Nat) : W64 :=
  match off with
  | 0x00 => BitVec.ofNat 64 (licState s)
  | 0x08 => fieldsOf [(0, s.fuse.revoked.toNat), (4, (s.boot.manifest.map Manifest.keySlot).getD 0), (8, s.fuse.svn),
      (16, b2n s.sec.identityOk), (17, b2n s.sec.debugUnlocked), (18, b2n s.sec.dbgLocked), (19, s.sec.dbgFails)]
  | _ => 0

-- LNK (R297 to R301)

/-- A port's first training since reset has ended, or it is not trained (R294, R295, R297). -/
def portSettled (v : Port) : Bool := v.trained || decide (v.state = .unlicensed) || decide (v.setting = 3)
/-- TIME_OFFSET_NS. -/
def offsetField (s : State) : Nat := toCode 16 (clampInt (-32767) 32767 s.time.offset)
/-- The LNK block. -/
def readLnk (s : State) (off : Nat) : W64 :=
  let ports := (natsFrom 1 24).map s.portAt
  match off with
  | 0x00 => fieldsOf [(0, b2n (ports.all portSettled)), (1, b2n s.time.timeSync), (2, b2n s.lnk.retrainRefused),
      (3, b2n (ports.any fun v => decide (v.state = .miswired))), (8, (ports.filter fun v => decide (v.state = .up)).length),
      (16, s.lnk.invGen.toNat), (32, offsetField s)]
  | 0x08 => fieldsOf [(0, s.lnk.tray.toNat), (9, s.strap.traySlot.toNat), (12, b2n s.lnk.lock)]
  | 0x18 => fieldsOf [(0, s.lnk.nTrays)]
  | _ =>
    if 0x100 ≤ off ∧ off < 0x1C0 then
      let v := s.portAt ((off - 0x100) / 8 + 1)
      fieldsOf [(0, v.inv), (40, v.changes.toNat)]
    else if 0x200 ≤ off ∧ off < 0x2C0 then
      let v := s.portAt ((off - 0x200) / 8 + 1)
      fieldsOf [(0, v.fecCorrected), (32, v.retries), (48, v.retrains)]
    else 0

-- MEM and BOOT (R189 to R194, R425)

/-- Disabled chimney groups. -/
def groupsOff (s : State) : Nat := s.chim.foldl (fun a e => a + e.2.disabled.length) 0
/-- The MEM block. -/
def readMem (s : State) (off : Nat) : W64 :=
  let m := s.memc
  match off with
  | 0x00 => fieldsOf [(0, b2n m.selftestDone), (1, b2n m.selftestPass), (2, b2n m.fillDone), (3, b2n m.scrubAlarm),
      (4, b2n (decide (groupsOff s > 0))), (16, min 4095 (groupsOff s)), (32, (s.chim.filter fun e => e.2.failed).length)]
  | 0x08 => fieldsOf [(0, m.alarmS)]
  | 0x10 => fieldsOf [(0, m.dramLapMs), (24, m.sramLapMs), (48, m.laps.toNat)]
  | 0x18 => fieldsOf [(0, packed 8 2 (intervalCode s)), (16, bitsOf 8 fun t => (s.layerAt (2 * t + 1)).suspect)]
  | 0x20 => fieldsOf [(0, m.failUnit.toNat), (32, m.failKind), (40, b2n m.failValid)]
  | 0x80 => fieldsOf [(0, m.ue.toNat)]
  | _ => if 0x40 ≤ off ∧ off < 0x80 then fieldsOf [(0, (mget m.ce ((off - 0x40) / 8) 0).toNat)] else 0
/-- BOOT_STATUS. -/
def regBootStatus (s : State) : W64 :=
  let b := s.boot
  fieldsOf [(0, b.stage), (8, b.cause), (16, b2n b.fault), (17, b2n b.bank), (18, b2n b.fallback), (19, b2n b.mbox),
    (32, b.failUnit.toNat)]
/-- The BOOT block; PUSH, LAST and the data window read as zero. -/
def readBoot (s : State) (off : Nat) : W64 :=
  match off with
  | 0x00 => regBootStatus s
  | 0x08 => fieldsOf [(0, s.boot.mboxLen.toNat), (32, s.boot.mboxSeq.toNat)]
  | 0x10 => fieldsOf [(0, b2n s.boot.waiting), (1, b2n s.boot.ack), (8, s.boot.result.code), (32, s.boot.received)]
  | _ => 0

/-- A register of BAR0 by its offset, as the block's rules give it once READY is set. -/
def readBlock (s : State) (off : Nat) : W64 :=
  let o := off % 0x10000
  match off / 0x10000 with
  | 0 => readDev s o | 1 => readHst s o | 2 => readClk s o | 3 => readPwr s o | 4 => readThm s o | 5 => readRas s o
  | 6 => readSec s o | 7 => readLnk s o | 8 => readMem s o | 9 => readBoot s o | 10 => readTime s o | _ => 0
/-- Decoded before READY (R255, R446): DEV_ID, DEV_STATUS and the BOOT block. -/
def decodedEarly (off : Nat) : Bool := decide (off < 0x10) || decide (off / 0x10000 = 9)
/-- A BAR0 read of an aligned register (R442, R446). -/
def readReg (s : State) (off : Nat) : W64 :=
  if s.dev.state = .off then 0 else if wholeMap s || decodedEarly off then readBlock s off else 0
/-- An aligned 32-bit read: one half of a register (R443). -/
def readHalf (s : State) (off : Nat) : W32 := BitVec.ofNat 32 ((readReg s (off / 8 * 8)).toNat / 2 ^ (8 * (off % 8)))
/-- A private read of the sideband target (R451). -/
def readSideband (s : State) (off : Nat) : W64 :=
  match off with
  | 0x00 => readReg s 0x00
  | 0x08 => readReg s 0x08
  | 0x10 => readReg s 0x090000
  | 0x20 => readReg s 0x040000
  | 0x28 => readReg s 0x030010
  | _ => 0
/-- Static address of the sideband target (R431). -/
def sidebandAddress (s : State) : Nat := 0x50 + s.strap.traySlot.toNat
/-- ALERT# is low (R431). -/
def alertLow (s : State) : Bool :=
  (natsFrom 0 8).any (tierThrottled s) || s.thm.coolantRange || s.thm.heatMismatch || s.pwr.vinLow || decide (s.dev.state = .degraded)

-- Writes (R443 to R447)

/-- A value written as the nearer limit. -/
def clampNat (lo hi v : Nat) : Nat := max lo (min hi v)
/-- HST_CH0_CFG after a write: a ring size outside 6 to 16 leaves its field unchanged (R257, R444). -/
def takeCh0Cfg (old v : W64) : W64 :=
  let log := fun (hi lo : Nat) => if 6 ≤ bits v hi lo ∧ bits v hi lo ≤ 16 then bits v hi lo else bits old hi lo
  fieldsOf [(0, log 4 0), (8, log 12 8), (16, bits v 26 16), (32, bits v 47 32)]
/-- Writes of the HST block (R257, R452). SCAN_EN set by this way meets a probe that passes; SCAN_EN_SET gives its outcome. -/
def writeHst (s : State) (o : Nat) (v : W64) : State :=
  let idle := !s.hst.scanning
  match o with
  | 0x00 => if bit v 0 then setScanEn s true else clearScanEn s
  | 0x10 => if idle then { s with hst := { s.hst with dbBase := v &&& ~~~0xFFF#64 } } else s
  | 0x18 => { s with hst := { s.hst with dbPoll := clampNat 100 100000 (bits v 16 0) } }
  | 0x20 => if idle then { s with hst := { s.hst with ch0Sq := v &&& ~~~0x3F#64 } } else s
  | 0x28 => if idle then { s with hst := { s.hst with ch0Cq := v &&& ~~~0x3F#64 } } else s
  | 0x30 => if idle then { s with hst := { s.hst with ch0Cfg := takeCh0Cfg s.hst.ch0Cfg v } } else s
  | _ => s
/-- Writes of the CLK block. -/
def writeClk (s : State) (o : Nat) (v : W64) : State :=
  match o with
  | 0x00 => requestSwitch { s with clk := { s.clk with autoFailover := bit v 1 } } (if bit v 0 then .b else .a)
  | 0x18 => writeStepCap s v
  | _ => s
/-- Writes of the PWR block (R341, R352). -/
def writePwr (s : State) (o : Nat) (v : W64) : State :=
  match o with
  | 0x00 => if bit v 17 then { s with pwr := { s.pwr with vinLow := false } } else s
  | 0x18 => { s with pwr := { s.pwr with
      gain := bits v 15 0, droopMv := clampNat 20 90 (bits v 23 16),
      deepMv := max (clampNat 20 90 (bits v 31 24)) (clampNat 20 90 (bits v 23 16) + 10) } }
  | _ => s
/-- Writes of the THM block. -/
def writeThm (s : State) (o : Nat) (v : W64) : State :=
  match o with
  | 0x00 => { s with thm := { s.thm with
      coolantRange := s.thm.coolantRange && !bit v 1, heatMismatch := s.thm.heatMismatch && !bit v 2 } }
  | 0x08 => { s with thm := { s.thm with
      computeThrottle := clampNat 70 100 (bits v 7 0), dramThrottle := clampNat 70 95 (bits v 15 8) } }
  | _ => s
/-- Writes of the RAS block. -/
def writeRas (s : State) (o : Nat) (v : W64) : State :=
  match o with
  | 0x08 => if s.ras.logEnable then s else { s with ras := { s.ras with logBase := v &&& ~~~0xFFF#64 } }
  | 0x10 => writeLogCfg s v
  | 0x20 => if s.ras.sigEnable then s else { s with ras := { s.ras with sigBase := v &&& ~~~0xFFF#64 } }
  | 0x28 => writeSigCfg s v
  | 0x30 => writeWeevil s v
  | _ => s
/-- Writes of the LNK block. -/
def writeLnk (s : State) (o : Nat) (v : W64) : State :=
  match o with
  | 0x00 => if bit v 2 then { s with lnk := { s.lnk with retrainRefused := false } } else s
  | 0x08 => writeIdentity s v
  | 0x10 => writeRetrain s v
  | 0x18 =>
    if s.lnk.lock then s
    else
      let n := bits v 9 0
      afterPort s { s with lnk := { s.lnk with nTrays := if 1 ≤ n ∧ n ≤ 512 then n else 1 } }
  | _ => s
/-- Writes of the MEM block. -/
def writeMem (s : State) (o : Nat) (v : W64) : State :=
  match o with
  | 0x00 => if bit v 3 then { s with memc := { s.memc with scrubAlarm := false } } else s
  | 0x08 => { s with memc := { s.memc with alarmS := bits v 15 0 } }
  | _ => s
/-- Writes of the TIME block: STEP_NS and SLEW_PPB of one write act together. -/
def writeTime (s : State) (o : Nat) (v : W64) : State :=
  match o with
  | 0x08 => if bit v 17 then { s with time := { s.time with adjIgnored := false } } else s
  | 0x10 => adjSlew (adjStep s v) v
  | _ => s
/-- The write of one whole register (R442 to R446). -/
def writeReg (s : State) (off : Nat) (v : W64) : State :=
  let o := off % 0x10000
  if !(wholeMap s || decodedEarly off) then s
  else
    match off / 0x10000 with
    | 0 => if o = 0x10 then { s with dev := { s.dev with scratch := v } } else s
    | 1 => writeHst s o v | 2 => writeClk s o v | 3 => writePwr s o v | 4 => writeThm s o v | 5 => writeRas s o v
    | 7 => writeLnk s o v | 8 => writeMem s o v | 9 => if o = 0x08 then writeMboxCtrl s v else s | 10 => writeTime s o v | _ => s
/-- The bytes of a write that fall in BOOT_MBOX_DATA (R407, R443); discarded while WAITING is 0. -/
def writeMboxWindow (s : State) (off : Nat) (data : List Byte) : State :=
  if !s.boot.waiting then s
  else
    let at_ := (natsFrom off data.length).zip data
    { s with boot := { s.boot with window := at_.foldl (fun m e =>
        if 0x098000 ≤ e.1 ∧ e.1 < 0x0A0000 then wrByte m (e.1 - 0x098000) e.2 else m) s.boot.window } }
/-- Whole aligned registers that a write covers, in ascending order, with their values (R443). -/
def wholeRegs (off : Nat) (data : List Byte) : List (Nat × W64) :=
  let first := cdiv off 8 * 8
  let n := (off + data.length - first) / 8
  (natsFrom 0 n).map fun k =>
    (first + 8 * k, BitVec.ofNat 64 (leNat (fun i => data.getD i 0#8) (first + 8 * k - off) 8))
/-- A write to BAR0 (R443, R444). -/
def writeBar0 (s : State) (off : Nat) (data : List Byte) : State :=
  (wholeRegs off data).foldl (fun st e => if e.1 + 8 ≤ 2 ^ 24 then writeReg st e.1 e.2 else st) (writeMboxWindow s off data)
/-- Whole aligned doublewords that a write to BAR4 covers, with their values. -/
def wholeDwords (off : Nat) (data : List Byte) : List (Nat × Nat) :=
  let first := cdiv off 4 * 4
  (natsFrom 0 ((off + data.length - first) / 4)).map fun k => (first + 4 * k, leNat (fun i => data.getD i 0#8) (first + 4 * k - off) 4)
/-- REGISTER_WRITE (R443, R444): the link is up; in D3hot only configuration space answers (R252). -/
def execRegisterWrite (place : RegPlace) (data : List Byte) (s : State) : Res :=
  if !regWriteOk data then .fault .malformedCommand
  else if !s.hst.linkUp || s.dev.state = .off then .next s
  else
    match place with
    | .bar0 off => if s.hst.d3hot then .next s else .next (writeBar0 s off.toNat data)
    | .bar4 off => if s.hst.d3hot then .next s else .next ((wholeDwords off.toNat data).foldl (fun st e => writeBar4 st e.1 e.2) s)
    | .config r => .next (writeCfg s r (leNat (fun i => data.getD i 0#8) 0 data.length))

end Sys2Proof.Machine
end

