-- ==== Sys2Proof/Machine/Tap.lean ====
section
/-! DEFINITION. The test access port's own instructions (R439). -/

namespace Sys2Proof.Machine

/-- Loads an instruction, with what its data register shifts out and what drives the lands under it. -/
def loadTap (s : State) (ir : Byte) (tdo : List Byte) (drive : LandDrive := .device) : State :=
  { s with tap := { s.tap with ir := ir, tdo := tdo, drive := drive } }
/-- BYPASS: one bit that captures 0. -/
def loadBypass (s : State) : State := loadTap s 0xFF#8 [0#8]
/-- IDCODE of stepping 0x01. -/
def idcodeValue : Nat := 0x14B17BE5
/-- An instruction accepted in RESET_HOLD alone: elsewhere it loads BYPASS. -/
def loadHeld (s : State) (t : State) : State := if s.dev.state = .resetHold then t else loadBypass s
/-- An instruction of a port that has power. -/
def tapRow (s t : State) : Res := .next (if tapLive s then t else s)
/-- IDCODE (R439). -/
def execIdcode (s : State) : Res := tapRow s (loadTap s 0x01#8 (leBytes idcodeValue 4))
/-- SAMPLE/PRELOAD (R439): the lands are captured and shifted out while the preload is shifted in. -/
def execSamplePreload (lands preload : BitVec 27) (s : State) : Res :=
  tapRow s { s with tap := { s.tap with ir := 0x02#8, tdo := leBytes lands.toNat 4, boundary := lands, preload := preload, drive := .device } }
/-- The levels that the lands have now, as the board and their drivers make them: free values (log entry 91). -/
def landLevels (s : State) : BitVec 27 := (Config.freeWord s.free).setWidth 27
/-- The preloaded values drive the lands, whose levels are captured and shifted out. -/
def loadExtest (s : State) : State :=
  let v := landLevels s
  let t := loadTap s.draw 0x03#8 (leBytes v.toNat 4) (.preload s.tap.preload)
  { t with tap := { t.tap with boundary := v } }
/-- EXTEST (R439). -/
def execExtest (s : State) : Res := tapRow s (loadHeld s (loadExtest s))
/-- CLAMP (R439): as EXTEST, with the bypass bit in the data path. -/
def execClamp (s : State) : Res := tapRow s (loadHeld s (loadTap s 0x04#8 [0#8] (.preload s.tap.preload)))
/-- HIGHZ (R439): the lands are not driven. -/
def execHighz (s : State) : Res := tapRow s (loadHeld s (loadTap s 0x05#8 [0#8] .released))
/-- BYPASS (R439). -/
def execBypass (s : State) : Res := tapRow s (loadBypass s)

end Sys2Proof.Machine
end

