-- ==== Sys2Proof/Machine/Dispatch.lean ====
section
/-! DEFINITION. The one table from commands to meanings. -/

namespace Sys2Proof.Machine

def exec (i : Instr) (s : State) : Host.Outcome State Fault Refusal :=
  match i with
  | .mma c => Sys2Proof.Machine.execMma c s
  | .mmap c => Sys2Proof.Machine.execMmap c s
  | .ewa c => Sys2Proof.Machine.execEwa c s
  | .vfn c => Sys2Proof.Machine.execVfn c s
  | .red c => Sys2Proof.Machine.execRed c s
  | .qscan c => Sys2Proof.Machine.execQscan c s
  | .qconv c => Sys2Proof.Machine.execQconv c s
  | .dq c => Sys2Proof.Machine.execDq c s
  | .smx c => Sys2Proof.Machine.execSmx c s
  | .smxm c => Sys2Proof.Machine.execSmxm c s
  | .snd c => Sys2Proof.Machine.execSnd c s
  | .rcv c => Sys2Proof.Machine.execRcv c s
  | .xfwdInstall c => Sys2Proof.Machine.execXfwdInstall c s
  | .xfwdRelease c => Sys2Proof.Machine.execXfwdRelease c s
  | .chrd c => Sys2Proof.Machine.execChrd c s
  | .chwr c => Sys2Proof.Machine.execChwr c s
  | .nbcCmd c => Sys2Proof.Machine.execNbcCmd c s
  | .nbcResult c => Sys2Proof.Machine.execNbcResult c s
  | .wait c => Sys2Proof.Machine.execWait c s
  | .waitConditionMet c => Sys2Proof.Machine.execWaitConditionMet c s
  | .bar c => Sys2Proof.Machine.execBar c s
  | .barrierComplete p barId => Sys2Proof.Machine.execBarrierComplete p barId s
  | .snapshotTaken p => Sys2Proof.Machine.execSnapshotTaken p s
  | .chk c => Sys2Proof.Machine.execChk c s
  | .idle c => Sys2Proof.Machine.execIdle c s
  | .idleSlotEnd c => Sys2Proof.Machine.execIdleSlotEnd c s
  | .loop c => Sys2Proof.Machine.execLoop c s
  | .sig c => Sys2Proof.Machine.execSig c s
  | .optu c => Sys2Proof.Machine.execOptu c s
  | .opComplete c u hw => Sys2Proof.Machine.execOpComplete c u hw s
  | .opTimeout c u => Sys2Proof.Machine.execOpTimeout c u s
  | .quiesceComplete p => Sys2Proof.Machine.execQuiesceComplete p s
  | .lineArrival c port stream err => Sys2Proof.Machine.execLineArrival c port stream err s
  | .checkWordArrival c port stream => Sys2Proof.Machine.execCheckWordArrival c port stream s
  | .creditReturn c port stream => Sys2Proof.Machine.execCreditReturn c port stream s
  | .transitForward c port stream => Sys2Proof.Machine.execTransitForward c port stream s
  | .portStarvationGrant c bank row => Sys2Proof.Machine.execPortStarvationGrant c bank row s
  | .sramScrub c bank => Sys2Proof.Machine.execSramScrub c bank s
  | .sramScrubForced c bank => Sys2Proof.Machine.execSramScrubForced c bank s
  | .partCreate ch => Sys2Proof.Machine.execPartCreate ch s
  | .partLoad ch => Sys2Proof.Machine.execPartLoad ch s
  | .partStart ch => Sys2Proof.Machine.execPartStart ch s
  | .partQuiesce ch => Sys2Proof.Machine.execPartQuiesce ch s
  | .partResume ch => Sys2Proof.Machine.execPartResume ch s
  | .partReset ch => Sys2Proof.Machine.execPartReset ch s
  | .partUnload ch => Sys2Proof.Machine.execPartUnload ch s
  | .partDestroy ch => Sys2Proof.Machine.execPartDestroy ch s
  | .partQuery ch => Sys2Proof.Machine.execPartQuery ch s
  | .partSnapshot ch => Sys2Proof.Machine.execPartSnapshot ch s
  | .routerReset ch => Sys2Proof.Machine.execRouterReset ch s
  | .refreshCommand c n => Sys2Proof.Machine.execRefreshCommand c n s
  | .refreshIntervalRelax t => Sys2Proof.Machine.execRefreshIntervalRelax t s
  | .dramScrubPage c n => Sys2Proof.Machine.execDramScrubPage c n s
  | .scrubLapAlarm c => Sys2Proof.Machine.execScrubLapAlarm c s
  | .chimneyLineTest c group faulty => Sys2Proof.Machine.execChimneyLineTest c group faulty s
  | .bar2Read dpa len => Sys2Proof.Machine.execBar2Read dpa len s
  | .bar2Write dpa data => Sys2Proof.Machine.execBar2Write dpa data s
  | .nbuCommandWrite c n line data via => Sys2Proof.Machine.execNbuCommandWrite c n line data via s
  | .nbuQueueFullTimeout c n => Sys2Proof.Machine.execNbuQueueFullTimeout c n s
  | .queryWrite c n slot line data via => Sys2Proof.Machine.execQueryWrite c n slot line data via s
  | .queryAllWrite c slot line data via => Sys2Proof.Machine.execQueryAllWrite c slot line data via s
  | .regionParamWrite c data via => Sys2Proof.Machine.execRegionParamWrite c data via s
  | .popRead c n => Sys2Proof.Machine.execPopRead c n s
  | .groupLine0Read c g => Sys2Proof.Machine.execGroupLine0Read c g s
  | .groupFold c g => Sys2Proof.Machine.execGroupFold c g s
  | .nbuCommandStart c n => Sys2Proof.Machine.execNbuCommandStart c n s
  | .attp c n => Sys2Proof.Machine.execAttp c n s
  | .attqk c n => Sys2Proof.Machine.execAttqk c n s
  | .attav c n => Sys2Proof.Machine.execAttav c n s
  | .kvapp c n => Sys2Proof.Machine.execKvapp c n s
  | .kvdecay c n => Sys2Proof.Machine.execKvdecay c n s
  | .fill c n => Sys2Proof.Machine.execFill c n s
  | .copy c n => Sys2Proof.Machine.execCopy c n s
  | .gather c n => Sys2Proof.Machine.execGather c n s
  | .scatter c n => Sys2Proof.Machine.execScatter c n s
  | .rsum c n => Sys2Proof.Machine.execRsum c n s
  | .bchk c n => Sys2Proof.Machine.execBchk c n s
  | .nbuCommandComplete c n => Sys2Proof.Machine.execNbuCommandComplete c n s
  | .nbuRowBoundary c n => Sys2Proof.Machine.execNbuRowBoundary c n s
  | .evictionSelection => Sys2Proof.Machine.execEvictionSelection s
  | .regionModeNormal src => Sys2Proof.Machine.execRegionModeNormal src s
  | .regionModeCompute src => Sys2Proof.Machine.execRegionModeCompute src s
  | .regionModeDrain src => Sys2Proof.Machine.execRegionModeDrain src s
  | .nbuAdmission t amps => Sys2Proof.Machine.execNbuAdmission t amps s
  | .batchDecode p => Sys2Proof.Machine.execBatchDecode p s
  | .batchPrefill p => Sys2Proof.Machine.execBatchPrefill p s
  | .batchDone p => Sys2Proof.Machine.execBatchDone p s
  | .scanEnSet probeOk => Sys2Proof.Machine.execScanEnSet probeOk s
  | .scanEnClear => Sys2Proof.Machine.execScanEnClear s
  | .doorbellScan => Sys2Proof.Machine.execDoorbellScan s
  | .descriptorArrival ch => Sys2Proof.Machine.execDescriptorArrival ch s
  | .groupAdmission ch => Sys2Proof.Machine.execGroupAdmission ch s
  | .groupTimeout ch => Sys2Proof.Machine.execGroupTimeout ch s
  | .completionTimeout what => Sys2Proof.Machine.execCompletionTimeout what s
  | .completionError what err => Sys2Proof.Machine.execCompletionError what err s
  | .busMasterDisable => Sys2Proof.Machine.execBusMasterDisable s
  | .busMasterEnable => Sys2Proof.Machine.execBusMasterEnable s
  | .interruptHoldoffExpiry ch => Sys2Proof.Machine.execInterruptHoldoffExpiry ch s
  | .nop ch => Sys2Proof.Machine.execNop ch s
  | .chCreate ch => Sys2Proof.Machine.execChCreate ch s
  | .chDestroy ch => Sys2Proof.Machine.execChDestroy ch s
  | .channelCloseComplete ch => Sys2Proof.Machine.execChannelCloseComplete ch s
  | .chResume ch => Sys2Proof.Machine.execChResume ch s
  | .chQuery ch => Sys2Proof.Machine.execChQuery ch s
  | .chimneyQuery ch => Sys2Proof.Machine.execChimneyQuery ch s
  | .licInstall ch flashOk => Sys2Proof.Machine.execLicInstall ch flashOk s
  | .fwUpdate ch failedUnit => Sys2Proof.Machine.execFwUpdate ch failedUnit s
  | .pwrCap ch => Sys2Proof.Machine.execPwrCap ch s
  | .telemetry ch => Sys2Proof.Machine.execTelemetry ch s
  | .attest ch => Sys2Proof.Machine.execAttest ch s
  | .devReset ch => Sys2Proof.Machine.execDevReset ch s
  | .cpCopy ch => Sys2Proof.Machine.execCpCopy ch s
  | .cpFill ch => Sys2Proof.Machine.execCpFill ch s
  | .kvSetup ch => Sys2Proof.Machine.execKvSetup ch s
  | .kvRelease ch => Sys2Proof.Machine.execKvRelease ch s
  | .kvPte ch => Sys2Proof.Machine.execKvPte ch s
  | .kvSeqRegister ch => Sys2Proof.Machine.execKvSeqRegister ch s
  | .kvSeqPause ch => Sys2Proof.Machine.execKvSeqPause ch s
  | .kvSeqResume ch => Sys2Proof.Machine.execKvSeqResume ch s
  | .kvSeqRemove ch => Sys2Proof.Machine.execKvSeqRemove ch s
  | .kvResult ch => Sys2Proof.Machine.execKvResult ch s
  | .cpPut ch => Sys2Proof.Machine.execCpPut ch s
  | .cpGet ch => Sys2Proof.Machine.execCpGet ch s
  | .portDetect p lanes => Sys2Proof.Machine.execPortDetect p lanes s
  | .portEq p good fine => Sys2Proof.Machine.execPortEq p good fine s
  | .portAlign p peerGood peerFine peerMode peer => Sys2Proof.Machine.execPortAlign p peerGood peerFine peerMode peer s
  | .portTrainingTimeout p => Sys2Proof.Machine.execPortTrainingTimeout p s
  | .portDetectRetry p => Sys2Proof.Machine.execPortDetectRetry p s
  | .portRetrain p => Sys2Proof.Machine.execPortRetrain p s
  | .lnkRetrain value => Sys2Proof.Machine.execLnkRetrain value s
  | .laneLockLoss p lane => Sys2Proof.Machine.execLaneLockLoss p lane s
  | .flitReceived p header payload code => Sys2Proof.Machine.execFlitReceived p header payload code s
  | .nakReceived p ack => Sys2Proof.Machine.execNakReceived p ack s
  | .ackTimeout p => Sys2Proof.Machine.execAckTimeout p s
  | .ident p peer => Sys2Proof.Machine.execIdent p peer s
  | .barrierArrive p tok => Sys2Proof.Machine.execBarrierArrive p tok s
  | .barrierRelease p tok => Sys2Proof.Machine.execBarrierRelease p tok s
  | .timeExchangeTimer => Sys2Proof.Machine.execTimeExchangeTimer s
  | .timeReq p t1 => Sys2Proof.Machine.execTimeReq p t1 s
  | .timeResp p t1 t2 t3 => Sys2Proof.Machine.execTimeResp p t1 t2 t3 s
  | .treeTimer => Sys2Proof.Machine.execTreeTimer s
  | .tree p up unit => Sys2Proof.Machine.execTree p up unit s
  | .slackReport shares => Sys2Proof.Machine.execSlackReport shares s
  | .slackReportReceived p rep => Sys2Proof.Machine.execSlackReportReceived p rep s
  | .balancePeriod job => Sys2Proof.Machine.execBalancePeriod job s
  | .slackAssign p asg => Sys2Proof.Machine.execSlackAssign p asg s
  | .assignTimeout => Sys2Proof.Machine.execAssignTimeout s
  | .trayLock value => Sys2Proof.Machine.execTrayLock value s
  | .referenceLoss e => Sys2Proof.Machine.execReferenceLoss e s
  | .referenceReady e => Sys2Proof.Machine.execReferenceReady e s
  | .referenceSwitchRequest r => Sys2Proof.Machine.execReferenceSwitchRequest r s
  | .referenceSwitchComplete => Sys2Proof.Machine.execReferenceSwitchComplete s
  | .holdoverExpiry => Sys2Proof.Machine.execHoldoverExpiry s
  | .timebaseLockLoss => Sys2Proof.Machine.execTimebaseLockLoss s
  | .freqStepRequest t step => Sys2Proof.Machine.execFreqStepRequest t step s
  | .freqStepStop t => Sys2Proof.Machine.execFreqStepStop t s
  | .freqStepWithdraw t => Sys2Proof.Machine.execFreqStepWithdraw t s
  | .fireflyPulse reached => Sys2Proof.Machine.execFireflyPulse reached s
  | .fireflyMiss t => Sys2Proof.Machine.execFireflyMiss t s
  | .clkStepCapWrite value => Sys2Proof.Machine.execClkStepCapWrite value s
  | .timeAdjStep value => Sys2Proof.Machine.execTimeAdjStep value s
  | .timeAdjSlew value => Sys2Proof.Machine.execTimeAdjSlew value s
  | .ivrPhaseFailure t r phase => Sys2Proof.Machine.execIvrPhaseFailure t r phase s
  | .tierOvercurrentTimeout t => Sys2Proof.Machine.execTierOvercurrentTimeout t s
  | .admissionStage t amps => Sys2Proof.Machine.execAdmissionStage t amps s
  | .admissionWaitTimeout t k => Sys2Proof.Machine.execAdmissionWaitTimeout t k s
  | .powerRegionOff t q => Sys2Proof.Machine.execPowerRegionOff t q s
  | .droopTrip t mv => Sys2Proof.Machine.execDroopTrip t mv s
  | .droopRelax t => Sys2Proof.Machine.execDroopRelax t s
  | .droopFailure t => Sys2Proof.Machine.execDroopFailure t s
  | .damperUpdate p1us amps activity => Sys2Proof.Machine.execDamperUpdate p1us amps activity s
  | .capLoop p1ms p10ms vinMv restW => Sys2Proof.Machine.execCapLoop p1ms p10ms vinMv restW s
  | .vinLow => Sys2Proof.Machine.execVinLow s
  | .vinUndervoltage => Sys2Proof.Machine.execVinUndervoltage s
  | .pwrOkFall => Sys2Proof.Machine.execPwrOkFall s
  | .vbypOutOfRange => Sys2Proof.Machine.execVbypOutOfRange s
  | .vsdOutOfRange => Sys2Proof.Machine.execVsdOutOfRange s
  | .vheVauxOutOfRange => Sys2Proof.Machine.execVheVauxOutOfRange s
  | .coolantReport value auxW => Sys2Proof.Machine.execCoolantReport value auxW s
  | .coolantReportTimeout => Sys2Proof.Machine.execCoolantReportTimeout s
  | .sensorSample dc => Sys2Proof.Machine.execSensorSample dc s
  | .thermalModelRun => Sys2Proof.Machine.execThermalModelRun s
  | .ceRateWindow t => Sys2Proof.Machine.execCeRateWindow t s
  | .thermtrip => Sys2Proof.Machine.execThermtrip s
  | .ageingMeasurement t guard ratios => Sys2Proof.Machine.execAgeingMeasurement t guard ratios s
  | .poweredHoursUpdate => Sys2Proof.Machine.execPoweredHoursUpdate s
  | .correctedMergeExpiry unit status detail => Sys2Proof.Machine.execCorrectedMergeExpiry unit status detail s
  | .logEnable value => Sys2Proof.Machine.execLogEnable value s
  | .signatureEnable value => Sys2Proof.Machine.execSignatureEnable value s
  | .weevilSlice => Sys2Proof.Machine.execWeevilSlice s
  | .weevilSliceComplete observed => Sys2Proof.Machine.execWeevilSliceComplete observed s
  | .weevilVisitTimeout => Sys2Proof.Machine.execWeevilVisitTimeout s
  | .weevilDisable => Sys2Proof.Machine.execWeevilDisable s
  | .routerParityFailure at_ => Sys2Proof.Machine.execRouterParityFailure at_ s
  | .recoveryRestoreComplete p hw => Sys2Proof.Machine.execRecoveryRestoreComplete p hw s
  | .recoveryEpisodeEnd p => Sys2Proof.Machine.execRecoveryEpisodeEnd p s
  | .firmwareWatchdog => Sys2Proof.Machine.execFirmwareWatchdog s
  | .snapReleaseTimeout p => Sys2Proof.Machine.execSnapReleaseTimeout p s
  | .pwrOkRise => Sys2Proof.Machine.execPwrOkRise s
  | .rootPllRelease => Sys2Proof.Machine.execRootPllRelease s
  | .rootPllLock => Sys2Proof.Machine.execRootPllLock s
  | .rootPllLockTimeout => Sys2Proof.Machine.execRootPllLockTimeout s
  | .flashDiscoveryTimeout => Sys2Proof.Machine.execFlashDiscoveryTimeout s
  | .privilegedImageVerify => Sys2Proof.Machine.execPrivilegedImageVerify s
  | .analogueSelftest r => Sys2Proof.Machine.execAnalogueSelftest r s
  | .tierPowerUp t badVct badVdl badVda => Sys2Proof.Machine.execTierPowerUp t badVct badVdl badVda s
  | .logicBist mismatch => Sys2Proof.Machine.execLogicBist mismatch s
  | .checkerSelftest fail => Sys2Proof.Machine.execCheckerSelftest fail s
  | .memoryFill => Sys2Proof.Machine.execMemoryFill s
  | .fuseRepair => Sys2Proof.Machine.execFuseRepair s
  | .microcodeDelivery failedTwice => Sys2Proof.Machine.execMicrocodeDelivery failedTwice s
  | .trainingWaitEnd => Sys2Proof.Machine.execTrainingWaitEnd s
  | .deviceReady => Sys2Proof.Machine.execDeviceReady s
  | .svnAdvance => Sys2Proof.Machine.execSvnAdvance s
  | .mailboxPush value => Sys2Proof.Machine.execMailboxPush value s
  | .mailboxLast value => Sys2Proof.Machine.execMailboxLast value s
  | .mailboxTimeout => Sys2Proof.Machine.execMailboxTimeout s
  | .warmReset cause => Sys2Proof.Machine.execWarmReset cause s
  | .perstAssert => Sys2Proof.Machine.execPerstAssert s
  | .dbgChallenge => Sys2Proof.Machine.execDbgChallenge s
  | .dbgResponse data => Sys2Proof.Machine.execDbgResponse data s
  | .idcode => Sys2Proof.Machine.execIdcode s
  | .samplePreload lands preload => Sys2Proof.Machine.execSamplePreload lands preload s
  | .extest => Sys2Proof.Machine.execExtest s
  | .clamp => Sys2Proof.Machine.execClamp s
  | .highz => Sys2Proof.Machine.execHighz s
  | .bypass => Sys2Proof.Machine.execBypass s
  | .flashWriteRetry ok => Sys2Proof.Machine.execFlashWriteRetry ok s
  | .registerWrite place data => Sys2Proof.Machine.execRegisterWrite place data s
  | .descriptorCompletion ch => Sys2Proof.Machine.execDescriptorCompletion ch s
  | .rotationComplete p set => Sys2Proof.Machine.execRotationComplete p set s
  | .perstDeassertion => Sys2Proof.Machine.execPerstDeassertion s
  | .pcieLinkTrained rate width => Sys2Proof.Machine.execPcieLinkTrained rate width s
  | .peRefclkLoss => Sys2Proof.Machine.execPeRefclkLoss s

end Sys2Proof.Machine
end

