-- ==== Sys2Proof/Machine/Tick.lean ====
section
/-! DEFINITION. One nanosecond with no command waiting: global time and the tiers' cycle counters (R316, R325, R326). -/

namespace Sys2Proof.Machine

/-- Cycles counted as gated for the listed quadrants: the clock of a quadrant runs only while its region is ON (R18, R339). -/
def gateQuads (quads : SMap QState) (n : BitVec 48) (gated : SMap (BitVec 48)) : SMap (BitVec 48) :=
  [0, 1, 2, 3].foldl (fun m q => if mget quads q .off = .on then m else mset m q 0 (mget m q 0 + n)) gated
/-- Cycles a tier's clock makes in one nanosecond: 6.8 root cycles, a divider of 4 to 8, and each period lengthened by a
quarter for each level of droop stretch (R316, R325, R341); the quadrants whose regions are not ON count none of them (R18). -/
def TierClk.tick (k : TierClk) (stretch : Nat) (quads : SMap QState) : TierClk :=
  if k.stopped then k
  else
    let ph := k.phase + 272
    let len := 10 * stepDiv k.cur * (4 + stretch)
    let n := BitVec.ofNat 48 (ph / len)
    { k with phase := ph % len, cycles := k.cycles + n, gated := gateQuads quads n k.gated }

/-- Nanoseconds that the timebase counts in one nanosecond, with the slew in parts per 10^9 (R310, R329), and the remainder. -/
def slewTick (acc ppb : Int) : Nat × Int :=
  let a := acc + ppb
  if a ≥ 1000000000 then (2, a - 1000000000)
  else if a ≤ -1000000000 then (0, a + 1000000000)
  else (1, a)

/-- Steering toward the master, parts per 10^9: 100 ppm while an offset is left (R310, R311, log entry 20). -/
def steerPpb (owe : Int) : Int := if owe > 0 then 100000 else if owe < 0 then -100000 else 0
/-- The offset left after a nanosecond in which the counter advanced by n. -/
def oweAfter (owe : Int) (n : Nat) : Int :=
  if n = 2 ∧ owe > 0 then owe - 1 else if n = 0 ∧ owe < 0 then owe + 1 else owe
/-- The rate offset in parts per 10^9: a follower steers toward its master, and TIME_ADJ.SLEW_PPB rules any other device (R310,
R329). -/
def ratePpb (t : Time) (follows : Bool) : Int := if follows then steerPpb t.owe else sext 18 t.slew.toNat
/-- Global time after one nanosecond: held until the timebase locks and after it loses lock (R321, R326). -/
def Time.tick (t : Time) (locked follows : Bool) : Time :=
  if locked && !t.held then
    let r := slewTick t.slewAcc (ratePpb t follows)
    { t with now := t.now + BitVec.ofNat 64 r.1, slewAcc := r.2, owe := oweAfter t.owe r.1 }
  else t

/-- Advances the clocks of the listed tiers. -/
def tickTiers (s : State) : List Nat → State
  | [] => s
  | t :: ts => tickTiers (s.modClk t fun k => k.tick (s.pwrAt t).stretch (s.pwrAt t).quads) ts

/-- One nanosecond passes (log entry 3). -/
def tick (s : State) : State :=
  let s := { s with time := s.time.tick s.clk.timebaseLocked (masterPort s).isSome }
  if s.clk.rootLocked then tickTiers s s.boot.tiersUp else s

end Sys2Proof.Machine
end

