-- ==== Sys2Proof/Safety.lean ====
section
/-! DEFINITION. What a safe run keeps, and the terms in which claims say when a command has its effect. -/

namespace Sys2Proof.Machine

/-- The three memories stand in canonical form. -/
def State.memOk (s : State) : Bool := Mem.wf s.mem && Mem.wf s.hostMem && Mem.wf s.flash

/-- No stored word of the record at a core's program counter is in error, so that its fetch changes nothing (R84, R96). -/
def fetchClean (s : State) (c : Nat) : Bool := (sramMarks s c (32 * (s.coreAt c).pc) 32).isEmpty
/-- A tile op that a unit carries out may issue: it stands at the program counter, PRE is met, and its unit has room (R97). -/
def canStart (s : State) (c op : Nat) (also : Rec → Bool) : Bool :=
  mayIssue s c op && also (recNow s c) && queueRoom (s.coreAt c) (recNow s c) && fetchClean s c
/-- The row of an op that a unit carries out (R99 to R118, R121, R125): its core, its opcode, and the records of that opcode that the row is
for. -/
def tileRow : Instr → Option (CoreId × Nat × (Rec → Bool))
  | .mma c => some (c, 0x01, anyRec)
  | .mmap c => some (c, 0x02, anyRec)
  | .ewa c => some (c, 0x03, anyRec)
  | .vfn c => some (c, 0x04, anyRec)
  | .red c => some (c, 0x05, anyRec)
  | .qscan c => some (c, 0x06, anyRec)
  | .qconv c => some (c, 0x07, anyRec)
  | .dq c => some (c, 0x08, anyRec)
  | .smx c => some (c, 0x09, anyRec)
  | .smxm c => some (c, 0x0A, anyRec)
  | .snd c => some (c, 0x0B, anyRec)
  | .rcv c => some (c, 0x0C, anyRec)
  | .xfwdInstall c => some (c, 0x0D, fun r => !bit r 78)
  | .xfwdRelease c => some (c, 0x0D, fun r => bit r 78)
  | .chrd c => some (c, 0x0E, anyRec)
  | .chwr c => some (c, 0x0F, anyRec)
  | .nbcCmd c => some (c, 0x10, fun r => decide (nbcAction r = 0))
  | .nbcResult c => some (c, 0x10, fun r => decide (nbcAction r = 1))
  | .regionModeNormal (.nbc c) => some (c, 0x10, fun r => decide (nbcAction r = 2) && decide (bits r 67 66 = 0))
  | .regionModeCompute (.nbc c) => some (c, 0x10, fun r => decide (nbcAction r = 2) && decide (bits r 67 66 = 1))
  | .regionModeDrain (.nbc c) => some (c, 0x10, fun r => decide (nbcAction r = 2) && decide (bits r 67 66 = 2))
  | .chk c => some (c, 0x13, anyRec)
  | .optu c => some (c, 0x17, anyRec)
  | _ => none
/-- The row of an op that the sequencer carries out itself (R119 to R124). -/
def seqRow : Instr → Option (CoreId × Nat × (Rec → Bool))
  | .wait c => some (c, 0x11, anyRec)
  | .bar c => some (c, 0x12, anyRec)
  | .idle c => some (c, 0x14, anyRec)
  | .loop c => some (c, 0x15, anyRec)
  | .sig c => some (c, 0x16, anyRec)
  | _ => none
/-- An op of the sequencer may issue (R97). -/
def canFetch (s : State) (c op : Nat) : Bool := mayIssue s c op && fetchClean s c

/-- Entry i of a channel, with descriptor d of an opcode, is the next to run: nothing reserves what it changes, and the host
memory that it reads can be reached (R270, R281). -/
def nextDesc (s : State) (ch i : Nat) (d : Line) (op : Nat) : Bool :=
  decide (nextEntry (s.chanAt ch) = some (i, d)) && decide (descOp d = op) && !reservedElsewhere s ch d &&
    (!readsHost d || s.canMaster)
/-- A state in which entry i of a channel has ended with a status and DETAIL (R271). -/
def entryEnds (s : State) (ch i : Nat) (st : Status) (det : BitVec 128) : State :=
  s.modChan ch fun v => { v with q := setPhase v.q i (.done st det s.time.now) 0 }
/-- A state in which entry i of a channel runs on. -/
def entryRuns (s : State) (ch i pos : Nat) : State := s.modChan ch fun v => { v with q := setPhase v.q i .running pos }

/-- A request of n bytes lies wholly in the DRAM data of a core's slot (R25). -/
def inDram (a n c off : Nat) : Bool := decide (c < 2048 ∧ a = dramDpa c off ∧ off + n ≤ dramBytes)

-- Frames: which bytes of memory a command may store to

/-- Address x is none of the n bytes at a. -/
def outside (a n x : Nat) : Prop := x < a ∨ a + n ≤ x
/-- Address x lies in none of the 64-byte words of tier memory that the n bytes at a touch: a write of a part of a word in error also
mends the rest of the word (R169). -/
def outsideWords (a n x : Nat) : Prop := x < a / 64 * 64 ∨ cdiv (a + n) 64 * 64 ≤ x
/-- An op that stores lines as they arrive, not at its end: RED, RCV and NBC (R108, R114, R118). -/
def movesLines (r : Rec) : Bool := decide (opOf r = 0x05) || decide (opOf r = 0x0C) || decide (opOf r = 0x10)
/-- How many lines an RCV or a RED takes, and the SRAM offset of its line i (R108, R114). -/
def lineCount (r : Rec) : Nat := if opOf r = 0x0C then bits r 87 72 else redLines r
def lineOffset (r : Rec) (i : Nat) : Nat := 64 * (if opOf r = 0x0C then lineAddr r i else bits r 159 144 + i)
/-- The SRAM offsets of the lines that an op in flight still stores as they arrive: an RCV's, and those of a RED that keeps its
results. -/
def linesDue (r : OpRun) : List Nat :=
  if opOf r.rcd = 0x0C ∨ opOf r.rcd = 0x05 ∧ bit r.rcd 84 then
    (natsFrom r.pos (lineCount r.rcd - r.pos)).map (lineOffset r.rcd)
  else []
/-- A row by which lines of the mesh move on at a core, so that its ops may take them (R115, R137, R138). -/
def movesMesh (c : CoreId) : Instr → Bool
  | .lineArrival k _ _ _ | .creditReturn k _ _ | .transitForward k _ _ => decide (k = c)
  | _ => false

-- Frames: which fields of State a command may change

/-- The fields of State that a command may change. The queue is the step's alone, the lands are the board's, and
the banks of the flash stand for what was written before the run (log entries 6 and 57): no command changes these three. -/
inductive Field where
  | free | mem | hostMem | err | fuse | repair | strap | pins | dev | boot | hst | clk | time | pwr | thm | ras
  | sec | lnk | memc | weevil | tap | core | stream | linkCorr | turn | routes | region | chim | part | bars
  | snaps | kv | out
  deriving DecidableEq, Repr

/-- Two states agree in a field. -/
def Field.same (a s : State) : Field → Prop
  | .free => s.free = a.free
  | .mem => s.mem = a.mem
  | .hostMem => s.hostMem = a.hostMem
  | .err => s.err = a.err
  | .fuse => s.fuse = a.fuse
  | .repair => s.repair = a.repair
  | .strap => s.strap = a.strap
  | .pins => s.pins = a.pins
  | .dev => s.dev = a.dev
  | .boot => s.boot = a.boot
  | .hst => s.hst = a.hst
  | .clk => s.clk = a.clk
  | .time => s.time = a.time
  | .pwr => s.pwr = a.pwr
  | .thm => s.thm = a.thm
  | .ras => s.ras = a.ras
  | .sec => s.sec = a.sec
  | .lnk => s.lnk = a.lnk
  | .memc => s.memc = a.memc
  | .weevil => s.weevil = a.weevil
  | .tap => s.tap = a.tap
  | .core => s.core = a.core
  | .stream => s.stream = a.stream
  | .linkCorr => s.linkCorr = a.linkCorr
  | .turn => s.turn = a.turn
  | .routes => s.routes = a.routes
  | .region => s.region = a.region
  | .chim => s.chim = a.chim
  | .part => s.part = a.part
  | .bars => s.bars = a.bars
  | .snaps => s.snaps = a.snaps
  | .kv => s.kv = a.kv
  | .out => s.out = a.out

/-- What an error record, an event or the end of a descriptor changes: host memory, the channels and what waits for them, the record log. -/
def recorded : List Field := [.hostMem, .hst, .ras]
/-- What the fault or the stop of a partition changes besides. -/
def stopping : List Field := recorded ++ [.core, .stream, .linkCorr, .routes, .part, .bars, .snaps]
/-- What lines that move over the mesh change besides: the SRAM that they are stored in. -/
def moving : List Field := stopping ++ [.mem, .err]
/-- What an op of a tile can change as it issues, runs and ends. -/
def issuing : List Field := moving ++ [.pwr, .lnk, .memc, .region]
/-- What an entry to SAFE changes. -/
def safing : List Field := moving ++ [.free, .pins, .dev, .clk, .time, .pwr, .lnk, .weevil, .region]
/-- What a stage of the start changes, or a failure that returns the device to RESET_HOLD. -/
def booting : List Field := recorded ++ [.pins, .dev, .boot, .clk]

/-- The fields that a command may change: every other field is as it was behind it. -/
def touches : Instr → List Field
  | .mma .. | .mmap .. | .ewa .. | .vfn .. | .red .. | .qscan .. | .qconv .. | .dq .. | .smx .. | .smxm .. | .snd ..
  | .rcv .. | .xfwdInstall .. | .xfwdRelease .. | .chrd .. | .chwr .. | .nbcCmd .. | .nbcResult .. | .chk .. | .optu ..
  | .regionModeNormal .. | .regionModeCompute .. | .regionModeDrain .. => issuing ++ [.time, .turn]
  | .wait .. | .waitConditionMet .. | .loop .. | .sig .. | .doorbellScan | .chResume .. | .snapReleaseTimeout ..
  => stopping ++ [.lnk]
  | .bar .. | .idle .. => moving ++ [.free, .time, .lnk]
  | .barrierComplete .. => moving ++ [.free, .lnk, .region]
  | .snapshotTaken .. => moving ++ [.time, .lnk, .region]
  | .idleSlotEnd .. => stopping ++ [.free, .lnk]
  | .opComplete .. => issuing ++ [.free, .dev, .time, .turn, .chim]
  | .opTimeout .. => issuing ++ [.free, .time, .turn]
  | .quiesceComplete .. => [.hst, .ras, .lnk, .core, .stream, .linkCorr, .part]
  | .lineArrival .. => recorded ++ [.mem, .err, .time, .lnk, .core, .stream, .linkCorr, .turn]
  | .checkWordArrival .. => recorded ++ [.time, .lnk, .core, .stream]
  | .creditReturn .. => recorded ++ [.mem, .err, .time, .lnk, .core, .stream, .turn]
  | .transitForward .. => recorded ++ [.mem, .err, .time, .lnk, .core, .stream, .turn, .routes]
  | .portStarvationGrant .. => [.core]
  | .sramScrub .. | .sramScrubForced .. => recorded ++ [.err, .memc, .core]
  | .partCreate .. | .partSnapshot .. => [.hst, .part]
  | .partLoad .. => issuing ++ [.free, .dev]
  | .partStart .. | .partQuiesce .. | .partResume .. | .partReset .. | .partUnload ..
  => moving ++ [.free, .pwr, .lnk, .region, .kv]
  | .partDestroy .. => recorded ++ [.free, .mem, .err, .pwr, .region, .part]
  | .partQuery .. | .scanEnClear | .groupTimeout .. | .busMasterDisable | .interruptHoldoffExpiry .. | .nop ..
  | .chCreate .. | .chQuery .. | .pcieLinkTrained .. | .peRefclkLoss => [.hst]
  | .routerReset .. => [.hst, .lnk, .stream, .linkCorr]
  | .refreshCommand .. | .groupLine0Read .. | .nbuCommandStart .. | .fill .. | .nbuRowBoundary .. => [.region]
  | .refreshIntervalRelax .. => [.memc]
  | .dramScrubPage .. => recorded ++ [.mem, .err, .memc, .region]
  | .scrubLapAlarm .. => recorded ++ [.memc, .region]
  | .chimneyLineTest .. => stopping ++ [.dev, .lnk, .chim]
  | .bar2Read .. | .bar2Write .. | .nbuCommandWrite .. | .nbuQueueFullTimeout .. | .queryWrite .. | .queryAllWrite ..
  | .regionParamWrite .. | .groupFold .. | .cpCopy .. | .cpFill ..
  => recorded ++ [.free, .mem, .err, .memc, .core, .region, .out]
  | .popRead .. => [.region, .out]
  | .attp .. | .attqk .. | .attav .. | .kvapp .. | .kvdecay .. | .copy .. | .gather .. | .scatter .. | .rsum ..
  => recorded ++ [.free, .err, .memc, .region]
  | .bchk .. => recorded ++ [.err, .memc, .region]
  | .nbuCommandComplete .. => moving ++ [.free, .lnk, .memc, .region, .kv, .out]
  | .evictionSelection => recorded ++ [.mem, .err, .memc, .region, .kv]
  | .nbuAdmission .. => [.hst, .pwr, .core, .region]
  | .batchDecode .. | .batchPrefill .. => moving ++ [.lnk, .kv]
  | .batchDone .. => stopping ++ [.lnk, .kv]
  | .scanEnSet .. | .busMasterEnable | .correctedMergeExpiry .. | .flashWriteRetry .. => recorded
  | .descriptorArrival .. | .groupAdmission .. | .completionTimeout .. | .completionError .. | .licInstall ..
  | .fwUpdate .. | .descriptorCompletion .. => issuing ++ [.free, .dev, .boot, .time, .sec, .kv, .out]
  | .chDestroy .. => moving ++ [.free, .lnk, .memc, .region, .out]
  | .channelCloseComplete .. | .chimneyQuery .. | .telemetry .. => [.hostMem, .hst]
  | .pwrCap .. => [.hst, .pwr, .part]
  | .attest .. => [.free, .hostMem, .hst, .sec]
  | .devReset .. => [.dev, .hst]
  | .kvSetup .. => recorded ++ [.free, .mem, .err, .region, .kv]
  | .kvRelease .. => recorded ++ [.mem, .err, .region, .kv]
  | .kvPte .. => recorded ++ [.mem, .err, .region]
  | .kvSeqRegister .. | .kvSeqPause .. | .kvSeqResume .. | .kvSeqRemove .. => [.hst, .kv]
  | .kvResult .. => recorded ++ [.free, .region]
  | .cpPut .. => recorded ++ [.mem, .err, .core]
  | .cpGet .. => recorded ++ [.core]
  | .portDetect .. | .portEq .. | .portTrainingTimeout .. | .portDetectRetry .. | .timeExchangeTimer
  => recorded ++ [.time, .lnk, .stream]
  | .portAlign .. => recorded ++ [.time, .pwr, .lnk, .stream]
  | .portRetrain .. | .lnkRetrain .. | .laneLockLoss .. | .flitReceived .. | .nakReceived .. | .ackTimeout .. | .ident ..
  | .trayLock .. => stopping ++ [.time, .pwr, .lnk]
  | .barrierArrive .. | .barrierRelease .. => [.time, .lnk, .stream, .bars]
  | .timeReq .. | .treeTimer => [.time, .lnk, .stream]
  | .timeResp .. | .fireflyMiss .. => recorded ++ [.time]
  | .tree .. | .slackReport .. | .balancePeriod .. => [.time, .pwr, .lnk, .stream]
  | .slackReportReceived .. | .slackAssign .. | .admissionStage .. | .droopTrip .. | .droopRelax .. | .damperUpdate ..
  | .vinLow => [.pwr]
  | .assignTimeout => recorded ++ [.pwr]
  | .referenceLoss .. | .referenceSwitchComplete => recorded ++ [.clk]
  | .referenceReady .. | .referenceSwitchRequest .. | .freqStepRequest .. | .freqStepWithdraw .. | .clkStepCapWrite ..
  => [.clk]
  | .holdoverExpiry | .timebaseLockLoss | .vinUndervoltage | .vsdOutOfRange => safing
  | .freqStepStop .. | .capLoop .. | .rootPllRelease => [.clk, .pwr]
  | .fireflyPulse .. | .timeAdjStep .. | .timeAdjSlew .. => [.time]
  | .ivrPhaseFailure .. => safing ++ [.memc]
  | .tierOvercurrentTimeout .. | .vbypOutOfRange => stopping ++ [.dev, .clk, .pwr, .lnk]
  | .admissionWaitTimeout .. => stopping ++ [.pwr, .lnk, .region]
  | .powerRegionOff .. => [.pwr, .out]
  | .droopFailure .. => stopping ++ [.clk, .pwr, .lnk]
  | .pwrOkFall
  => [.mem, .err, .repair, .strap, .pins, .dev, .boot, .hst, .clk, .time, .pwr, .thm, .ras, .sec, .lnk, .memc, .weevil, .tap, .core, .stream, .linkCorr, .turn, .routes, .region, .chim, .part, .bars, .snaps, .kv]
  | .vheVauxOutOfRange
  => [.mem, .err, .repair, .pins, .dev, .boot, .hst, .clk, .time, .pwr, .thm, .ras, .sec, .lnk, .memc, .weevil, .tap, .core, .stream, .linkCorr, .turn, .routes, .region, .chim, .part, .bars, .snaps, .kv]
  | .coolantReport .. | .coolantReportTimeout => recorded ++ [.thm]
  | .sensorSample .. => [.thm, .memc]
  | .thermalModelRun | .ceRateWindow .. => safing ++ [.thm]
  | .thermtrip => stopping ++ [.boot, .clk, .pwr, .thm, .lnk, .memc]
  | .ageingMeasurement .. => recorded ++ [.dev, .clk, .pwr, .thm]
  | .poweredHoursUpdate => [.thm, .ras]
  | .logEnable .. => [.hostMem, .ras]
  | .signatureEnable .. => [.ras]
  | .weevilSlice | .weevilVisitTimeout | .weevilDisable => [.weevil]
  | .weevilSliceComplete .. => stopping ++ [.dev, .lnk, .weevil]
  | .routerParityFailure .. => stopping ++ [.dev, .lnk]
  | .recoveryRestoreComplete .. => issuing ++ [.free, .dev, .time, .chim, .kv]
  | .recoveryEpisodeEnd .. => [.part]
  | .firmwareWatchdog | .rootPllLockTimeout | .flashDiscoveryTimeout | .logicBist .. | .microcodeDelivery ..
  | .mailboxTimeout => booting
  | .pwrOkRise
  => issuing ++ [.repair, .strap, .pins, .dev, .boot, .clk, .time, .thm, .sec, .weevil, .tap, .turn, .chim, .kv]
  | .rootPllLock => booting ++ [.time]
  | .privilegedImageVerify => booting ++ [.sec, .lnk]
  | .analogueSelftest .. => booting ++ [.thm, .lnk]
  | .tierPowerUp .. => booting ++ [.pwr]
  | .checkerSelftest .. => booting ++ [.memc]
  | .memoryFill => [.mem, .err, .boot, .memc]
  | .fuseRepair => recorded ++ [.repair, .boot, .clk, .time, .lnk, .core, .stream, .chim]
  | .trainingWaitEnd => [.boot]
  | .deviceReady => recorded ++ [.dev, .boot, .clk, .pwr, .weevil]
  | .svnAdvance => [.fuse]
  | .mailboxPush .. | .mailboxLast .. => recorded ++ [.dev, .boot, .lnk]
  | .warmReset .. => safing ++ [.boot, .sec, .memc, .kv]
  | .perstAssert => [.pins, .dev, .hst]
  | .dbgChallenge => [.free, .sec, .tap]
  | .dbgResponse .. => recorded ++ [.dev, .sec, .tap]
  | .idcode | .samplePreload .. | .clamp | .highz | .bypass => [.tap]
  | .extest => [.free, .tap]
  | .registerWrite .. => stopping ++ [.dev, .boot, .clk, .time, .pwr, .thm, .lnk, .memc, .weevil]
  | .rotationComplete .. => moving ++ [.lnk]
  | .perstDeassertion => [.pins]

end Sys2Proof.Machine
end

