-- ==== Sys2Proof/Certificates/Slice0/Obligations.lean ====
section
/-! DEFINITION. What this model claims of the device: statements for the provers. -/

open Sys2Proof Sys2Proof.Machine

-- The queue, reset and memory

/-- A step takes the command at the front of the queue and runs it with the queue's rest. -/
def Obligations.StepRunsFrontCommand : Prop :=
  ∀ (c : Instr) (s : State), step { s with pending := c :: s.pending } = exec c s

/-- On an empty queue one nanosecond passes (the model's choice, log entry 3): with the timebase locked and global time
running, with no slew and no offset left to steer away, the hearth counter counts it (R310); without the lock global time stands
still. No field of State but the clocks and global time changes, the flash banks and the board's lands among them. -/
def Obligations.EmptyQueueTicks : Prop :=
  ∀ s : State, s.pending = [] →
    step s = .next (tick s) ∧ (tick s).pending = [] ∧
    (s.clk.timebaseLocked = true → s.time.held = false → s.time.slew = 0 → s.time.owe = 0 → s.time.slewAcc = 0 →
      (tick s).time.now = s.time.now + 1) ∧
    (s.clk.timebaseLocked = false → (tick s).time = s.time) ∧
    (tick s).flash = s.flash ∧ (tick s).land = s.land ∧ ∀ F : Field, F ≠ .clk → F ≠ .time → F.same s (tick s)

/-- Every well-formed command has an outcome, and one that is not well formed is the only thing that stops the machine. -/
def Obligations.EveryCommandHasItsOutcome : Prop :=
  ∀ (c : Instr) (s : State),
    (c.wf = true → ∃ t, exec c s = .next t) ∧ (c.wf = false → exec c s = .fault .malformedCommand)

/-- Every step keeps the three memories of the device and its host in canonical form: addresses strictly rising, no byte
listed that reads as 0. -/
def Obligations.StepsKeepMemoryForm : Prop :=
  ∀ s t : State, s.memOk = true → step s = .next t → t.memOk = true

/-- Values that the machine holds at reset, of registers of several blocks (R33, R190, R192, R263, R322, R350, R379, R405): the
state RESET_HOLD, not READY, and the values that the register tables give. That the memories have their canonical form, no
command waits, and no partition, channel, context or route stands are the model's choices (log entries 1, 2 and 7). -/
def Obligations.ResetState : Prop :=
  (State.reset.memOk = true ∧ State.reset.pending = []) ∧
  (State.reset.dev.state = .resetHold ∧ State.reset.dev.ready = false ∧ State.reset.dev.scratch = 0 ∧
  State.reset.hst.dbPoll = 0x1F4 ∧ State.reset.hst.ch0Cfg = 0x0606 ∧ State.reset.hst.scanEn = false ∧
  State.reset.pwr.devCap = 0xCE4 ∧ State.reset.pwr.gain = 0x40 ∧ State.reset.pwr.droopMv = 0x2D ∧ State.reset.pwr.deepMv = 0x41 ∧
  State.reset.ras.logLog2 = 0x0C ∧ State.reset.ras.eventClass = 1 ∧ State.reset.ras.logEnable = false ∧
  State.reset.memc.alarmS = 0x258 ∧ State.reset.memc.fillDone = false ∧
  State.reset.clk.autoFailover = true ∧ State.reset.clk.stepCap = 0 ∧ State.reset.weevil.enable = true ∧
  State.reset.part = [] ∧ State.reset.hst.chans = [] ∧ State.reset.kv.ctxs = [] ∧ State.reset.routes = [])

/-- Commands run first in, first out: a step takes exactly the front of the queue, and no command puts one in or takes
another out. -/
def Obligations.QueueFirstInFirstOut : Prop :=
  (∀ s t : State, step s = .next t → t.pending = s.pending.tail) ∧
  ∀ (c : Instr) (s t : State), exec c s = .next t → t.pending = s.pending

/-- The frame of every command: a field of State outside the list that `touches` gives the command's row is as it was, the flash
banks and the board's lands are never written, only SVN_ADVANCE burns a fuse (R418), and the straps are sampled once, at PWR_OK
rising, and kept until PWR_OK falls (R432). -/
def Obligations.CommandsChangeOnlyTheirFields : Prop :=
  ∀ (c : Instr) (s t : State), exec c s = .next t →
    (∀ F : Field, F ∉ touches c → F.same s t) ∧ t.flash = s.flash ∧ t.land = s.land ∧
    (c ≠ .svnAdvance → t.fuse = s.fuse) ∧ (c ≠ .pwrOkRise → c ≠ .pwrOkFall → t.strap = s.strap)

/-- What the memory of a table holds behind a write: the written bytes at their addresses, and every other byte as before. And the
bytes of device memory that a storing row leaves as they are (R24, R25): all but those at the addresses that its own expression
gives. CP_FILL and CP_COPY store at their destination address, CP_PUT at its mailbox's lines (R277), PART_LOAD at its image's
extents (R153), an op at the SRAM offsets and, CHWR, the slot offsets of its results (R117), RCV and RED at the lines still due
to them (R108, R114), an NBU command at the slot offsets of its results and of the check words of the blocks that it touches (R211). A write of
a part of a 64-byte word of tier memory may mend the rest of that word (R169). What else runs ahead of such a row or behind it
(an access that waits on the service path, a snapshot, the region's mirror) is ruled out by the hypotheses. -/
def Obligations.MemoryReadAfterWrite : Prop :=
  (∀ (m : Mem) (a : Nat) (bs : List Byte),
    rdBytes (wrBytes m a bs) a bs.length = bs ∧
    ∀ x, x < a ∨ a + bs.length ≤ x → rdByte (wrBytes m a bs) x = rdByte m x) ∧
  (∀ (ch : ChanId) (i : Nat) (d : Line) (s t : State), (∀ c, waitsAt s c ch.val = false) →
    (nextDesc s ch.val i d 0x41 = true → exec (.cpFill ch) s = .next t →
      ∀ x, outside (descAddr d) (copyLen d) x → rdByte t.mem x = rdByte s.mem x) ∧
    (nextDesc s ch.val i d 0x40 = true → exec (.cpCopy ch) s = .next t →
      ∀ x, bit d 65 = false ∨ outsideWords (descAddr2 d) (copyLen d) x → rdByte t.mem x = rdByte s.mem x) ∧
    ∀ m, nextDesc s ch.val i d 0x60 = true → mailboxOf s ch.val d false = .ok m → exec (.cpPut ch) s = .next t →
      ∀ x, outside (sramDpa m.core (64 * m.la)) (64 * boxLines d) x → rdByte t.mem x = rdByte s.mem x) ∧
  (∀ (ch : ChanId) (i : Nat) (d : Line) (s t u : State) (v : Partition) (im : Img) (pl : Plan),
    nextDesc s ch.val i d 0x19 = true → s.part? (descPart d) = some v → v.state = .free →
    checkLoad ((applyBankQuar s).modPart (descPart d) fun v => { v with state := .free }) ch.val (descPart d) v d = (t, .ok (im, pl)) →
    im.restore = 0 → (applyImage t (descPart d) v im pl).2 = none → exec (.partLoad ch) s = .next u →
    ∀ x, (∀ e ∈ im.srams, outside (sramDpa e.core e.off) e.bytes x) → (∀ e ∈ im.drams, outsideWords (dramDpa e.core e.off) e.bytes x) →
      rdByte u.mem x = rdByte s.mem x) ∧
  ((∀ (c : CoreId) (u : OpUnit) (s t : State) (r : OpRun),
    let k := (startAtReadout s c.val).coreAt c.val
    (k.inflight.find? fun r => decide (r.unit = u)) = some r → (∀ r ∈ k.inflight, movesLines r.rcd = false) →
    (∀ q ∈ k.queued, movesLines q.rcd = false) → (∀ id, k.wait ≠ some (.bar id true)) →
    exec (.opComplete c u .clean) s = .next t →
    ∀ x, (∀ w ∈ r.writes, outside (sramDpa c.val w.1) w.2.length x) →
      (∀ w ∈ r.dwrites, outsideWords (dramDpa c.val w.1) w.2.length x) → rdByte t.mem x = rdByte s.mem x) ∧
  ∀ (c : CoreId) (row : Instr) (s t : State), movesMesh c row = true →
    (∀ r ∈ (s.coreAt c.val).inflight, r.busy = true → opOf r.rcd = 0x05 ∨ opOf r.rcd = 0x0C → r.pos < lineCount r.rcd) →
    exec row s = .next t →
    ∀ x, (∀ r ∈ (s.coreAt c.val).inflight, ∀ o ∈ linesDue r, outside (sramDpa c.val o) 64 x) →
      rdByte t.mem x = rdByte s.mem x) ∧
  ∀ (c : CoreId) (n : NbuId) (s t : State) (run : NbuRun), (s.nbuAt c.val n.val).running = some run →
    (s.regionAt c.val).behind = [] → (∀ r ∈ (s.coreAt c.val).inflight, opOf r.rcd ≠ 0x10) →
    exec (.nbuCommandComplete c n) s = .next t →
    ∀ x, (∀ w ∈ run.writes, outside (dramDpa c.val w.1) w.2.length x) →
      (∀ b ∈ run.recomp ++ touchedBlocks run.writes, outsideWords (dramDpa c.val ((s.regionAt c.val).chkBase.toNat + 4 * b)) 4 x) →
      (∀ m, (s.regionAt c.val).mirror = some m → cmdOp run.cmd.cmd = 0x04 → x < dramDpa c.val m) →
      rdByte t.mem x = rdByte s.mem x

-- Tile operations (R95 to R134)

/-- An op of the arrays, the VFU, the QU or the check unit that stands at the program counter issues to its unit (R97): its
record is resolved against the loop strides and queued, PRE is subtracted, the sequencer goes on, and every unit that is
free starts what it may. An op of the mesh ports, the router or the chimney issues in the same way (R97, R114 to R118); bit
78 of an XFWD tells RELEASE from install, ACTION of an NBC tells CMD from RESULT. -/
def Obligations.TileOpsIssue : Prop :=
  (∀ (c : CoreId) (s : State),
    (canStart s c.val 0x01 anyRec = true → exec (.mma c) s = .next (issueOp s c.val)) ∧
    (canStart s c.val 0x02 anyRec = true → exec (.mmap c) s = .next (issueOp s c.val)) ∧
    (canStart s c.val 0x03 anyRec = true → exec (.ewa c) s = .next (issueOp s c.val)) ∧
    (canStart s c.val 0x04 anyRec = true → exec (.vfn c) s = .next (issueOp s c.val)) ∧
    (canStart s c.val 0x05 anyRec = true → exec (.red c) s = .next (issueOp s c.val)) ∧
    (canStart s c.val 0x06 anyRec = true → exec (.qscan c) s = .next (issueOp s c.val)) ∧
    (canStart s c.val 0x07 anyRec = true → exec (.qconv c) s = .next (issueOp s c.val)) ∧
    (canStart s c.val 0x08 anyRec = true → exec (.dq c) s = .next (issueOp s c.val)) ∧
    (canStart s c.val 0x09 anyRec = true → exec (.smx c) s = .next (issueOp s c.val)) ∧
    (canStart s c.val 0x0A anyRec = true → exec (.smxm c) s = .next (issueOp s c.val)) ∧
    (canStart s c.val 0x13 anyRec = true → exec (.chk c) s = .next (issueOp s c.val)) ∧
    (canStart s c.val 0x17 anyRec = true → exec (.optu c) s = .next (issueOp s c.val))) ∧
  (∀ (c : CoreId) (s : State),
    (canStart s c.val 0x0B anyRec = true → exec (.snd c) s = .next (issueOp s c.val)) ∧
    (canStart s c.val 0x0C anyRec = true → exec (.rcv c) s = .next (issueOp s c.val)) ∧
    (canStart s c.val 0x0D (fun r => !bit r 78) = true → exec (.xfwdInstall c) s = .next (issueOp s c.val)) ∧
    (canStart s c.val 0x0D (fun r => bit r 78) = true → exec (.xfwdRelease c) s = .next (issueOp s c.val)) ∧
    (canStart s c.val 0x0E anyRec = true → exec (.chrd c) s = .next (issueOp s c.val)) ∧
    (canStart s c.val 0x0F anyRec = true → exec (.chwr c) s = .next (issueOp s c.val)) ∧
    (canStart s c.val 0x10 (fun r => decide (nbcAction r = 0)) = true → exec (.nbcCmd c) s = .next (issueOp s c.val)) ∧
    (canStart s c.val 0x10 (fun r => decide (nbcAction r = 1)) = true → exec (.nbcResult c) s = .next (issueOp s c.val)))

/-- A record with an uncorrectable word ends its op as it issues (R84, R129, R388; that the fetch is such a read is the model's
reading, log entry 60), whatever the op: UNCORRECTABLE, naming the SRAM bank and the offset of the first such word; corrected words
ahead of it are counted. -/
def Obligations.UncorrectableRecordFaults : Prop :=
  ∀ (i : Instr) (c : CoreId) (op : Nat) (also : Rec → Bool) (s : State) (ahead rest : SMap WordErr) (w : Nat),
    (tileRow i = some (c, op, also) ∧ queueRoom (s.coreAt c.val) (recNow s c.val) = true ∨
      seqRow i = some (c, op, also) ∧ (op = 0x16 → (s.coreAt c.val).sig = none)) →
    mayIssue s c.val op = true → also (recNow s c.val) = true →
    sramMarks s c.val (32 * (s.coreAt c.val).pc) 32 = ahead ++ (w, .uncorrectable) :: rest →
    (∀ e ∈ ahead, e.2 = .corrected) →
    let off := w * 8 - sramDpa c.val 0
    let t := ahead.foldl (fun st e => sramCorrected st c.val (e.1 * 8 - sramDpa c.val 0)) s
    exec i s = .next (opFault (noteBank t c.val (sramBank off)) c.val
      (opReport t c.val (16 + sramBank off) (s.coreAt c.val).pc (recNow t c.val) .uncorrectable 0 (sramDetail t c.val off)))

/-- WAIT, BAR, IDLE, LOOP and SIG start when they stand at the program counter (R97, R119 to R124). LOOP subtracts PRE and goes
back to its target while iterations remain (R123). An endless LOOP that runs for the first time pushes its index with
iteration 1 and takes the branch (R123): the target is the program counter, and nothing else of the core changes but the
counter that PRE names. -/
def Obligations.SequencerOpsStart : Prop :=
  (∀ (c : CoreId) (s : State),
    (canFetch s c.val 0x11 = true → exec (.wait c) s = .next (startWait s c.val)) ∧
    (canFetch s c.val 0x12 = true → exec (.bar c) s = .next (startBar s c.val)) ∧
    (canFetch s c.val 0x14 = true → exec (.idle c) s = .next (startIdle s c.val)) ∧
    (canFetch s c.val 0x15 = true → exec (.loop c) s = .next (runLoop s c.val)) ∧
    (canFetch s c.val 0x16 = true → (s.coreAt c.val).sig = none → exec (.sig c) s = .next (startSig s c.val))) ∧
  (∀ (c : CoreId) (s : State),
    canFetch s c.val 0x15 = true → bits (recNow s c.val) 79 64 = 0 → (s.coreAt c.val).loops = [] →
    exec (.loop c) s = .next (s.setCore c.val { takePre (s.coreAt c.val) (recNow s c.val) with
      loops := [⟨(s.coreAt c.val).pc, 1⟩], pc := bits (recNow s c.val) 90 80 }))

/-- A WAIT whose condition holds ends, and so does an IDLE slot that has lasted its cycles (R119, R122). An op that has run ends
when nothing was met, no check word is awaited and no op issued earlier with which its buffers overlap still runs (R97, R98); what
may overlap its readout has started by then (log entry 86). An op that outlasts its time ends with TIMEOUT, and one that outlasts it
in its unit's queue does so too, also behind one that runs (R97, R99, R129). -/
def Obligations.WaitsAndOpsEnd : Prop :=
  ((∀ (c : CoreId) (s : State) (src index : Nat) (value base : BitVec 48),
    (s.coreAt c.val).wait = some (.wait src index value base) → waitMet s c.val src index value base = true →
    exec (.waitConditionMet c) s = .next (endWait s c.val src index value)) ∧
  ∀ (c : CoreId) (s : State) (n : Nat) (start : BitVec 48),
    (s.coreAt c.val).wait = some (.idle n (some start)) → n ≤ (s.rawCycles c.val - start).toNat →
    exec (.idleSlotEnd c) s = .next (endIdle s c.val)) ∧
  (∀ (c : CoreId) (u : OpUnit) (s : State) (r : OpRun),
    (let t := startAtReadout s c.val
     ((t.coreAt c.val).inflight.find? fun r => decide (r.unit = u)) = some r → r.busy = false → awaitsCheck t c.val r = false →
     waitsForEarlier t c.val r = false → exec (.opComplete c u .clean) s = .next (endRun t c.val r)) ∧
    (((s.coreAt c.val).inflight.find? fun r => decide (r.unit = u)) = some r → u ≠ .sequencer → (∀ i, u ≠ .barrier i) →
      exec (.opTimeout c (.running u)) s = .next (failRun s c.val r .timeout))) ∧
  ∀ (c : CoreId) (u : OpUnit) (n : Fin 4) (s : State) (q : OpQueued),
    ((s.coreAt c.val).queued.filter fun q => decide (q.unit = u))[n.val]? = some q →
    exec (.opTimeout c (.queued u n)) s = .next (failQueued s c.val q)

/-- A barrier that every member has reached lets its cores pass, in a RUNNING partition that takes no snapshot at it: its offsets
are set and a rotation that waits for it begins (R120, R328, R363). A snapshot of a partition's barrier that has been written counts
as taken, and the cores go on, or stop there for a quiesce that waited for it (R132, R133). A RUNNING partition with a quiesce
requested stops once every core has stopped and no line of it travels (R133, R158): it enters QUIESCED, the waiting
descriptor ends with OK, sequencers that still ran are stopped, and routers that waited for it are reset (R159). -/
def Obligations.BarriersAndQuiescesComplete : Prop :=
  ((∀ (p : PartId) (i : Fin 16) (s : State) (b : Barrier) (v : Partition),
    barAt s p.val i.val = some b → barDone s b = true → b.released = false ∨ b.scope = 2 → b.snap = false →
    s.part? p.val = some v → v.state = .running → snapIn s p.val 2 = none →
    exec (.barrierComplete p i) s = .next (startRotation (passAll (syncAll s b) b false) b)) ∧
  ∀ (p : PartId) (s : State) (x : Snapshot) (v : Partition) (b : Barrier),
    snapIn s p.val 1 = some x → s.part? p.val = some v → v.state = .running →
    (s.bars.find? fun b => decide (b.part = p.val) && b.snap) = some b → b.scope = 0 →
    exec (.snapshotTaken p) s = .next (startRotation (passAll (takeSnap s x) b (x.quiet && v.quiesce.isSome)) b)) ∧
  (∀ (p : PartId) (s : State) (v : Partition),
    s.part? p.val = some v → v.state = .running → v.quiesce.isSome = true →
    v.cores.all (quiesced s (boundaryQuiesce s v)) = true → linesSettled s p.val = true →
    exec (.quiesceComplete p) s = .next (settleRouters (dropSnapReq ((endQuiesce
      (v.cores.foldl (fun st c => st.modCore c fun k => if k.seq = .running then { k with seq := .stopped } else k) s)
      p.val .ok).modPart p.val fun v => { v with state := .quiesced }) p.val)))

/-- A core that belongs to no partition issues no op (R151): the rows of its ops change nothing, those of the units' ops (the
three region modes by NBC among them) and those of the sequencer's. -/
def Obligations.UnownedCoreIssuesNothing : Prop :=
  ∀ (c : CoreId) (s : State), s.ownerOf c.val = none →
    (∀ (i : Instr) (op : Nat) (also : Rec → Bool), tileRow i = some (c, op, also) ∨ seqRow i = some (c, op, also) → exec i s = .next s) ∧
    exec (.mma c) s = .next s ∧ exec (.mmap c) s = .next s ∧ exec (.ewa c) s = .next s ∧ exec (.vfn c) s = .next s ∧
    exec (.red c) s = .next s ∧ exec (.qscan c) s = .next s ∧ exec (.qconv c) s = .next s ∧ exec (.dq c) s = .next s ∧
    exec (.smx c) s = .next s ∧ exec (.smxm c) s = .next s ∧ exec (.snd c) s = .next s ∧ exec (.rcv c) s = .next s ∧
    exec (.xfwdInstall c) s = .next s ∧ exec (.xfwdRelease c) s = .next s ∧ exec (.chrd c) s = .next s ∧
    exec (.chwr c) s = .next s ∧ exec (.nbcCmd c) s = .next s ∧ exec (.nbcResult c) s = .next s ∧
    exec (.regionModeNormal (.nbc c)) s = .next s ∧ exec (.regionModeCompute (.nbc c)) s = .next s ∧
    exec (.regionModeDrain (.nbc c)) s = .next s ∧ exec (.chk c) s = .next s ∧ exec (.optu c) s = .next s ∧
    exec (.wait c) s = .next s ∧ exec (.bar c) s = .next s ∧ exec (.loop c) s = .next s ∧ exec (.sig c) s = .next s ∧
    exec (.idle c) s = .next s

-- Mesh and SRAM (R81 to R85, R135 to R146)

/-- A line on a link reaches the receive buffer when it has room and the router runs (R137, R138): the position and the running
check move on, and units that wait for the stream go on. The transfers of a line that the link code corrected, one or both, are
counted at its port (R139). A check word on a link that agrees with the running check is placed behind its lines, and the check
starts again (R115, R139). A credit that returns may be spent at once (R137). A routed line goes on over its output stream while a
credit is left, at its route's turn (R116, R138, R142): one credit is spent, the line, without a check word, is put on the output
link, an emptied input stream remembers where its last line went, and ops that waited for their turn behind it go on. -/
def Obligations.LinksDeliver : Prop :=
  (∀ (c : CoreId) (port : Fin 6) (st : Fin 16) (s : State) (l : Line) (rest : List WireItem),
    (s.streamAt (streamKey c.val port.val st.val)).wire = .line l :: rest →
    (s.streamAt (streamKey c.val port.val st.val)).buf.length < 8 → routerRuns s c.val = true →
    let k := streamKey c.val port.val st.val
    let v := s.streamAt k
    let moved := fun (t : State) (x : Line) => t.setStream k { v with
      wire := (popEnds rest).2, buf := v.buf ++ [⟨x, none⟩], recvPos := v.recvPos + 1, recvCrc := crcLine v.recvCrc x,
      recvSince := v.recvSince + 1, passed := none }
    let counted := fun (n : Nat) => { s with linkCorr := mmod s.linkCorr (6 * c.val + port.val) 0 (· + BitVec.ofNat 48 n) }
    let rests := fun (t : State) => pumpAll (dropOrphans (freeFlits t c.val port.val (popEnds rest).1) c.val port.val st.val) c.val
    exec (.lineArrival c port st .clean) s = .next (rests (moved s l)) ∧
    exec (.lineArrival c port st .corrected) s = .next (rests (moved (counted 1) l)) ∧
    exec (.lineArrival c port st .correctedBoth) s = .next (rests (moved (counted 2) l)) ∧
    ∀ m, exec (.lineArrival c port st (.flipped m)) s = .next (rests (moved s (l ^^^ m))) ∧
      exec (.lineArrival c port st (.correctedFlipped m)) s = .next (rests (moved (counted 1) (l ^^^ m)))) ∧
  (∀ (c : CoreId) (port : Fin 6) (st : Fin 16) (s : State) (w : W32) (rest : List WireItem),
    (s.streamAt (streamKey c.val port.val st.val)).wire = .check w :: rest →
    w = crcWord (s.streamAt (streamKey c.val port.val st.val)).recvCrc → routerRuns s c.val = true →
    let k := streamKey c.val port.val st.val
    exec (.checkWordArrival c port st) s = .next (placeCheck (freeFlits
      (s.setStream k { s.streamAt k with wire := (popEnds rest).2, recvCrc := 0xFFFFFFFF#32, recvSince := 0 })
      c.val port.val (popEnds rest).1) c.val port.val st.val w false)) ∧
  (∀ (c : CoreId) (port : Fin 6) (st : Fin 16) (s : State),
    let k := streamKey c.val port.val st.val
    let v := s.streamAt k
    v.creditsBack ≠ 0 → routerRuns s c.val = true →
    exec (.creditReturn c port st) s =
      .next (pumpAll (s.setStream k { v with credits := v.credits + 1, creditsBack := v.creditsBack - 1 }) c.val)) ∧
  (∀ (c : CoreId) (port : Fin 6) (st : Fin 16) (s s1 : State) (r : Route) (b : BufLine),
    routeOn s c.val port.val st.val = some r → (s.streamAt (streamKey c.val r.outPort r.outStream)).credits ≠ 0 →
    routerRuns s c.val = true → routeTurn s r = true →
    takeHead s c.val port.val st.val = some (b, s1) → b.check = none →
    let spent := (serveTurn s1 c.val r.outPort r.outStream).modStream (streamKey c.val r.outPort r.outStream) fun v =>
      { v with credits := v.credits - 1, sendPos := v.sendPos + 1 }
    let left := spent.modStream (streamKey c.val r.inPort r.inStream) fun v =>
      if v.buf.isEmpty then { v with passed := some (r.outPort, r.outStream) } else v
    exec (.transitForward c port st) s = .next (pumpAll (dropOrphans (countRoute
      (putWire left c.val r.outPort r.outStream [.line b.line]) r) c.val port.val st.val) c.val))

/-- A starvation grant counts 32 refused cycles at the row of the port, and at row 0, the arrays', 32 stalled cycles of each busy
array (R83, R93; that a grant stands for 32 cycles is log entry 81). The SRAM scrubber reads the next line of its bank, and a
scrub forced on a busy core counts one stalled cycle (R85). A refresh moves a bank's row counter on by 8 rows, modulo the rows
of the bank, and does nothing on a tier without its DRAM rail (R175); the interval is 32 ms again when no zone of the layer stands
above 83.0 °C (R174; that it has stayed so for 100 ms is what the row says). The DRAM scrubber reads the page that the region has
next, unless a running command defers it (R171, R172, R218). A lap that exceeds the threshold sets SCRUB_ALARM and writes one
record of the region in that lap (R173). The line test of a paused chimney group (R180, R181): no new fault resumes it; new faults
that leave at most 4 spares in use resume it too, each with a CORRECTED record; with more, the group is disabled while fewer than
two are, and the chimney fails otherwise. -/
def Obligations.StoredDataIsServed : Prop :=
  (∀ (c : CoreId) (bank : Fin 32) (row : Fin 7) (s : State),
    (row.val ≠ 0 → exec (.portStarvationGrant c bank row) s = .next (s.modCore c.val fun k => bumpCtr k (14 + row.val) 32)) ∧
    (row.val = 0 → exec (.portStarvationGrant c bank row) s = .next (s.modCore c.val fun k =>
      bumpCtr ((busyArrays k).foldl (fun k a => bumpCtr k (4 + a) 32) k) 14 32)) ∧
    exec (.sramScrub c bank) s = .next (scrubSram s c.val bank.val) ∧
    exec (.sramScrubForced c bank) s = .next ((scrubSram s c.val bank.val).modCore c.val fun k =>
      bumpCtr ((busyArrays k).foldl (fun k a => bumpCtr k (4 + a) 1) k) 14 (b2n !(busyArrays k).isEmpty))) ∧
  ((∀ (c : CoreId) (n : NbuId) (s : State),
    (s.memc.lost.contains (tierOf c.val) = false → exec (.refreshCommand c n) s = .next (s.modRegion c.val fun r =>
      { r with refreshRow := mset r.refreshRow n.val ((mget r.refreshRow n.val 0 + 8) % bankRows) 0 })) ∧
    (s.memc.lost.contains (tierOf c.val) = true → exec (.refreshCommand c n) s = .next s)) ∧
  ∀ (t : TierId) (s : State), hottest (s.layerAt (2 * t.val + 1)).temp ≤ 830 →
    exec (.refreshIntervalRelax t) s = .next { s with memc := { s.memc with interval := mdel s.memc.interval t.val } }) ∧
  ((∀ (c : CoreId) (n : NbuId) (s : State), s.memc.lost.contains (tierOf c.val) = false →
    let d := nextScrub (s.regionAt c.val) n.val
    (scrubDefers (s.regionAt c.val) n.val d.1 = false → exec (.dramScrubPage c n) s =
      .next (endRegionLap (scrubClean (scrubDram (s.setRegion c.val d.2) c.val d.1) c.val d.1) c.val)) ∧
    (scrubDefers (s.regionAt c.val) n.val d.1 = true → exec (.dramScrubPage c n) s = .next s)) ∧
  ∀ (c : CoreId) (s : State),
    lapFrom s (s.regionAt c.val) + max 1 s.memc.alarmS * oneS < s.nowNat →
    let t := { s with memc := { s.memc with scrubAlarm := true } }
    ((s.regionAt c.val).alarmed = true → exec (.scrubLapAlarm c) s = .next t) ∧
    ((s.regionAt c.val).alarmed = false → exec (.scrubLapAlarm c) s = .next (reportContained
      (t.setRegion c.val { s.regionAt c.val with alarmed := true }) (coreUnit t c.val 80) .timeout 5))) ∧
  (∀ (c : CoreId) (g : Fin 8) (faulty : List (Fin 134)) (s : State), (s.chimAt c.val).paused.contains g.val = true →
    (newFaults s c.val g.val faulty = [] → exec (.chimneyLineTest c g faulty) s = .next (s.setChim c.val ((s.chimAt c.val).unpause g.val))) ∧
    ∀ l ls, newFaults s c.val g.val faulty = l :: ls →
      let used := mget (s.chimAt c.val).spares g.val 0 + (l :: ls).length
      let t := logLines s c.val g.val (l :: ls)
      (used ≤ 4 → exec (.chimneyLineTest c g faulty) s =
        .next ((l :: ls).foldl (fun st x => report st (lineReport st c.val g.val x .corrected))
          (t.setChim c.val { (s.chimAt c.val).unpause g.val with spares := mset (s.chimAt c.val).spares g.val used 0 }))) ∧
      (4 < used → (s.chimAt c.val).disabled.length < 2 →
        exec (.chimneyLineTest c g faulty) s = .next (disableGroup t c.val g.val l)) ∧
      (4 < used → 2 ≤ (s.chimAt c.val).disabled.length →
        exec (.chimneyLineTest c g faulty) s = .next (failChimney t c.val g.val l)))

-- Descriptors (R269 to R277): each row runs the next descriptor of its channel

/-- NOP, PART_QUERY, CH_QUERY of another channel's handle, and CHIMNEY_QUERY of one core that is not quarantined end with OK and
change nothing but their entry (R23, R150, R195, R274, R276): DETAIL holds the status word of the object that they name.
CHIMNEY_QUERY of all cores writes the words of the 2,048 cores to host memory, TELEMETRY of one core its 256-byte record (R278).
CHIMNEY_QUERY of a quarantined core ends with QUARANTINED. A stale or unknown handle ends CH_DESTROY, CH_RESUME and CH_QUERY
with BAD_HANDLE and changes nothing else (R260, R274). -/
def Obligations.QueriesAnswer : Prop :=
  (∀ (ch : ChanId) (i : Nat) (d : Line) (s : State),
    (nextDesc s ch.val i d 0x00 = true → exec (.nop ch) s = .next (entryEnds s ch.val i .ok 0)) ∧
    (nextDesc s ch.val i d 0x1C = true →
      exec (.partQuery ch) s = .next (entryEnds s ch.val i .ok (BitVec.ofNat 128 (partWord s (descPart d))))) ∧
    (∀ k, nextDesc s ch.val i d 0x13 = true → handleChan s (descHandle d) = some k →
      exec (.chQuery ch) s = .next (entryEnds s ch.val i .ok (BitVec.ofNat 128 (chanWord s k ch.val)))) ∧
    (nextDesc s ch.val i d 0x21 = true → bit d 75 = false → s.isQuar (descCore d) = false →
      exec (.chimneyQuery ch) s = .next (entryEnds s ch.val i .ok (BitVec.ofNat 128 (chimneyWord s (descCore d))))) ∧
    (nextDesc s ch.val i d 0x21 = true → bit d 75 = false → s.isQuar (descCore d) = true →
      exec (.chimneyQuery ch) s =
        .next (entryEnds s ch.val i .quarantined (failDetail (coreUnit s (descCore d) 96) 0))) ∧
    (nextDesc s ch.val i d 0x21 = true → bit d 75 = true →
      exec (.chimneyQuery ch) s = .next (entryEnds
        (hostWrite s (descAddr d) ((natsFrom 0 2048).flatMap fun c => leBytes (chimneyWord s c) 8)) ch.val i .ok 0)) ∧
    (nextDesc s ch.val i d 0x31 = true → descAddr d % 64 = 0 → bit d 75 = false →
      exec (.telemetry ch) s = .next (entryEnds (hostWrite s (descAddr d) (telRecord s (descCore d))) ch.val i .ok 256))) ∧
  (∀ (ch : ChanId) (i : Nat) (d : Line) (s : State), handleChan s (descHandle d) = none →
    (nextDesc s ch.val i d 0x11 = true → exec (.chDestroy ch) s = .next (entryEnds s ch.val i .badHandle (failDetail noUnit 0))) ∧
    (nextDesc s ch.val i d 0x12 = true → exec (.chResume ch) s = .next (entryEnds s ch.val i .badHandle (failDetail noUnit 0))) ∧
    (nextDesc s ch.val i d 0x13 = true → exec (.chQuery ch) s = .next (entryEnds s ch.val i .badHandle (failDetail noUnit 0))))

/-- CH_CREATE takes the lowest index in CLOSED with the next generation and opens it as the descriptor says (R260, R277).
CH_DESTROY of another channel than channel 0 closes it and runs on (R262, R277). CH_RESUME ends a stall of SEQ or PRODUCER:
the channel is OPEN, or STALLED for its completion ring where that is full, and expects the SEQ that the descriptor gives (R261);
the events that have waited for channel 0 are written then (R380).
A closing channel whose last record has been written is CLOSED and keeps its generation; the CH_DESTROY that closed it, if one
did, then ends with OK (R262). -/
def Obligations.ChannelsOpenAndClose : Prop :=
  (∀ (ch : ChanId) (i k : Nat) (d : Line) (s : State),
    nextDesc s ch.val i d 0x10 = true → createOk d = true → (bits d 65 64 ≠ 0 ∨ (s.part? (bits d 71 66)).isSome = true) →
    lowestClosed s = some k →
    exec (.chCreate ch) s = .next (entryEnds (s.setChan k { Channel.closed0 with
      state := .open, kind := bits d 65 64, part := bits d 71 66, gen := nextGen (s.chanAt k).gen,
      sqBase := BitVec.ofNat 64 (descAddr d), cqBase := BitVec.ofNat 64 (descAddr2 d), sqLog2 := bits d 76 72,
      cqLog2 := bits d 81 77, vector := bits d 92 82, holdoff := bits d 271 256, nextSeq := BitVec.ofNat 32 (bits d 127 96) })
      ch.val i .ok (BitVec.ofNat 128 (k + nextGen (s.chanAt k).gen * 2 ^ 18)))) ∧
  ((∀ (ch : ChanId) (i k : Nat) (d : Line) (s : State),
    nextDesc s ch.val i d 0x11 = true → handleChan s (descHandle d) = some k → k ≠ 0 → k ≠ ch.val →
    (s.chanAt k).state ≠ .closing →
    exec (.chDestroy ch) s = .next (entryRuns (closeChannel s k (some ch.val)) ch.val i 0)) ∧
  (∀ (ch : ChanId) (i k : Nat) (d : Line) (s : State),
    nextDesc s ch.val i d 0x12 = true → handleChan s (descHandle d) = some k →
    (s.chanAt k).state = .stalledSeq ∨ (s.chanAt k).state = .stalledProducer →
    let t := deliverSigs (s.setChan k { s.chanAt k with
      state := if (s.chanAt k).freeEntries = 0 then .stalledCq else .open,
      nextSeq := BitVec.ofNat 32 (bits d 127 96) - BitVec.ofNat 32 (s.chanAt k).raw.length })
    exec (.chResume ch) s = .next (entryEnds (if k = 0 then drainEvents 257 t else t) ch.val i .ok 0)) ∧
  ∀ (k : ChanId) (s : State),
    (s.chanAt k.val).q = [] → (s.chanAt k.val).state = .closing →
    let t := s.setChan k.val { Channel.closed0 with gen := (s.chanAt k.val).gen }
    ((s.chanAt k.val).closer = none → exec (.channelCloseComplete k) s = .next t) ∧
    ∀ c, (s.chanAt k.val).closer = some c → exec (.channelCloseComplete k) s = .next (finishDesc t c (isDestroyOf k.val) .ok 0))

/-- PART_CREATE of a connected set of free cores that are not quarantined makes a partition in FREE (R149); PART_DESTROY of one in
FREE without a bound channel ends it: its regions return to NORMAL, and a mode request that waits for one of them ends (the
model's reading, log entry 48). PART_CTRL moves a partition as the transitions of R149 say: START from LOADED and RESUME from
QUIESCED run it when every op list and the routes of every router pass again, QUIESCE of a RUNNING one waits until it has
stopped, RESET of one in LOADED, RUNNING or QUIESCED leaves it LOADED and resets the routers that have waited for it (R159), and UNLOAD of one in LOADED, QUIESCED or FAILED leaves it
without plan or routes. -/
def Obligations.PartitionsComeMoveAndGo : Prop :=
  ((∀ (ch : ChanId) (i : Nat) (d : Line) (s : State),
    let cores := mapCores (rdBytes s.hostMem (descAddr d) 256)
    nextDesc s ch.val i d 0x18 = true → descAddr d % 64 = 0 → s.part? (descPart d) = none → connected cores = true →
    (∀ c ∈ cores, s.ownerOf c = none) → (∀ c ∈ cores, s.isQuar c = false) →
    exec (.partCreate ch) s = .next (entryEnds (s.setPart (descPart d) (Partition.fresh cores)) ch.val i .ok 0)) ∧
  ∀ (ch : ChanId) (i : Nat) (d : Line) (s : State) (v : Partition),
    nextDesc s ch.val i d 0x1B = true → s.part? (descPart d) = some v → v.state = .free → boundChannel s (descPart d) = false →
    let t := v.cores.foldl toNormal (dropModeWaits s v.cores .stateConflict)
    exec (.partDestroy ch) s = .next (entryEnds { t with
      part := mdel t.part (descPart d),
      pwr := { t.pwr with partInt := mdel t.pwr.partInt (descPart d), estSum := mdel t.pwr.estSum (descPart d) } } ch.val i .ok 0)) ∧
  (∀ (ch : ChanId) (i : Nat) (d : Line) (s : State) (v : Partition),
    nextDesc s ch.val i d 0x1A = true → s.part? (descPart d) = some v →
    (partCmd d = 0 → v.state = .loaded → firstBadList (listNow s) v.cores = none → fullRouter s (descPart d) v = none →
      exec (.partStart ch) s = .next (entryEnds ((releaseSeqs s v.cores).modPart (descPart d) fun v =>
        { v with state := .running, runSince := s.time.now }) ch.val i .ok 0)) ∧
    (partCmd d = 1 → v.state = .running →
      exec (.partQuiesce ch) s = .next (entryRuns (s.setPart (descPart d) { v with quiesce := some ch.val }) ch.val i 0)) ∧
    (partCmd d = 2 → v.state = .quiesced → firstBadList (listNow s) v.cores = none → fullRouter s (descPart d) v = none →
      exec (.partResume ch) s = .next (entryEnds ((releaseSeqs s v.cores).modPart (descPart d) fun v =>
        { v with state := .running, runSince := s.time.now }) ch.val i .ok 0)) ∧
    (partCmd d = 3 → v.state = .running ∨ v.state = .loaded ∨ v.state = .quiesced →
      exec (.partReset ch) s = .next (entryEnds (settleRouters
        ((resetPartition (dropSnapReq (endQuiesce s (descPart d) .resetAborted) (descPart d)) (descPart d)).modPart (descPart d)
          fun v => { v with state := .loaded, faults := 0 })) ch.val i .ok 0)) ∧
    (partCmd d = 4 → v.state = .loaded ∨ v.state = .quiesced ∨ v.state = .failed →
      exec (.partUnload ch) s = .next (entryEnds
        ((clearArrivals (removeRoutes (resetStreams s (descPart d)) (descPart d)) (descPart d)).modPart (descPart d)
          Partition.unloaded) ch.val i .ok 0)))

/-- PART_LOAD of an image that passes every check switches its regions on first, in state LOADING (R149, R338); the image is
written by DESCRIPTOR_COMPLETION, by which what else the channel runs goes on too, a commit group at its GROUP_END goes on (log entry
89), and the records of what has ended are written: one descriptor that has ended, alone in its channel, leaves it with its record in
the completion ring (R271, R272). -/
def Obligations.PlansLoad : Prop :=
  (∀ (ch : ChanId) (i : Nat) (d : Line) (s t : State) (v : Partition) (im : Img) (pl : Plan),
    nextDesc s ch.val i d 0x19 = true → s.part? (descPart d) = some v → v.state = .free →
    checkLoad ((applyBankQuar s).modPart (descPart d) fun v => { v with state := .free }) ch.val (descPart d) v d = (t, .ok (im, pl)) →
    ((regionsOf v.cores pl).all fun q => decide (quadAt t q = .on)) = false →
    exec (.partLoad ch) s = .next (entryRuns
      (((regionsOf v.cores pl).foldl requestRegion t).modPart (descPart d) fun v => { v with state := .loading }) ch.val i 0)) ∧
  (∀ (ch : ChanId) (i : Nat) (d : Line) (s t u : State) (v : Partition) (im : Img) (pl : Plan),
    nextDesc s ch.val i d 0x19 = true → s.part? (descPart d) = some v → v.state = .free →
    checkLoad ((applyBankQuar s).modPart (descPart d) fun v => { v with state := .free }) ch.val (descPart d) v d = (t, .ok (im, pl)) →
    ((regionsOf v.cores pl).all fun q => decide (quadAt t q = .on)) = true → applyImage t (descPart d) v im pl = (u, none) →
    exec (.partLoad ch) s = .next (entryEnds u ch.val i .ok 0)) ∧
  (∀ (ch : ChanId) (s : State) (e : DescEntry) (st : Status) (det : BitVec 128) (t : W64),
    (s.chanAt ch.val).q = [e] → e.inGroup = false → e.phase = .done st det t → (s.chanAt ch.val).group = none → (s.chanAt ch.val).freeEntries ≠ 0 →
    let ended := putRecord (s.setChan ch.val { s.chanAt ch.val with q := [], completed := (s.chanAt ch.val).completed + 1 }) ch.val
      (entryRecord e st det t)
    exec (.descriptorCompletion ch) s = .next (if bit e.desc 9 then raiseChannel ended ch.val else ended)) ∧
  ∀ (ch : ChanId) (s : State),
    exec (.descriptorCompletion ch) s = .next
      (let t := endGroup (continueAll ((runningAt (s.chanAt ch.val) 0x19).foldl (continueLoad ch.val) s) ch.val) ch.val
       writeDone ((t.chanAt ch.val).q.length + 1) t ch.val)

/-- PART_SNAPSHOT of a RUNNING partition whose plan has a SNAP barrier waits for the snapshot (R133). ROUTER_RESET of a router
resets it when its core is not quarantined, its partition does not run and no partition still needs it; one that is needed ends
with TRANSIT_BUSY, one of a quarantined core with QUARANTINED (R23, R157). Two cores of a rotation set that have drained, with no
line on its way to them, exchange their places (R364), in a RUNNING partition, when the copy meets no uncorrectable word; where it
meets one, that is a fault of its core (R84). -/
def Obligations.SnapshotRouterAndRotation : Prop :=
  ((∀ (ch : ChanId) (i : Nat) (d : Line) (s : State) (v : Partition) (pl : Plan),
    nextDesc s ch.val i d 0x1D = true → s.part? (descPart d) = some v → v.state = .running → v.plan = some pl →
    pl.hasSnap = true →
    exec (.partSnapshot ch) s = .next (entryRuns (s.setPart (descPart d) { v with snapReq := some ch.val }) ch.val i 0)) ∧
  ∀ (ch : ChanId) (i : Nat) (d : Line) (s : State), nextDesc s ch.val i d 0x22 = true →
    (s.isQuar (descCore d) = false → s.ownerState (descCore d) ≠ .running → routerHeld s (descCore d) = false →
      exec (.routerReset ch) s = .next (entryEnds (resetRouter s (descCore d)) ch.val i .ok 0)) ∧
    (s.isQuar (descCore d) = false → s.ownerState (descCore d) ≠ .running → routerHeld s (descCore d) = true →
      exec (.routerReset ch) s =
        .next (entryEnds s ch.val i .transitBusy (failDetail (coreUnit s (descCore d) 100) 0))) ∧
    (s.isQuar (descCore d) = true → exec (.routerReset ch) s =
      .next (entryEnds s ch.val i .quarantined (failDetail (coreUnit s (descCore d) 100) 0)))) ∧
  (∀ (p : PartId) (set : Fin 16) (s t : State) (v : Partition) (x : Rotation),
    s.part? p.val = some v → (v.rotating.find? fun x => decide (x.set = set.val)) = some x → v.state = .running →
    canExchange s x.hot x.cool = true →
    (copyReads s [x.hot, x.cool] = (t, none) →
      exec (.rotationComplete p set) s = .next ((exchangeCores t p.val x.hot x.cool).modPart p.val fun v => { v with
        rotations := v.rotations + 1, rotating := v.rotating.filter fun y => decide (y.set ≠ set.val),
        rotWanted := v.rotWanted.filter fun y => decide (y ≠ set.val) })) ∧
    ∀ c o, copyReads s [x.hot, x.cool] = (t, some (c, o)) → exec (.rotationComplete p set) s = .next (sramLost t c o))

/-- PWR_CAP sets the device's cap of 1,800 to 3,300 W, or a partition's of 0 or 50 to 3,300 W, when the partitions' caps then
lie within the device's; a device cap outside its range is BAD_DESCRIPTOR (R346). DAMPER_UPDATE takes the device's power, one
current per tier and the activity power of each core, estimates the cores with their leakage, puts the droop thresholds in force and
sets each core's bubbles (R341 to R344; what its operands are is log entry 21). CAP_LOOP scales the estimates to the power measured at
VIN, integrates the device's error, puts each tier's millisecond of bubbles behind its last ones and lets the eight tiers step by them
(R343, R345); with no partition the scale and the partitions' integrals stay. -/
def Obligations.PowerCaps : Prop :=
  (∀ (ch : ChanId) (i : Nat) (d : Line) (s : State), nextDesc s ch.val i d 0x30 = true →
    let w := bits d 95 80
    (bit d 70 = true → 1800 ≤ w → w ≤ 3300 → capsFit (setDevCap s w) = true →
      exec (.pwrCap ch) s = .next (entryEnds (setDevCap s w) ch.val i .ok 0)) ∧
    (∀ v, bit d 70 = false → w = 0 ∨ 50 ≤ w → w ≤ 3300 → s.part? (descPart d) = some v →
      capsFit (s.setPart (descPart d) { v with capW := w }) = true →
      exec (.pwrCap ch) s = .next (entryEnds (s.setPart (descPart d) { v with capW := w }) ch.val i .ok 0)) ∧
    (bit d 70 = true → w < 1800 ∨ 3300 < w →
      exec (.pwrCap ch) s = .next (entryEnds s ch.val i .badDescriptor (failDetail noUnit 0)))) ∧
  ((∀ (p1us : Nat) (amps activity : List Nat) (s : State), damperOk amps activity = true →
    exec (.damperUpdate p1us amps activity) s = .next
      (let t := takeEstimates ((natsFrom 0 8).foldl (fun st t => st.modPwr t fun v => { v with amps := amps.getD t 0 })
        { s with pwr := { s.pwr with p1us := p1us, droopNow := s.pwr.droopMv, deepNow := s.pwr.deepMv } }) activity
       let est := t.part.map fun e => (e.1, partEstimate t e.2)
       let set := (natsFrom 0 2048).filterMap fun c =>
         if coreBubblesOf t est c = 0 then none else some (c, coreBubblesOf t est c)
       sumBubbles { t with pwr := { t.pwr with coreBubbles := set } })) ∧
  ∀ (p1ms p10ms vinMv restW : Nat) (s : State),
    ∃ (scale : Nat × Nat) (ints : SMap Nat) (ms : SMap (List (Nat × Nat))),
      exec (.capLoop p1ms p10ms vinMv restW) s = .next ((natsFrom 0 8).foldl stepByBubbles { s with pwr := { s.pwr with
        p1ms := p1ms, p10ms := p10ms, vinMv := vinMv, scale := scale,
        devInt := integrate s.pwr.devInt ((p1ms : Int) - s.budgetNow),
        partInt := ints, bubbleMs := ms, bubbleSum := [], estSum := [], estN := 0 } }) ∧
      (s.part = [] → scale = s.pwr.scale ∧ ints = s.pwr.partInt) ∧
      (let total := s.part.foldl (fun a e => a + mget s.pwr.estSum e.1 0) 0
       total ≠ 0 → scale = ((p1ms - restW) * 1000 * s.pwr.estN, total)) ∧
      ∀ t : TierId, mget ms t.val [] = (mget s.pwr.bubbleSum t.val (0, 0) :: mget s.pwr.bubbleMs t.val []).take 64)

/-- ATTEST counts and writes a report that ends with its ECDSA signature by the identity key, over a nonce of the random number
generator (log entry 9); DEV_RESET with its key asks for a warm reset; LIC_INSTALL of a licence already held changes nothing, of
another adds it; FW_UPDATE of a stopped partition extends the measurements and puts its images into the units of the partition's cores
(R277, R417, R420, R422). The outcome of a flash write or of a delivery for a member of a commit group at its GROUP_END lets the group
go on, or aborts it with the member named (R417, R422; log entry 89). -/
def Obligations.SecurityDescriptors : Prop :=
  ∀ (ch : ChanId) (i : Nat) (d : Line) (s : State),
    (∀ k, nextDesc s ch.val i d 0x38 = true → s.sec.key = some k → s.sec.identityOk = true → s.sec.debugUnlocked = false →
      let body := reportBody s (bits d 447 192)
      exec (.attest ch) s = .next (entryEnds
        (hostWrite { s.draw with sec := { s.sec with reports := s.sec.reports + 1 } } (descAddr d)
          (body ++ ecdsaSign k (signNonce s) (sha384 body)))
        ch.val i .ok (BitVec.ofNat 128 (body.length + 96)))) ∧
    (nextDesc s ch.val i d 0x3F = true → bits d 95 64 = 0x4B17 →
      s.dev.state ≠ .safe ∨ s.clk.refA.ready = true ∨ s.clk.refB.ready = true →
      exec (.devReset ch) s = .next (entryEnds { s with dev := { s.dev with resetWanted := some .devReset } } ch.val i .ok 0)) ∧
    (∀ g k, awaited s ch.val 0x28 = some (g, k) →
      exec (.licInstall ch true) s = .next (takeOutcome s ch.val g k none) ∧
      exec (.licInstall ch false) s = .next (takeOutcome s ch.val g k (some (hearthUnit s 297, .timeout)))) ∧
    (∀ g k u, awaited s ch.val 0x2A = some (g, k) →
      exec (.fwUpdate ch none) s = .next (takeOutcome s ch.val g k none) ∧
      exec (.fwUpdate ch (some u)) s = .next (takeOutcome s ch.val g k (some (u, .checkMismatch)))) ∧
    (∀ flashOk, (s.chanAt ch.val).group = none → nextDesc s ch.val i d 0x28 = true →
      let b := rdBytes s.hostMem (descAddr d) (bits d 207 192)
      1 ≤ bits d 207 192 → bits d 207 192 ≤ 4096 → licForm b = true → licBinds s b = true → licSigned s b = true →
      s.sec.identityOk = true → s.sec.debugUnlocked = false →
      (s.sec.licences.any fun x => decide (licSerial x = licSerial b)) = true →
      exec (.licInstall ch flashOk) s = .next (entryEnds s ch.val i .ok (licDetail s))) ∧
    ((s.chanAt ch.val).group = none → nextDesc s ch.val i d 0x28 = true →
      let b := rdBytes s.hostMem (descAddr d) (bits d 207 192)
      1 ≤ bits d 207 192 → bits d 207 192 ≤ 4096 → licForm b = true → licBinds s b = true → licSigned s b = true →
      s.sec.identityOk = true → s.sec.debugUnlocked = false →
      (s.sec.licences.any fun x => decide (licSerial x = licSerial b)) = false → s.sec.licences.length < 16 →
      let t := applyFeatures { s with sec := { s.sec with licences := s.sec.licences ++ [b] } } (BitVec.ofNat 3 (licN b 56 8))
      exec (.licInstall ch true) s = .next (entryEnds t ch.val i .ok (licDetail t))) ∧
    (∀ v, (s.chanAt ch.val).group = none → nextDesc s ch.val i d 0x2A = true →
      let f := fun k => if k < bits d 223 192 then rdByte s.hostMem (descAddr d + k) else 0#8
      let m := manifestAt f
      1 ≤ bits d 223 192 → bits d 223 192 ≤ 524288 → s.part? (descPart d) = some v → v.state = .loaded ∨ v.state = .quiesced →
      manifestForm f = true → updateForm m (bits d 223 192) = true → manifestOk s f = true →
      (m.entries.all fun e => hashHolds f e && crcHolds f e) = true →
      exec (.fwUpdate ch none) s = .next (entryEnds
        (m.entries.foldl (fun st e => storeImage v.cores (extendMeasure st (if e.kind = 4 then 5 else 6) e.hash) e) s)
        ch.val i .ok 0))

/-- A copy of at most one unit from host memory to host memory writes the bytes read there, and a fill of at most one unit its
pattern, when no access waits ahead of it on the region's service path; a copy of no bytes is BAD_DESCRIPTOR. CP_PUT writes its
lines to the mailbox and runs on, to the step of the mailbox's counter; CP_GET hands a mailbox's lines to the host (R277). A
KV_RESULT of one line that is not line 0 of a group, in a region that is not in NORMAL and whose service path is free, consumes the
line and writes it to host memory (R185, R213, R277). -/
def Obligations.TransfersMove : Prop :=
  (∀ (ch : ChanId) (i : Nat) (d : Line) (s : State),
    (nextDesc s ch.val i d 0x40 = true → bit d 64 = false → bit d 65 = false → 0 < copyLen d → copyLen d ≤ 4096 →
      exec (.cpCopy ch) s = .next (entryEnds
        (hostWrite s (descAddr2 d) (rdBytes s.hostMem (descAddr d) (copyLen d))) ch.val i .ok 0)) ∧
    (∀ t, nextDesc s ch.val i d 0x41 = true → 0 < copyLen d → copyLen d ≤ 4096 → copyLen d % 64 = 0 → descAddr d % 64 = 0 →
      unitWaits s ch.val (descAddr d) = false → dpaWrite s (descAddr d) (fillBytes d (copyLen d)) = .done t →
      exec (.cpFill ch) s = .next (entryEnds (leaveWait t ch.val (descAddr d)) ch.val i .ok 0)) ∧
    (nextDesc s ch.val i d 0x40 = true → copyLen d = 0 →
      exec (.cpCopy ch) s = .next (entryEnds s ch.val i .badDescriptor (failDetail noUnit 0))) ∧
    (∀ m t, nextDesc s ch.val i d 0x60 = true → mailboxOf s ch.val d false = .ok m →
      writeSram s m.core (64 * m.la) (rdBytes s.hostMem (descAddr d) (64 * boxLines d)) = .done t →
      exec (.cpPut ch) s = .next (entryRuns t ch.val i (64 * boxLines d))) ∧
    (∀ m t bs, nextDesc s ch.val i d 0x61 = true → mailboxOf s ch.val d true = .ok m →
      readSram s m.core (64 * m.la) (64 * boxLines d) = (t, .ok bs) →
      exec (.cpGet ch) s = .next (entryEnds (hostWrite t (descAddr d) bs) ch.val i .ok (BitVec.ofNat 128 (64 * boxLines d))))) ∧
  (∀ (ch : ChanId) (i : Nat) (d : Line) (s : State),
    nextDesc s ch.val i d 0x54 = true → kvrCount d = 1 → kvrLine d < 16384 → groupOfLine0 (kvrLine d) = none →
    (s.regionAt (descCore d)).mode ≠ .normal → pathFree s (descCore d) = true →
    let x := consumeLine s (descCore d) (kvrNbu d) (kvrLine d)
    exec (.kvResult ch) s = .next (entryEnds (putResult x.2.draw d 0 x.1) ch.val i .ok 64))

/-- Contexts and page tables (R225, R228 to R230, R274, R277): KV_SETUP of a context not in use, with entries for every layer,
whose shards lie within a tray or on devices licensed for pods (R250; where they lie is free, log entry 90), makes it and starts the
mirrors; where they do not, it ends with LICENCE_DENIED. KV_RELEASE ends one that no batch
holds; KV_PTE edits a table at once and answers its generation. KV_SEQ (R246, R247, R279): REGISTER adds a sequence of 1 to
1,048,576 tokens to a context in use that has none, behind the others; PAUSE and REMOVE act at once on one that no batch holds;
RESUME puts a paused one behind the others. Each answers the bucket. -/
def Obligations.ContextsTablesAndSequences : Prop :=
  ((∀ (ch : ChanId) (i : Nat) (d : Line) (s : State) (v : Partition),
    let x := setupCtx d
    let t := if x.shards ≤ 1 then s else s.draw.draw
    nextDesc s ch.val i d 0x50 = true → setupOk d = true → mirrorDiffers s x = false → x.shard < x.shards →
    s.part? x.part = some v → mget? s.kv.ctxs (descCtx d) = none →
    (podMissing s x = false → ctxProvided s (descCtx d) x = true →
      exec (.kvSetup ch) s = .next (entryEnds (v.cores.foldl (startMirror x.mirrorOff)
        { t with kv := { s.kv with ctxs := mput s.kv.ctxs (descCtx d) x } }) ch.val i .ok 0)) ∧
    (podMissing s x = true → exec (.kvSetup ch) s = .next (entryEnds t ch.val i .licenceDenied (failDetail noUnit 0)))) ∧
  (∀ (ch : ChanId) (i : Nat) (d : Line) (s : State) (x : Ctx),
    nextDesc s ch.val i d 0x51 = true → mget? s.kv.ctxs (descCtx d) = some x → ctxFormed s (descCtx d) = false →
    exec (.kvRelease ch) s = .next (entryEnds (releaseCtxEntries s (descCtx d) x) ch.val i .ok 0)) ∧
  ∀ (ch : ChanId) (i : Nat) (d : Line) (s : State),
    let c := descCore d
    let es := (editsOf s d).map fun e => (e.1, e.2.2)
    nextDesc s ch.val i d 0x52 = true → 1 ≤ pteEdits d → pteEdits d ≤ 2048 → (editsOf s d).all editFormOk = true →
    (editsOf s d).all (editFree s c) = true →
    (es.all fun e => frameOk (putEntries (s.regionAt c).table es) (s.regionAt c).mirror e.1) = true →
    exec (.kvPte ch) s = .next (entryEnds (editTable s c es) ch.val i .ok
      (BitVec.ofNat 128 ((editTable s c es).regionAt c).gen.toNat))) ∧
  (∀ (ch : ChanId) (i : Nat) (d : Line) (s : State), nextDesc s ch.val i d 0x53 = true →
    (seqAction d = 0 → 1 ≤ bits d 116 96 → bits d 116 96 ≤ maxTokens → (mget? s.kv.ctxs (descCtx d)).isSome = true →
      kvSeqOf s (descCtx d) = none →
      exec (.kvSeqRegister ch) s = .next (entryEnds { s with kv := { s.kv with
        seqs := s.kv.seqs ++ [{ ctx := descCtx d, length := bits d 116 96, done := 0, paused := false, formed := false,
                                since := s.kv.clock, wantPause := none, wantRemove := none }],
        clock := s.kv.clock + 1 } } ch.val i .ok (bucketDetail (bits d 116 96)))) ∧
    ∀ q, seqOf s d = some q →
      (seqAction d = 1 → q.paused = false → q.formed = false → q.wantPause = none → q.wantRemove = none →
        exec (.kvSeqPause ch) s = .next (entryEnds (modKvSeq s (descCtx d) fun q => { q with paused := true }) ch.val i .ok
          (bucketDetail q.length))) ∧
      (seqAction d = 2 → q.paused = true →
        exec (.kvSeqResume ch) s = .next (entryEnds
          (modKvSeq { s with kv := { s.kv with clock := s.kv.clock + 1 } } (descCtx d) fun q =>
            { q with paused := false, since := s.kv.clock }) ch.val i .ok (bucketDetail q.length))) ∧
      (seqAction d = 3 → q.formed = false → q.wantRemove = none →
        exec (.kvSeqRemove ch) s = .next (entryEnds (dropKvSeq s (descCtx d)) ch.val i .ok (bucketDetail q.length))))

-- Places and addresses (R19 to R31)

/-- A core ID holds its tier, row and column in bits [10:8], [7:4] and [3:0]; all 2,048 values name cores (R19). -/
def Obligations.CoreIdNamesItsPlace : Prop :=
  (∀ c, c < 2048 → tierOf c = bits (BitVec.ofNat 11 c) 10 8 ∧ rowOf c = bits (BitVec.ofNat 11 c) 7 4 ∧
    colOf c = bits (BitVec.ofNat 11 c) 3 0 ∧ tierOf c < 8 ∧ rowOf c < 16 ∧ colOf c < 16 ∧
    coreIdOf (tierOf c) (rowOf c) (colOf c) = c) ∧
  coreIdOf 5 12 3 = 0x5C3

/-- Within a core's DRAM slot an offset lies in the home region's data, the NBU command window or the NBU result window
(R25). -/
def Obligations.DramSlotOffsetsDecode : Prop :=
  ∀ c off, c < 2048 →
    (off ≤ 0x5FFFFFF → placeOf (dramDpa c off) = .dram c off) ∧
    (0x6000000 ≤ off → off ≤ 0x6FFFFFF → placeOf (dramDpa c off) = .cmdWindow c off) ∧
    (0x7000000 ≤ off → off ≤ 0x7FFFFFF → placeOf (dramDpa c off) = .resWindow c off)

/-- Slot offset bits [23:20] of either window select the NBU, and each NBU has 1 MiB of each window: a line of the result
window reads what that NBU holds, and a line written to the command window reaches that NBU (R27). -/
def Obligations.WindowBitsSelectTheNbu : Prop :=
  (∀ base n k, base = 0x6000000 ∨ base = 0x7000000 → n < 16 → k < 0x100000 →
    winNbu (base + 0x100000 * n + k) = bits (BitVec.ofNat 27 (base + 0x100000 * n + k)) 23 20 ∧
    winNbu (base + 0x100000 * n + k) = n) ∧
  ∀ (c : CoreId) (n : NbuId) (j : Nat) (s : State), j < 16384 →
    ((s.regionAt c.val).mode ≠ .normal →
      readPiece s (dramDpa c.val (0x7000000 + 0x100000 * n.val + 64 * j)) 64 = (s.draw, .ok (bytesOf (peekLine s c.val n.val j) 64))) ∧
    ∀ (bs : List Byte) (t : State), bs.length = 64 → (s.regionAt c.val).mode = .compute →
      windowWrite s c.val n.val j (lineOfBytes bs) .service = .done t →
      writePiece s (dramDpa c.val (0x6000000 + 0x100000 * n.val + 64 * j)) 64 bs = .done t

/-- Until the device is READY, and for any request that reaches past the aperture, BAR2 answers with Unsupported Request and
changes nothing but Advanced Error Reporting's status (R29, R252, R255; its bits are log entry 75). Before READY, and outside SAFE, every
BAR0 write outside the BOOT block is discarded (R255, R446). -/
def Obligations.AccessBeforeReadyDoesNothing : Prop :=
  (∀ (a : BitVec 40) (n : Nat) (bs : List Byte) (s : State), s.hst.linkUp = true →
    (bar2ReadOk n = true → inBar2 s a.toNat n = false →
      exec (.bar2Read a n) s = .next (noteUnsupported true (bar2Out s none none))) ∧
    (bar2WriteOk bs = true → inBar2 s a.toNat bs.length = false →
      exec (.bar2Write a bs) s = .next (noteUnsupported false (bar2Out s none none))) ∧
    (s.dev.ready = false → inBar2 s a.toNat n = false)) ∧
  (∀ (off : BitVec 24) (bs : List Byte) (s : State), regWriteOk bs = true → s.hst.linkUp = true → s.dev.state ≠ .off →
    s.dev.ready = false → s.dev.state ≠ .safe → off.toNat + bs.length ≤ 0x90000 ∨ 0xA0000 ≤ off.toNat →
    exec (.registerWrite (.bar0 off) bs) s = .next s)

/-- A BAR2 read of the DRAM data of one slot in which no word is in error, with no access ahead of it on the region's service path,
answers the bytes that stand there, and changes nothing but the answer (R30, R31, R168, R185). -/
def Obligations.Bar2ReadsDram : Prop :=
  ∀ (a : BitVec 40) (n c off : Nat) (s : State),
    s.hst.linkUp = true → bar2ReadOk n = true → inBar2 s a.toNat n = true → inDram a.toNat n c off = true →
    pathFree s c = true → s.memc.lost.contains (tierOf c) = false → dramMarks s c off n = [] →
    exec (.bar2Read a n) s = .next (bar2Out s (some (rdBytes s.mem a.toNat n)) none)

/-- A BAR2 write of the DRAM data of one slot, in a memory in which no word is in error and no page stale, of a region whose NBUs
run nothing, that has no mirror and whose service path is free, stores its bytes: behind it they read at their addresses, and every
other byte of device memory, all of host memory, and the cores, partitions, channels, regions, streams, routes, records and device
state are as before (R31, R169, R185, R219). -/
def Obligations.Bar2WritesDram : Prop :=
  ∀ (a : BitVec 40) (c off : Nat) (bs : List Byte) (s : State),
    s.hst.linkUp = true → bar2WriteOk bs = true → inBar2 s a.toNat bs.length = true → inDram a.toNat bs.length c off = true →
    s.err.dram = [] → s.err.synd = [] → s.err.stale = [] → regionGuarded s c = false → pathFree s c = true →
    ∃ t, exec (.bar2Write a bs) s = .next t ∧
      rdBytes t.mem a.toNat bs.length = bs ∧
      (∀ x, x < a.toNat ∨ a.toNat + bs.length ≤ x → rdByte t.mem x = rdByte s.mem x) ∧
      t.hostMem = s.hostMem ∧ t.flash = s.flash ∧ t.core = s.core ∧ t.part = s.part ∧ t.hst = s.hst ∧ t.region = s.region ∧
      t.ras = s.ras ∧ t.stream = s.stream ∧ t.routes = s.routes ∧ t.dev = s.dev ∧ t.out.bar2Fail = none

-- Near-bank units (R196 to R223)

/-- In COMPUTE a write of a window line, over the chimney or over a service path on which nothing is ahead of it, does what its line
is for (R185, R201 to R204): it queues a command, writes a line of a query slot, of that slot in every NBU, or CHK_BASE. A region
that is not in COMPUTE refuses every window write of a service path with STATE_CONFLICT: one CONTAINED record (R31, R199). -/
def Obligations.WindowWrites : Prop :=
  (∀ (c : CoreId) (n : NbuId) (l : Line) (via : Path) (s t : State), (s.regionAt c.val).mode = .compute →
    via = .chimney ∨ pathFree s c.val = true →
    (∀ line : Fin 256, enqueueCmd s c.val n.val l via = .done t → exec (.nbuCommandWrite c n line l via) s = .next t) ∧
    (∀ (slot : Fin 4) (line : Fin 18), writeQuery s c.val n.val slot.val line.val l = .done t →
      exec (.queryWrite c n slot line l via) s = .next t) ∧
    (∀ (slot : Fin 4) (line : Fin 18), writeQueryAll s c.val slot.val line.val l = .done t →
      exec (.queryAllWrite c slot line l via) s = .next t) ∧
    (writeParam s c.val l = .done t → exec (.regionParamWrite c l via) s = .next t)) ∧
  (∀ (c : CoreId) (n : NbuId) (l : Line) (slot : Fin 4) (line : Fin 18) (s : State), (s.regionAt c.val).mode ≠ .compute →
    pathFree s c.val = true →
    (∀ k : Fin 256, exec (.nbuCommandWrite c n k l .service) s = .next (serviceFail s c.val n.val .stateConflict)) ∧
    exec (.queryWrite c n slot line l .service) s = .next (serviceFail s c.val n.val .stateConflict) ∧
    exec (.queryAllWrite c slot line l .service) s = .next (serviceFail s c.val 0 .stateConflict) ∧
    exec (.regionParamWrite c l .service) s = .next (serviceFail s c.val 0 .stateConflict))

/-- The write that waits for an entry of a full queue ends with TIMEOUT at its time limit, and the accesses behind it go on (R185,
R202); a POP read takes the oldest result, a read of a group's line 0 starts its round, and the fold of a round that no command
holds open answers line 0 to the chimney's op and to the results that wait for it (R213, R216). -/
def Obligations.ResultsAreRead : Prop :=
  (∀ (c : CoreId) (n : NbuId) (q : NbuCmd) (s : State), (s.nbuAt c.val n.val).waitWrite = some q →
    exec (.nbuQueueFullTimeout c n) s = .next (settlePath
      (serviceFail (s.modNbu c.val n.val fun u => { u with waitWrite := none }) c.val n.val .timeout) c.val)) ∧
  (∀ (c : CoreId) (n : NbuId) (s : State), (s.regionAt c.val).mode ≠ .normal →
    let x := consumeLine s c.val n.val 1
    exec (.popRead c n) s = .next { x.2 with out := { x.2.out with win := [x.1] } }) ∧
  (∀ (c : CoreId) (g : Fin 4) (s : State), (s.regionAt c.val).mode ≠ .normal →
    exec (.groupLine0Read c g) s = .next (startRound s c.val g.val)) ∧
  ∀ (c : CoreId) (g : Fin 4) (s : State),
    (mget (s.regionAt c.val).groups g.val MGroup.empty).pendingFold = true → roundBusy (s.regionAt c.val) g.val = false →
    let t := s.setRegion c.val (foldGroup s.free (s.regionAt c.val) g.val)
    let u := { t with free := t.free + 8, out := { t.out with win := [groupLine t.free (t.regionAt c.val) g.val 0] } }
    exec (.groupFold c g) s = .next
      (takeFolds (pumpChimney (foldToNbc u c.val g.val (foldFlags (s.regionAt c.val) g.val)) c.val) c.val g.val)

/-- The oldest command of an NBU starts when it may (R202, R203): it leaves the queue, a QWAIT takes one arm of its slot, and it
runs with its query slot as it stands. A command that has computed and whose group waits for no fold, or waits for this command,
writes its words (R211, R212, R214); while a bank of a block that it must check again is kept by another NBU's command it stays
so (R211); else its check words are written, its partials merged, its result posted with the tier's time, the next writes
admitted and the accesses behind them served. A row boundary of a running command is counted as a yield (R218). -/
def Obligations.CommandsStartAndComplete : Prop :=
  (∀ (c : CoreId) (n : NbuId) (s : State) (q : NbuCmd) (qs : List NbuCmd),
    let u := s.nbuAt c.val n.val
    u.queue = q :: qs → mayStart s c.val n.val u q = true →
    exec (.nbuCommandStart c n) s = .next (s.setNbu c.val n.val { u with
      queue := qs, running := some (freshRun u q),
      arms := if cmdQwait q.cmd then mset u.arms (cmdSlot q.cmd) (mget u.arms (cmdSlot q.cmd) 0 - 1) 0 else u.arms })) ∧
  ((∀ (c : CoreId) (n : NbuId) (s : State) (run : NbuRun),
    (s.nbuAt c.val n.val).running = some run → run.computed = true →
    cmdMerge run.cmd.cmd = false ∨ run.inRound = true ∨
      (mget (s.regionAt c.val).groups (cmdGroup run.cmd.cmd) MGroup.empty).pendingFold = false →
    let w := standWrites s c.val run
    let waits := tasksWait (w.1.regionAt c.val) n.val (recompInBank (w.1.regionAt c.val).chkBase.toNat w.2.recomp)
    let x := commitRun w.1 c.val w.2
    let m := (x.1.nbuAt c.val n.val).mergeIn (cmdGroup run.cmd.cmd) (if x.2.status = .ok then x.2.partials else [])
    let r := { x.2 with flags := x.2.flags ||| m.2 }
    (waits = true → exec (.nbuCommandComplete c n) s =
      .next (w.1.modNbu c.val n.val fun u => { u with running := some w.2 })) ∧
    (waits = false → exec (.nbuCommandComplete c n) s = .next (settlePath (pumpChimney (admitWaiting
      (afterCommand (x.1.setNbu c.val n.val (m.1.post r (x.1.tierTime (tierOf c.val)))) c.val n.val r) c.val n.val) c.val) c.val))) ∧
  ∀ (c : CoreId) (n : NbuId) (s : State), (s.nbuAt c.val n.val).running.isSome = true →
    exec (.nbuRowBoundary c n) s = .next (s.modNbu c.val n.val fun u => { u with yields := u.yields + 1 }))

/-- The op of a running command that has not computed yet computes its results once (R205 to R211): the 11 operations of the NBU;
BCHK when no command of another NBU keeps a bank that it reads (R210). -/
def Obligations.CommandsCompute : Prop :=
  ∀ (c : CoreId) (n : NbuId) (s : State) (run : NbuRun),
    (s.nbuAt c.val n.val).running = some run → run.computed = false →
    let done := fun (x : State × NbuOut) => (Host.Outcome.next (x.1.modNbu c.val n.val fun u => { u with running := some (run.take x.2) }) : Res)
    let op := cmdOp run.cmd.cmd
    (op = 0x01 → exec (.attp c n) s = done (attpRun s c.val n.val run)) ∧
    (op = 0x02 → exec (.attqk c n) s = done (attqkRun s c.val n.val run)) ∧
    (op = 0x03 → exec (.attav c n) s = done (attavRun s c.val n.val run)) ∧
    (op = 0x04 → exec (.kvapp c n) s = done (kvappRun s c.val n.val run)) ∧
    (op = 0x05 → exec (.kvdecay c n) s = done (kvdecayRun s c.val n.val run)) ∧
    (op = 0x06 → exec (.fill c n) s = done (fillRun s c.val n.val run)) ∧
    (op = 0x07 → exec (.copy c n) s = done (copyRun s c.val n.val run)) ∧
    (op = 0x08 → exec (.gather c n) s = done (gatherRun s c.val n.val run)) ∧
    (op = 0x09 → exec (.scatter c n) s = done (scatterRun s c.val n.val run)) ∧
    (op = 0x0A → exec (.rsum c n) s = done (rsumRun s c.val n.val run)) ∧
    (op = 0x0B → bchkWaits s c.val n.val = false → exec (.bchk c n) s = done (bchkRun s c.val n.val run))

/-- Region modes by descriptor (R199, R200), of a region for which no request waits and whose core's partition is not LOADING,
RUNNING or RECOVERING (COMPUTE: whose core has a partition, R151): COMPUTE of one in NORMAL waits for its admission, COMPUTE of
one in DRAIN and DRAIN of one in COMPUTE take effect at once, NORMAL of an idle one does, and of one with work is STATE_CONFLICT;
NORMAL of one in NORMAL changes nothing. In those states of its partition, and COMPUTE of a core without one, the descriptor is
STATE_CONFLICT. By NBC the op issues. An admission with headroom in VDL grants COMPUTE; without, it runs short (R340). -/
def Obligations.RegionModesChange : Prop :=
  (∀ (ch : ChanId) (i : Nat) (d : Line) (s : State),
    let c := descCore d
    nextDesc s ch.val i d 0x20 = true →
    (modeRefused s c (descMode d) = false → (s.regionAt c).modeReqs = [] →
      (descMode d = 1 → (s.regionAt c).mode = .normal →
        exec (.regionModeCompute (.desc ch)) s = .next (entryRuns ((s.modPwr (tierOf c) fun v => { v with queue := v.queue ++
          [{ kind := .nbu, target := c, phase := 0, waited := false, again := false, bubbles := 0 }] }).modRegion c fun r =>
            { r with modeReqs := [⟨some ch.val, 1, false⟩] }) ch.val i 0)) ∧
      (descMode d = 1 → (s.regionAt c).mode = .drain →
        exec (.regionModeCompute (.desc ch)) s = .next (entryEnds (s.modRegion c fun r => { r with mode := .compute }) ch.val i .ok 0)) ∧
      (descMode d = 2 → (s.regionAt c).mode = .compute →
        exec (.regionModeDrain (.desc ch)) s = .next (entryEnds (s.modRegion c fun r => { r with mode := .drain }) ch.val i .ok 0)) ∧
      (descMode d = 0 → (s.regionAt c).mode = .normal → exec (.regionModeNormal (.desc ch)) s = .next (entryEnds s ch.val i .ok 0)) ∧
      (descMode d = 0 → (s.regionAt c).mode ≠ .normal → (s.regionAt c).working = false → ∃ t,
        exec (.regionModeNormal (.desc ch)) s = .next (entryEnds t ch.val i .ok 0) ∧
        (t.regionAt c).mode = .normal ∧ (t.regionAt c).table = (s.regionAt c).table ∧ t.mem = s.mem) ∧
      (descMode d = 0 → (s.regionAt c).mode ≠ .normal → (s.regionAt c).working = true →
        exec (.regionModeNormal (.desc ch)) s =
          .next (entryEnds s ch.val i .stateConflict (failDetail (coreUnit s c 80) 0)))) ∧
    (modeRefused s c (descMode d) = true →
      let r := Host.Outcome.next (entryEnds s ch.val i .stateConflict (failDetail (coreUnit s c 80) 0))
      (descMode d = 0 → exec (.regionModeNormal (.desc ch)) s = r) ∧ (descMode d = 1 → exec (.regionModeCompute (.desc ch)) s = r) ∧
      (descMode d = 2 → exec (.regionModeDrain (.desc ch)) s = r))) ∧
  (∀ (c : CoreId) (s : State) (mode : Nat) (row : ModeSrc → Instr),
    (mode = 0 ∧ row = .regionModeNormal ∨ mode = 1 ∧ row = .regionModeCompute ∨ mode = 2 ∧ row = .regionModeDrain) →
    canStart s c.val 0x10 (fun r => decide (nbcAction r = 2) && decide (bits r 67 66 = mode)) = true →
    exec (row (.nbc c)) s = .next (issueOp s c.val)) ∧
  ∀ (t : TierId) (amps : Nat) (s : State) (a : Admit), admitOf s t.val .nbu = some a →
    (amps + 2 ≤ s.vdlLim t.val →
      exec (.nbuAdmission t amps) s = .next (grantNbu (countAdmit (dropAdmit s t.val a) a) a.target)) ∧
    (s.vdlLim t.val < amps + 2 → exec (.nbuAdmission t amps) s = .next (setAdmit s t.val a a.runShort))

-- Cache and batches (R224 to R249)

/-- A page is protected when its SEQ is below 4 or at most 31 retained or held pages of the layer have a higher one (R235, with
one shard), and a sequence of n tokens is in the bucket of R246. -/
def Obligations.ProtectionAndBuckets : Prop :=
  (∀ (all : List (Nat × Nat × BitVec 128)) (e : BitVec 128),
    protectedPage 1 all e = true ↔ pteSeq e < 4 ∨ (all.filter fun p => decide (pteSeq p.2.2 > pteSeq e)).length < 32) ∧
  ∀ n, 1 ≤ n → n ≤ 1048576 →
    (n ≤ 63 → bucketOf n = 0) ∧ (∀ b, 1 ≤ b → b ≤ 14 → 2 ^ (b + 5) ≤ n → n < 2 ^ (b + 6) → bucketOf n = b) ∧
    (n = 1048576 → bucketOf n = 15)

/-- An opening that a context still in use has asked for makes the former look for a page to evict (R236). A request of the batch
core for a decode batch forms one of the first waiting sequence and those of its bucket, up to the box's most, or an empty one
when none waits; a prefill takes the first with tokens left, or none; DONE of a formed batch advances its sequences and frees
them (R247, R248). -/
def Obligations.BatchesForm : Prop :=
  (∀ (s : State) (o : Opening) (rest : List Opening) (cx : Ctx) (v : Partition),
    s.kv.openings = o :: rest → mget? s.kv.ctxs o.ctx = some cx → s.part? cx.part = some v →
    exec .evictionSelection s = .next (evictFrom { s with kv := { s.kv with openings := rest } } cx v o.ctx o.layer)) ∧
  (∀ (p : PartId) (s : State) (b : BatchBox) (g : SigSlot), requestOf s p.val 0 = some (b, g) → batchesFull s p.val = false →
    let t := dropOverflow s p.val
    (waitingSeqs t p.val = [] → exec (.batchDecode p) s = .next (formBatch t p.val b g 1 [] 1 false)) ∧
    ∀ q qs, waitingSeqs t p.val = q :: qs → exec (.batchDecode p) s = .next (formBatch t p.val b g 1
      (((q :: qs).filter fun x => decide (bucketOf x.length = bucketOf q.length)).take b.batchMax) 1 false)) ∧
  (∀ (p : PartId) (s : State) (b : BatchBox) (g : SigSlot), requestOf s p.val 1 = some (b, g) → batchesFull s p.val = false →
    (((waitingSeqs s p.val).find? fun q => decide (q.done < q.length)) = none →
      exec (.batchPrefill p) s = .next (formBatch s p.val b g 2 [] 0 false)) ∧
    ∀ q, ((waitingSeqs s p.val).find? fun q => decide (q.done < q.length)) = some q →
      exec (.batchPrefill p) s = .next (formBatch s p.val b g 2 [q] (chunkLen b q) (decide (q.done + chunkLen b q = q.length)))) ∧
  ∀ (p : PartId) (s : State) (b : BatchBox) (g : SigSlot) (v : Partition) (x : Batch),
    requestOf s p.val 2 = some (b, g) → s.part? p.val = some v →
    (v.batches.find? fun y => decide (y.id = bits g.value 15 8)) = some x →
    exec (.batchDone p) s = .next (endSig
      ((x.ctxs.foldl (fun st c => releaseCtx (modKvSeq st c fun q => q.advance x.tokens) c) s).modPart p.val fun v =>
        { v with batches := v.batches.filter fun y => decide (y.id ≠ x.id) }) b.core g)

-- Host attachment (R250 to R281)

/-- SCAN_EN (R257, R263): a passing probe of a READY device opens channel 0 and starts scanning, and clearing it stops both; a scan
walks the doorbell area (R266). Bus Master Enable changes one bit when it goes, and releases what was held back when it comes
(R256). A read of host memory that is under way and is not answered, or answered with an error, fails (R256), and one of a group's
member as it arrives fails its group (R282); a time-out is noted for Advanced Error Reporting (R252). The end of a
hold-off raises the vector that it held back, or else lets the next record raise it at once (R273). -/
def Obligations.ScanningAndHostReads : Prop :=
  ((∀ (ok : Bool) (s : State), s.dev.ready = true → s.hst.scanEn = false → scanOutcome s ok = .ok →
    exec (.scanEnSet ok) s = .next (drainEvents 257
      (let t := openCh0 { s with hst := { s.hst with scanResult := .ok } }
       { t with hst := { t.hst with scanEn := true, scanning := true } }))) ∧
  (∀ s : State, s.dev.ready = true →
    exec .scanEnClear s = .next { s with hst := { s.hst with scanEn := false, scanning := false } }) ∧
  (∀ s : State, exec .busMasterDisable s = .next { s with hst := { s.hst with busMaster := false } }) ∧
  (∀ s : State, exec .busMasterEnable s = .next (releaseHeldWrites { s with hst := { s.hst with busMaster := true } })) ∧
  ∀ s : State, s.hst.scanning = true → s.canMaster = true → exec .doorbellScan s = .next (scanBells allReads s)) ∧
  ((∀ (what : HostRead) (err : ReadErr) (s : State), readsNow s what = true →
    ((∀ ch, what ≠ .data ch true) → exec (.completionTimeout what) s = .next (hostReadFails (noteTimeout s) what .timeout) ∧
      exec (.completionError what err) s = .next (hostReadFails s what .addrFault)) ∧
    ∀ ch, what = .data ch true → exec (.completionTimeout what) s = .next (failArriving (noteTimeout s) ch.val .timeout) ∧
      exec (.completionError what err) s = .next (failArriving s ch.val .addrFault)) ∧
  ∀ (ch : ChanId) (s : State), (s.chanAt ch.val).inHoldoff = true →
    ((s.chanAt ch.val).irqHeld = true → exec (.interruptHoldoffExpiry ch) s = .next
      ((raiseVector s (s.chanAt ch.val).vector).setChan ch.val
        { s.chanAt ch.val with irqHeld := false, inHoldoff := decide ((s.chanAt ch.val).holdoff ≠ 0) })) ∧
    ((s.chanAt ch.val).irqHeld = false →
      exec (.interruptHoldoffExpiry ch) s = .next (s.setChan ch.val { s.chanAt ch.val with inHoldoff := false })))

/-- The oldest fetched descriptor of a channel that is neither CLOSED nor CLOSING arrives (R261, R270): outside a group it is
checked alone, in an open group as its member, and a SEQ that is not the next one stalls the channel. A group that waited is
admitted while fewer than 16 are staged, and a group whose end has not been fetched in time is aborted with the members that
have been fetched (R280, R281, R282). -/
def Obligations.DescriptorsArrive : Prop :=
  (∀ (ch : ChanId) (s : State) (d : Line) (rest : List Line),
    let v := s.chanAt ch.val
    let t := s.setChan ch.val { v with raw := rest, nextSeq := v.nextSeq + 1 }
    v.raw = d :: rest → takesFetched v = true → memberWaits s v d = false →
    (descSeq d ≠ v.nextSeq → exec (.descriptorArrival ch) s = .next (arriveWrong t ch.val d)) ∧
    (descSeq d = v.nextSeq → v.group = none → exec (.descriptorArrival ch) s = .next (arriveAlone t ch.val d)) ∧
    ∀ g, descSeq d = v.nextSeq → v.group = some g → exec (.descriptorArrival ch) s = .next (arriveInGroup t ch.val g d)) ∧
  ∀ (ch : ChanId) (s : State) (g : Group), (s.chanAt ch.val).group = some g →
    (g.waiting = true → stagedGroups s < 16 →
      exec (.groupAdmission ch) s = .next (afterMember
        (s.modChan ch.val fun v => { v with group := some { g with waiting := false } }) ch.val (g.members.getLastD 0#512))) ∧
    (endFetched (s.chanAt ch.val) g = false → g.ending = none →
      let t := joinFetched s ch.val
      exec (.groupTimeout ch) s = .next (abortGroup t ch.val (g.fail.getD (lastMember (groupMembers t ch.val) .timeout))))

/-- DEV_SCRATCH (R449): 0 at reset, and read back as it is kept; a write of its 8 bytes over BAR0 of a READY device in D0 keeps
VALUE, and nothing else changes; the begin of a warm reset keeps it and the loss of power zeroes it. -/
def Obligations.ScratchRegister : Prop :=
  State.reset.dev.scratch = 0 ∧
  (∀ s : State, s.dev.ready = true → s.dev.state ≠ .off → readReg s 0x10 = s.dev.scratch) ∧
  (∀ (bs : List Byte) (s : State), bs.length = 8 → s.hst.linkUp = true → s.hst.d3hot = false → s.dev.ready = true →
    s.dev.state ≠ .off →
    exec (.registerWrite (.bar0 0x10) bs) s =
      .next { s with dev := { s.dev with scratch := BitVec.ofNat 64 (leNat (fun i => bs.getD i 0#8) 0 8) } }) ∧
  (∀ (s : State) (c : WarmCause), (beginWarmReset s c).dev.scratch = s.dev.scratch) ∧
  ∀ s : State, (powerOff s).dev.scratch = 0

-- Muold links (R282 to R312)

/-- Training (R293 to R296, R299, R302): DETECT that sees a usable lane goes on to EQ and fails without one; EQ with a good
lane goes on to ALIGN and fails without one, and in a retrain writes a record of each lane that it lost; a time limit fails the
training of a port in it; a DOWN port tries again once the start has waited for the ports, outside SAFE. ALIGN of two ends that
share a usable width settles the port by the peer's identity, with the IDENT that this end has sent (R296, R303), and fails without;
an IDENT that changes nothing of the state of a linked port stores the peer, and a master path that it changes is followed (R311). A
retrain, by the event, by a lost lane or by the
register's bits, takes a linked port back to DETECT (R299, R302). -/
def Obligations.PortsTrainAndAlign : Prop :=
  (∀ (p : PortId) (s : State),
    let n := p.val + 1
    let v := s.portAt n
    (∀ lanes, v.state = .detect → lanes &&& ~~~v.lanesBad ≠ 0 →
      exec (.portDetect p lanes) s = .next (movePort s n { v with state := .eq, lanesSeen := lanes &&& ~~~v.lanesBad })) ∧
    (∀ lanes, v.state = .detect → lanes &&& ~~~v.lanesBad = 0 → exec (.portDetect p lanes) s = .next (trainingFails s n)) ∧
    (∀ good fine, v.state = .eq →
      let ok := good &&& v.lanesSeen
      let t := if v.retraining then laneRecords s n (v.lanesSeen &&& ~~~ok) else s
      (ok ≠ 0 → exec (.portEq p good fine) s =
        .next (movePort t n { v with state := .align, lanesGood := ok, lanesFine := fine &&& ok })) ∧
      (ok = 0 → exec (.portEq p good fine) s =
        .next (trainingFails (t.setPort n { v with lanesGood := ok, lanesFine := fine &&& ok }) n))) ∧
    (inTraining v = true → exec (.portTrainingTimeout p) s = .next (trainingFails s n)) ∧
    (v.state = .down → (s.dev.ready || s.boot.trainEnd) = true → s.dev.state ≠ .safe →
      exec (.portDetectRetry p) s = .next (startTraining s n))) ∧
  (∀ (p : PortId) (s : State),
    let n := p.val + 1
    let v := s.portAt n
    (∀ pg pf (pm : Fin 4) peer, v.state = .align →
      (widthOf (v.lanesGood &&& pg) ≠ 0 →
        exec (.portAlign p pg pf pm peer) s = .next (settlePort s s n { v.aligned (identPayload s n) with
          width := widthOf (v.lanesGood &&& pg),
          lr := modeLr v.setting pm.val (decide (v.lanesFine = v.lanesGood) && decide (pf &&& pg = pg)) } peer (identState s peer))) ∧
      (widthOf (v.lanesGood &&& pg) = 0 → exec (.portAlign p pg pf pm peer) s = .next (trainingFails s n))) ∧
    (∀ peer, linked v = true → identState s peer = v.state →
      exec (.ident p peer) s = .next (afterMaster s (updPort s n { v with peer := some peer }))) ∧
    (linked v = true → exec (.portRetrain p) s = .next (retrain s n)) ∧
    (∀ lane, linked v = true → exec (.laneLockLoss p lane) s = .next (retrain s n)) ∧
    (∀ w, s.dev.ready = true → s.dev.state ≠ .safe →
      exec (.lnkRetrain w) s = .next ((natsFrom 1 24).foldl (retrainBit w) s)))

/-- Flits (R288 to R292): the unit of a port that carries traffic, in the port's mode, is counted if it was corrected and its flit
taken, and a NAK that it calls for leaves with the next flit; a received NAK sends the replay buffer again, and a missing ACK
retrains the port. Control flits of a port that is UP (R290, R305 to R311): barrier tokens, time requests and responses, and tree
notices are taken. The tree timer sends this device's notice. The time timer, with no request outstanding, asks the master port with
the present time; without a master the device runs free and owes no offset. TRAY_LOCK, of a READY device without the lock that
runs no partition, sets the lock and the tray number, and with another tray number follows its new master path and sends IDENT again
(R296, R298, R311). -/
def Obligations.FlitsAreTaken : Prop :=
  (∀ (p : PortId) (s : State), carries (s.portAt (p.val + 1)) = true →
    let n := p.val + 1
    (∀ header payload code h w fec, unitOfMode (s.portAt n) header payload code = some (h, w, fec) →
      exec (.flitReceived p header payload code) s = .next (idleNak (pumpPort 65 (takeFlit
        (s.modPort n fun v => { v with fecCorrected := satAdd 32 v.fecCorrected (b2n fec) }) n h w) n) n)) ∧
    (∀ ack, exec (.nakReceived p ack) s = .next (pumpPort 65 (takeNak s n ack) n)) ∧
    ((s.portAt n).replay ≠ [] → exec (.ackTimeout p) s = .next (retrain s n))) ∧
  (∀ (p : PortId) (s : State),
    (portUp s (p.val + 1) = true →
      (∀ tok, exec (.barrierArrive p tok) s = .next (takeArrive s (p.val + 1) tok)) ∧
      (∀ tok, exec (.barrierRelease p tok) s = .next (takeRelease s (p.val + 1) tok)) ∧
      (∀ t1, exec (.timeReq p t1) s = .next (answerTime s (p.val + 1) t1)) ∧
      (∀ t1 t2 t3, exec (.timeResp p t1 t2 t3) s = .next (takeResp s (p.val + 1) t1 t2 t3)) ∧
      ∀ up unit, exec (.tree p up unit) s = .next (takeTree s up unit)) ∧
    exec .treeTimer s = .next (sendTree s) ∧
    (∀ q, s.time.sentT1 = none → masterPort s = some q →
      exec .timeExchangeTimer s = .next (sendControl { s with time := { s.time with sentT1 := some s.time.now } } q 3
        (BitVec.ofNat 2048 (3 + s.nowNat * 2 ^ 64)))) ∧
    (s.time.sentT1 = none → masterPort s = none →
      exec .timeExchangeTimer s = .next { s with time := { s.time with timeSync := false, sentT1 := none, owe := 0 } }) ∧
    ∀ w, s.dev.ready = true → s.lnk.lock = false → anyRunning s = false →
      (bits w 8 0 = s.lnk.tray.toNat → exec (.trayLock w) s = .next { s with lnk := { s.lnk with lock := bit w 12 } }) ∧
      (bits w 8 0 ≠ s.lnk.tray.toNat → exec (.trayLock w) s = .next (resendIdent (afterMaster s { s with lnk := { s.lnk with
        tray := BitVec.ofNat 9 (bits w 8 0), lock := bit w 12 } }) false)))

/-- Balancing (R347 to R349): at a report, a device sends one of each job that it runs, with the mean share of the cores that run
it, and leaves the balances of the others; when a job of it has stopped it returns to its own cap. Reports of the same tray are recorded; a balance period sends the assignments of a
job that has a balance; an assignment sets the budget, and its absence returns the device to its own cap with one record. (That a
job's end is noticed at the next report is log entry 30.) -/
def Obligations.PowerIsBalanced : Prop :=
  ∀ (p : PortId) (s : State),
    (∀ shares, runningJobs s = [] → jobStopped s = true → exec (.slackReport shares) s = .next { s with pwr := { s.pwr with
      budget := s.pwr.devCap, balanced := false, period := s.pwr.period + 1, jobsRun := [],
      jobs := s.pwr.jobs.map fun b => b.leave s.slot s.pwr.devCap } }) ∧
    (∀ shares, jobStopped s = false → exec (.slackReport shares) s = .next
      (let t := (runningJobs s).foldl (sendSlack shares) { s with pwr := { s.pwr with
         jobsRun := runningJobs s,
         jobs := s.pwr.jobs.map fun b => if (runningJobs s).contains b.job then b else b.leave s.slot s.pwr.devCap } }
       { t with pwr := { t.pwr with period := t.pwr.period + 1 } })) ∧
    (∀ rep, portUp s (p.val + 1) = true → bits rep.unit 31 23 = s.lnk.tray.toNat →
      exec (.slackReportReceived p rep) s = .next (recordSlack s (bits rep.unit 22 20) rep)) ∧
    (∀ job b, (s.pwr.jobs.find? fun b => decide (b.job = job)) = some b →
      exec (.balancePeriod job) s = .next ((balance b.live b.left).foldl (sendAssign job s.pwr.period)
        { s with pwr := { s.pwr with jobs := s.pwr.jobs.map fun x => if x.job = job then x.after (balance b.live b.left) else x } })) ∧
    (∀ asg, portUp s (p.val + 1) = true →
      exec (.slackAssign p asg) s = .next { s with pwr := { s.pwr with budget := asg.budget.toNat, balanced := true } }) ∧
    (s.pwr.balanced = true → exec .assignTimeout s = .next (reportContained
      { s with pwr := { s.pwr with budget := s.pwr.devCap, balanced := false } } (hearthUnit s 256) .timeout))

-- Clocks and time (R313 to R331)

/-- References (R318 to R322): a present reference that leaves its tolerance is no longer READY; one whose edges end is counted, and
when it is the active one of a locked root PLL outside holdover, or the target of a switch away from a lost one, the PLL leaves it
(R321, R330). Edges make a reference PRESENT; one that is
present and has qualified is READY, and ends holdover when it is the active one or failover is automatic. A switch asked for of a
READY device begins when it may; one that completes to a present reference makes it active. The end of holdover and the loss of the
timebase's lock enter SAFE, with the root PLL free (R322). -/
def Obligations.ReferencesSwitch : Prop :=
  ∀ (r : Ref) (s : State),
    ((s.refAt r).present = true →
      exec (.referenceLoss ⟨r, .tolerance⟩) s = .next (s.setRef r { s.refAt r with ready := false })) ∧
    (let t := s.setRef r ⟨false, false, satAdd 8 (s.refAt r).losses 1⟩
     let lost := s.clk.active = r ∨ s.clk.switchTo = some r ∧ (t.refAt s.clk.active).present = false
     ((s.refAt r).present = true → ¬lost ∨ s.clk.rootLocked = false ∨ s.clk.holdover = true →
       exec (.referenceLoss ⟨r, .edges⟩) s = .next t) ∧
     ((s.refAt r).present = true → lost → s.clk.rootLocked = true → s.clk.holdover = false →
       exec (.referenceLoss ⟨r, .edges⟩) s = .next (loseActive t r))) ∧
    exec (.referenceReady ⟨r, .edges⟩) s = .next (s.setRef r { s.refAt r with present := true }) ∧
    ((s.refAt r).present = true → s.clk.holdover = false →
      exec (.referenceReady ⟨r, .qualified⟩) s = .next (s.setRef r { s.refAt r with ready := true })) ∧
    ((s.refAt r).present = true → s.clk.holdover = true → (s.clk.active = r ∨ s.clk.autoFailover = true) →
      exec (.referenceReady ⟨r, .qualified⟩) s = .next
        (let t := s.setRef r { s.refAt r with ready := true }
         { t with clk := { t.clk with switchTo := some r, holdover := false } })) ∧
    (s.dev.ready = true → s.dev.state ≠ .safe → switchResult s r = .ok → s.clk.active ≠ r →
      exec (.referenceSwitchRequest r) s = .next (startSwitch { s with clk := { s.clk with switchResult := .ok } } r)) ∧
    (s.clk.switchTo = some r → (s.refAt r).present = true →
      exec .referenceSwitchComplete s = .next { s with clk := { s.clk with active := r, switchTo := none } }) ∧
    (s.clk.holdover = true → exec .holdoverExpiry s = .next (clockSafe s (refRecord s .deviceFatal))) ∧
    (s.clk.timebaseLocked = true → exec .timebaseLockLoss s = .next
      (let t := { s with clk := { s.clk with timebaseLocked := false }, time := { s.time with held := true } }
       clockSafe t { unit := hearthUnit t 265, status := 0, cls := .deviceFatal }))

/-- Clock steps (R316, R323, R324): a step that the limits allow becomes the tier's target, is withdrawn with a count, or is made
once the tier has drained, and with bypass asked for the tier is on bypass then; a step cap written to a READY device is stored and
obeyed. -/
def Obligations.ClockStepsChange : Prop :=
  ∀ (t : TierId) (s : State),
    let k := s.clkAt t.val
    (∀ step : Fin 5, k.target = none → k.stopped = false → limitOf s t.val ≤ step.val → step.val ≠ k.cur →
      exec (.freqStepRequest t step) s = .next (s.modClk t.val fun k => { k with target := some step.val })) ∧
    (∀ step, k.target = some step → k.stopped = false → tierDrained s t.val = true →
      (k.toBypass = false → exec (.freqStepStop t) s = .next (finishStep s t.val (max step (limitOf s t.val)))) ∧
      (k.toBypass = true → exec (.freqStepStop t) s =
        .next ((finishStep s t.val (max step (limitOf s t.val))).modPwr t.val fun v => { v with bypass := true }))) ∧
    (k.target.isSome = true → k.toBypass = false →
      exec (.freqStepWithdraw t) s = .next
        (let u := s.modClk t.val fun k => { k with target := none }
         { u with clk := { u.clk with deferred := satAdd 16 u.clk.deferred 1 } })) ∧
    ∀ w, s.dev.ready = true → s.dev.state ≠ .safe →
      exec (.clkStepCapWrite w) s = .next ((natsFrom 0 8).foldl requestNeeded { s with clk := { s.clk with stepCap := clampCap w } })

/-- Global time (R310, R326, R329): a pulse, at a counter value whose bits [19:0] are 0, synchronises the tiers that it reaches; a
missed pulse is counted, and the fourth in a row unsets the tier's synchronisation and writes a record; TIME_ADJ steps or slews a
READY device that follows no master, and a step of one that does is ignored and noted. -/
def Obligations.GlobalTimeIsKept : Prop :=
  ∀ (s : State),
    (∀ reached, s.clk.timebaseLocked = true → s.time.held = false → s.nowNat % 2 ^ 20 = 0 →
      exec (.fireflyPulse reached) s = .next { s with time := { s.time with
        tierSync := s.time.tierSync ||| reached, missRun := s.time.missRun.filter fun e => !bit reached e.1 } }) ∧
    (∀ t : TierId,
      let u := { s with time := { s.time with
        missed := satAdd 8 s.time.missed 1, missRun := mset s.time.missRun t.val (mget s.time.missRun t.val 0 + 1) 0 } }
      let w := { u with time := { u.time with tierSync := u.time.tierSync &&& ~~~(BitVec.ofNat 8 (2 ^ t.val)) } }
      (mget s.time.missRun t.val 0 ≠ 3 → exec (.fireflyMiss t) s = .next u) ∧
      (mget s.time.missRun t.val 0 = 3 → exec (.fireflyMiss t) s = .next (reportContained w (tierUnit w t.val) .ok))) ∧
    (∀ w, s.dev.ready = true → s.dev.state ≠ .safe → followsMaster s = false →
      exec (.timeAdjStep w) s = .next { s with time := { s.time with now := s.time.now + BitVec.ofNat 64 (bits w 31 0) } }) ∧
    (∀ w, s.dev.ready = true → followsMaster s = false →
      exec (.timeAdjSlew w) s = .next { s with time := { s.time with
        slew := BitVec.ofInt 18 (clampInt (-100000) 100000 (sext 18 (bits w 49 32))) } }) ∧
    ∀ w, s.dev.ready = true → s.dev.state ≠ .safe → followsMaster s = true →
      exec (.timeAdjStep w) s = .next { s with time := { s.time with adjIgnored := true } }

-- Power (R332 to R352)

/-- Droop (R341): a drop beyond a threshold in force stretches the tier's clock to at least its level and is counted, a relaxation
takes one level back, and a failure stops the layer. A compute region that is ON is switched off when no partition has a core in it and
no route passes it; one that a route passes ends the request with TRANSIT_BUSY (R157, R338). Regulators (R332 to R336): a failing phase of a VCT
group is weighed by the tier's limits; a phase of VDL or VDA that fails for the first time is listed with its record, and the
ninth of VDL or the third of VDA fails the DRAM's rail; a group that stays above the limit of its remaining phases although its damper
inserts 48 bubbles fails. -/
def Obligations.DroopsAndRegulators : Prop :=
  (∀ (t : TierId) (s : State),
    (∀ mv, droopLevel s mv ≠ 0 → exec (.droopTrip t mv) s = .next (s.modPwr t.val fun v => { v with
      stretch := max v.stretch (droopLevel s mv), droopTrips := v.droopTrips + 1 })) ∧
    exec (.droopRelax t) s = .next (s.modPwr t.val fun v => { v with stretch := v.stretch - 1 }) ∧
    exec (.droopFailure t) s = .next (stopLayer s t.val 0) ∧
    (∀ q : QuadId, (∀ e ∈ s.part, ∀ c ∈ e.2.cores, inQuad t.val q.val c = false) → (∀ r ∈ s.routes, inQuad t.val q.val r.core = false) →
      mget (s.pwrAt t.val).quads q.val QState.off = .on →
      exec (.powerRegionOff t q) s =
        .next (regionOffOut (s.modPwr t.val fun v => { v with quads := mdel v.quads q.val }) .ok)) ∧
    (∀ q : QuadId, (s.routes.any fun r => inQuad t.val q.val r.core) = true →
      exec (.powerRegionOff t q) s = .next (regionOffOut s .transitBusy))) ∧
  (∀ (t : TierId) (phase : Fin 48) (s : State),
    exec (.ivrPhaseFailure t .vct phase) s = .next (vctPhaseFails s t.val phase.val) ∧
    (phase.val < 24 → phase.val ∉ (s.pwrAt t.val).badVdl →
      let u := phaseRecord (s.modPwr t.val fun v => { v with badVdl := (s.pwrAt t.val).badVdl ++ [phase.val] }) t.val phase.val
      ((s.pwrAt t.val).badVdl.length ≠ 8 → exec (.ivrPhaseFailure t .vdl phase) s = .next u) ∧
      ((s.pwrAt t.val).badVdl.length = 8 → exec (.ivrPhaseFailure t .vdl phase) s = .next (dramRailFails u t.val))) ∧
    (phase.val < 8 → phase.val ∉ (s.pwrAt t.val).badVda →
      let u := phaseRecord (s.modPwr t.val fun v => { v with badVda := (s.pwrAt t.val).badVda ++ [phase.val] }) t.val phase.val
      ((s.pwrAt t.val).badVda.length ≠ 2 → exec (.ivrPhaseFailure t .vda phase) s = .next u) ∧
      ((s.pwrAt t.val).badVda.length = 2 → exec (.ivrPhaseFailure t .vda phase) s = .next (dramRailFails u t.val))) ∧
    ((s.pwrAt t.val).failed = false → 48 ≤ tierBubbles s t.val → (s.pwrAt t.val).phaseLim < (s.pwrAt t.val).amps →
      exec (.tierOvercurrentTimeout t) s = .next (failGroup s t.val)))

/-- Admissions (R339, R340): a stage of the first compute admission is decided by the headroom that the tier's limit leaves; one
that still waits at its time limit is tried once more with bubbles, and at the second denied and counted: a compute region is off
then, and an NBU's mode request refused. -/
def Obligations.AdmissionsStep : Prop :=
  ∀ (t : TierId) (s : State),
    (∀ amps a, admitOf s t.val .compute = some a →
      exec (.admissionStage t amps) s = .next (stageStep s t.val a (s.ilim t.val - amps))) ∧
    (∀ k a, admitOf s t.val k = some a → stillWaits s t.val a = true → a.phase = 0 →
      exec (.admissionWaitTimeout t k) s = .next (setAdmit s t.val a { a with phase := 1, bubbles := 4 })) ∧
    ∀ k a, admitOf s t.val k = some a → stillWaits s t.val a = true → a.phase ≠ 0 →
      let d := dropAdmit s t.val a
      let u := { d with pwr := { d.pwr with denied := d.pwr.denied + 1 } }
      (k = .compute → exec (.admissionWaitTimeout t k) s =
        .next (u.modPwr t.val fun v => { v with quads := mdel v.quads a.target })) ∧
      (k = .nbu → exec (.admissionWaitTimeout t k) s = .next (refuseNbu u a.target))

/-- Supply events (R334, R337, R425, R432, R436): a low input is noted; an undervoltage enters SAFE, and so does V_SD out of its
range, which takes the PCIe function down too; a bypass rail out of range fails the groups that draw from it; PWR_OK that falls
powers the device off, and V_HE or V_AUX out of range does so with FAULT# asserted, and THERMTRIP# held (R360), until PWR_OK falls (that
the sampled straps stay is log entry 62). -/
def Obligations.SupplyEvents : Prop :=
  ∀ s : State,
    exec .vinLow s = .next { s with pwr := { s.pwr with vinLow := true } } ∧
    exec .vinUndervoltage s = .next (enterSafe s { unit := hearthUnit s 256, status := 0, cls := .deviceFatal }) ∧
    exec .pwrOkFall s = .next { powerOff s with pins := { (powerOff s).pins with pwrOk := false } } ∧
    exec .vbypOutOfRange s = .next (((natsFrom 0 8).filter fun t => (s.pwrAt t).bypass || (s.clkAt t).toBypass).foldl failGroup
      { s with pwr := { s.pwr with vbypOk := false } }) ∧
    exec .vsdOutOfRange s = .next
      (let t := enterSafe s { unit := hearthUnit s 256, status := 0, cls := .deviceFatal }
       { t with hst := t.hst.unconfigured }) ∧
    (s.pins.pwrOk = true → exec .vheVauxOutOfRange s =
      .next { powerOff s with strap := s.strap, pins := { (powerOff s).pins with fault := true, offHold := true },
                              thm := { (powerOff s).thm with thermtrip := s.thm.thermtrip } })

-- Cooling, temperature and ageing (R353 to R366)

/-- A coolant report with a new sequence number is stored, checked for its range and weighed against the device's power (R353 to
R355); the absence of reports is noted with one record (R353). A set of sensor readings replaces the last (R356), and powered hours
are counted while firmware runs (R365). A run of the thermal model (R357 to R361, R363) estimates every layer from the power of the
zones, weighs its sensors, asks for rotations,
moves the tiers' limits and the hearth's cut, and enters SAFE when a layer has stood above its limit long enough. The
correctable-error rate of a tier whose DRAM layer is not suspect joins its history; that of a suspect layer stands for its
temperature (R362). THERMTRIP of a device with power stops every tier and opens its rails, and where no firmware runs and no partition
stands it writes no record (R360). An ageing measurement refits the tier, keeps the hours at which it was made, and the clock follows
the limit that it leaves (R365, R366). -/
def Obligations.CoolingAndTemperature : Prop :=
  (∀ s : State,
    (∀ v auxW, s.dev.state ≠ .off → bit v 56 = true → s.thm.lastSeq ≠ some (BitVec.ofNat 8 (bits v 55 48)) →
      let t := { s with thm := { s.thm with
        lastSeq := some (BitVec.ofNat 8 (bits v 55 48)), report := BitVec.ofNat 48 (bits v 47 0),
        reportSeq := BitVec.ofNat 8 (bits v 55 48), coolantValid := true, coolantLost := false, acceptedAt := some s.time.now } }
      exec (.coolantReport v auxW) s = .next (heatBalance (coolantRangeCheck t v) v (s.pwr.p10ms + auxW))) ∧
    (s.thm.coolantLost = false → s.dev.state ≠ .off → exec .coolantReportTimeout s = .next
      (let t := { s with thm := { s.thm with coolantValid := false, coolantLost := true, mismatchRun := 0 } }
       reportContained t (trayUnit t) .timeout)) ∧
    (∀ dc, sensorOk dc = true → exec (.sensorSample dc) s = .next ((natsFrom 0 8).foldl shortenInterval
      ((natsFrom 0 17).foldl (fun st l => st.modLayer l fun v => { v with sensor := layerReadings s.thm.badSensors dc l }) s))) ∧
    (firmwareRuns s = true → exec .poweredHoursUpdate s = .next
      { keepStored s with thm := { s.thm with poweredHours := s.thm.poweredHours + 1 } })) ∧
  ((∀ s : State,
    let ls := natsFrom 0 17
    let temps := ls.flatMap fun l => (natsFrom 0 16).map fun z => (s.layerAt l).temp z
    let a := ls.foldl (fun st l => st.modLayer l fun v => modelLayer s.thm.modelRuns (zonePowers s) (modelCoolant s) temps l v)
      { s with thm := { s.thm with modelRuns := s.thm.modelRuns + 1 } }
    let b := ls.foldl suspectLayer (ls.foldl (fun st l => st.modLayer l fun v => v.streaks (throttleOf st l)) a)
    let t := (natsFrom 0 8).foldl thermalTier ((natsFrom 1 16).foldl rotationRequests b)
    let u := { t with thm := { t.thm with hearthCut := hearthCutAfter t } }
    (ls.any (overLimit u) = false → exec .thermalModelRun s = .next u) ∧
    (ls.any (overLimit u) = true → exec .thermalModelRun s = .next (thermalSafe u))) ∧
  (∀ (t : TierId) (s : State),
    let rate := (mget s.memc.ce t.val 0 - mget s.thm.ceLast t.val 0).toNat
    let hist := mget s.thm.ceHist t.val []
    let n := max 1 hist.length
    let base := max n (hist.foldl (· + ·) 0)
    let u := { s with thm := { s.thm with ceLast := mset s.thm.ceLast t.val (mget s.memc.ce t.val 0) 0 } }
    let stands := fun (x : Option Int) => u.modLayer (2 * t.val + 1) fun v => { v with proxy := x }
    ((s.layerAt (2 * t.val + 1)).suspect = false → exec (.ceRateWindow t) s = .next { s with thm := { s.thm with
      ceLast := mset s.thm.ceLast t.val (mget s.memc.ce t.val 0) 0,
      ceHist := mput s.thm.ceHist t.val ((rate :: hist).take ceWindows) } }) ∧
    ((s.layerAt (2 * t.val + 1)).suspect = true →
      (rate * n < 4 * base → exec (.ceRateWindow t) s = .next (stands none)) ∧
      (4 * base ≤ rate * n → rate * n < 32 * base →
        exec (.ceRateWindow t) s = .next (stands (some (10 * u.thm.dramThrottle + 10)))) ∧
      (32 * base ≤ rate * n → exec (.ceRateWindow t) s = .next (thermalSafe (stands (some 1050)))))) ∧
  (∀ s : State, s.dev.state ≠ .off → s.thm.thermtrip = false →
    ∃ t, exec .thermtrip s = .next t ∧ t.thm.thermtrip = true ∧ (∀ k : TierId, (t.clkAt k.val).stopped = true) ∧
      t.memc.lost = natsFrom 0 8 ∧ t.boot.tiersUp = [] ∧ (firmwareRuns s = false → s.part = [] → t.ras = s.ras)) ∧
  ∀ (t : TierId) (guard : List Int) (ratios : List Nat) (s : State), ageingOk guard ratios = true →
    ∃ u, exec (.ageingMeasurement t guard ratios) s = .next (checkDegraded (requestNeeded u t.val)) ∧
      u.mem = s.mem ∧ u.part = s.part ∧ (u.ageAt t.val).hours = BitVec.ofNat 16 s.thm.poweredHours)

-- Checking and recovery (R367 to R398)

/-- A merge window that ends writes one record for its further events, or none (R378); log and signature settings that lie in their
range are stored while the log or the map is off (R379 to R381). Weevil (R382 to R387), in a READY device: a slice runs on the core
that it visits when that core is not quarantined and in no partition; a matching signature goes on to the next slice, and after the
last one to the next visit; a wrong one quarantines the core; a visit that has lasted 60 s ends and is counted as skipped; clearing
ENABLE stores it. -/
def Obligations.RecordsAndWeevil : Prop :=
  ((∀ (u : W32) (st : Byte) (d : BitVec 16) (s : State) (w : MergeWin),
    (s.ras.windows.find? fun w => decide (w.unit = u ∧ w.status = st ∧ w.detail = d)) = some w →
    let t := { s with ras := { s.ras with windows := s.ras.windows.erase w } }
    (w.count = 0 → exec (.correctedMergeExpiry u st d) s = .next t) ∧
    (w.count ≠ 0 → exec (.correctedMergeExpiry u st d) s = .next (emitRecord t w.last w.count false))) ∧
  (∀ (w : W64) (s : State), rasOpen s = true → s.ras.logEnable = false → 6 ≤ bits w 4 0 → bits w 4 0 ≤ 16 →
    exec (.logEnable w) s = .next (flushLog 4097 { s with ras := { s.ras with
      logLog2 := bits w 4 0, eventClass := bits w 9 8, logEnable := bit w 16 } })) ∧
  ∀ (w : W64) (s : State), rasOpen s = true → s.ras.sigEnable = false → 4 ≤ bits w 3 0 → bits w 3 0 ≤ 12 →
    exec (.signatureEnable w) s = .next { s with ras := { s.ras with sigLog2 := bits w 3 0, sigEnable := bit w 16 } }) ∧
  (∀ s : State,
    let right := Config.weevilSignature s.weevil.slice s.fuse.grade.arrays
    (s.weevil.enable = true → s.weevil.running = false → s.dev.state = .ready → s.isQuar s.weevil.core = false →
      s.ownerOf s.weevil.core = none → exec .weevilSlice s = .next (startSlice s none)) ∧
    (s.weevil.running = true → s.weevil.slice + 1 < sliceCount s.fuse.grade →
      exec (.weevilSliceComplete right) s =
        .next { s with weevil := { s.weevil with running := false, slice := s.weevil.slice + 1 } }) ∧
    (s.weevil.running = true → sliceCount s.fuse.grade ≤ s.weevil.slice + 1 →
      exec (.weevilSliceComplete right) s = .next (nextVisit s)) ∧
    (∀ w, s.weevil.running = true → w ≠ right →
      exec (.weevilSliceComplete w) s = .next (nextVisit (quarantineCore s s.weevil.core false (sliceReport s w)))) ∧
    (s.dev.state = .ready → s.weevil.visitStart.toNat + 60 * oneS ≤ s.nowNat →
      exec .weevilVisitTimeout s = .next (nextVisit { s with weevil := { s.weevil with skippedLap := s.weevil.skippedLap + 1 } })) ∧
    (rasOpen s = true → exec .weevilDisable s = .next { s with weevil := { s.weevil with enable := false } }))

/-- Two events of one key within a window make one record and one count (R378): the second CORRECTED event of a unit, status and
detail whose window is open writes nothing. -/
def Obligations.CorrectedEventsMerge : Prop :=
  ∀ (s : State) (r : Report), r.cls = .corrected → (∃ w ∈ s.ras.windows, w.hasKey r.unit r.status r.code = true) →
    (report s r).ras.buf = s.ras.buf ∧ (report s r).ras.nextSeq = s.ras.nextSeq ∧ (report s r).hostMem = s.hostMem ∧
    (report s r).ras.windows.length = s.ras.windows.length

/-- Router parity and recovery (R159, R388, R392 to R396): a failure of a router, with the port and stream that it names, is a router
fault, and a second within 24 h of the last quarantines its core. The recovery of a partition whose ports are up and whose barriers
have no snapshot to decide restores the last snapshot taken, or loads the plan again; the episode of a partition whose plan declares
no SNAP barrier ends after 1 s of RUNNING; a snapshot that is not decided in time fails the partition with a record. -/
def Obligations.RecoveryRuns : Prop :=
  (∀ (c : CoreId) (port : Fin 6) (st : Fin 16) (s : State), s.isRouterQuar c.val = false →
    let t := { s with ras := { s.ras with parityAt := mput s.ras.parityAt c.val s.time.now } }
    let r := parityReport t c.val port.val st.val
    (mget? s.ras.parityAt c.val = none → exec (.routerParityFailure ⟨c, port, st⟩) s = .next (routerFault t c.val r)) ∧
    ∀ at_, mget? s.ras.parityAt c.val = some at_ →
      (at_.toNat + dayNs < s.nowNat → exec (.routerParityFailure ⟨c, port, st⟩) s = .next (routerFault t c.val r)) ∧
      (s.nowNat ≤ at_.toNat + dayNs → exec (.routerParityFailure ⟨c, port, st⟩) s = .next (routerQuarantine t c.val r))) ∧
  (∀ (p : PartId) (hw : RestoreHw) (s : State) (v : Partition), s.part? p.val = some v → v.state = .recovering → v.restored = false →
    (s.bars.any fun b => decide (b.part = p.val) && b.undecided s.snaps) = false → downPort (recoveryReset s p.val) v = none →
    (∀ x, lastTaken (recoveryReset s p.val) p.val v = some x →
      exec (.recoveryRestoreComplete p hw) s = .next (restoreFrom (recoveryReset s p.val) p.val v x hw)) ∧
    ∀ pl, lastTaken (recoveryReset s p.val) p.val v = none → v.plan = some pl →
      exec (.recoveryRestoreComplete p hw) s = .next (reloadPlan (recoveryReset s p.val) p.val v pl)) ∧
  (∀ (p : PartId) (s : State) (v : Partition) (pl : Plan), s.part? p.val = some v → v.state = .running →
    v.plan = some pl → pl.hasSnap = false → v.runSince.toNat + oneS ≤ s.nowNat →
    exec (.recoveryEpisodeEnd p) s = .next (s.setPart p.val { v with faults := 0 })) ∧
  ∀ (p : PartId) (s : State) (v : Partition) (b : Barrier), s.part? p.val = some v → v.state = .recovering →
    (s.bars.find? fun b => decide (b.part = p.val) && b.undecided s.snaps) = some b →
    exec (.snapReleaseTimeout p) s = .next
      (let t := failPartition { dropBar s p.val b.barId with
         snaps := s.snaps.filter fun x => decide (¬(x.part = p.val ∧ x.state = 2)) } p.val
       report t { unit := hearthUnit t 256, status := Status.timeout.code, cls := .partitionFatal, part := some p.val, code := 0x11 })

/-- The third partition fault of one recovery episode ends it (R394): the partition enters FAILED with the detail EPISODE_LIMIT;
the first moves it to RECOVERING and increments EPOCH. -/
def Obligations.EpisodesHaveALimit : Prop :=
  ∀ (s : State) (p : Nat) (r : Report) (v : Partition), s.part? p = some v → v.state = .running →
    (2 ≤ v.faults → partFault s p r = report (failPartition (s.setPart p { v with faults := 3 }) p)
      { r with cls := .partitionFatal, part := some p, code := 0x0E }) ∧
    (v.faults < 2 → ∃ u : Partition, (partFault s p r).part? p = some { u with state := .recovering, restored := false } ∧
      u.epoch = v.epoch + 1 ∧ u.faults = v.faults + 1)

-- Start-up (R399 to R418)

/-- PWR_OK, the root PLL and its reference (R314, R315, R401, R409, R432): straps are sampled as PWR_OK rises, and a reserved boot
source holds the device; the strapped reference is released; a lock leads to BOOT; a lock time-out exchanges the reference for the
other once, and then holds the device. The stages up to the tiers (R402 to R410): a flash that is not found holds the device; the
bundle is looked for, the privileged images verify, and where the start does not come by stage 5 again the third one then; the first analogue self-tests pass, or
hold it for the PLL or the regulator that failed; the next tier is powered, with its failed phases listed, when no more of them have
failed than it can do without. -/
def Obligations.StartUpBeginsAndVerifies : Prop :=
  (∀ s : State,
    (s.pins.pwrOk = false →
      let t := setDevState { powerOff s with
        strap := s.land, pins := { (powerOff s).pins with pwrOk := true, fault := false } } .resetHold
      (s.land.bootSrc ≠ 3#2 → exec .pwrOkRise s = .next t) ∧
      (s.land.bootSrc = 3#2 → exec .pwrOkRise s = .next (holdReset t 2 (hearthUnit t 256) 0))) ∧
    (s.dev.state = .resetHold → s.boot.fault = false → s.clk.rootReleased = false → exec .rootPllRelease s = .next { s with
      clk := { s.clk with rootReleased := true, active := if s.strap.refSel then .b else .a },
      pwr := { s.pwr with vbypOk := !s.pwr.vbypLost } }) ∧
    (s.clk.rootReleased = true → s.clk.rootLocked = false → atStage s 0 = true → s.dev.state = .resetHold ∨ s.dev.state = .boot →
      exec .rootPllLock s = .next (startKindling (setDevState (pllsLocked s) .boot))) ∧
    (s.clk.rootReleased = true → s.clk.rootLocked = false → atStage s 0 = true → s.clk.triedOther = false →
      exec .rootPllLockTimeout s = .next { s with clk := { s.clk with triedOther := true, active := otherRef s.clk.active } }) ∧
    (s.clk.rootReleased = true → s.clk.rootLocked = false → atStage s 0 = true → s.clk.triedOther = true →
      exec .rootPllLockTimeout s = .next (holdReset s 1 (hearthUnit s 264) 0))) ∧
  (∀ s : State,
    (atStage s 1 = true → s.dev.state = .boot → exec .flashDiscoveryTimeout s = .next (holdReset s 3 (hearthUnit s 297) 0)) ∧
    (atStage s 1 = true → s.dev.state = .boot → s.boot.waiting = false → exec .privilegedImageVerify s = .next (kindle s)) ∧
    (atStage s 2 = true → imageHolds s 1 = true → imageHolds s 2 = true → (afterImages s ≤ 5 ∨ imageHolds s 3 = true) →
      exec .privilegedImageVerify s = .next (toStage (securityRuns s) (afterImages s))) ∧
    (atStage s 5 = true → imageHolds s 3 = true → exec .privilegedImageVerify s = .next (toStage s 6)) ∧
    (atStage s 3 = true → exec (.analogueSelftest .firstPass) s = .next (toStage s 4)) ∧
    (∀ timebase, atStage s 3 = true →
      exec (.analogueSelftest (.pllJitter timebase)) s = .next (holdReset s 6 (hearthUnit s (264 + b2n timebase)) 0)) ∧
    (∀ t : TierId, atStage s 3 = true → exec (.analogueSelftest (.ivrReference t)) s = .next (holdReset s 7 (ivrUnit s t.val) 0)) ∧
    (∀ lanes dc, atStage s 6 = true → sensorOk dc = true →
      exec (.analogueSelftest (.secondPass lanes dc)) s = .next (crossCheck dc (excludeLanes lanes s))) ∧
    (∀ (t : TierId) (badVct badVdl badVda : Nat), atStage s 4 = true → s.thm.thermtrip = false → nextTier s = some t.val →
      (phasesOf badVct 48).length ≤ 8 → (phasesOf badVdl 24).length ≤ 8 → (phasesOf badVda 8).length ≤ 2 →
      let u := railsUp s t.val (phasesOf badVct 48) (phasesOf badVdl 24) (phasesOf badVda 8)
      exec (.tierPowerUp t badVct badVdl badVda) s = .next (if (nextTier u).isNone then toStage u 5 else u)))

/-- The stages from the built-in tests to READY (R186 to R188, R405, R411 to R414): a logic site that mismatches and is in use, and
a checker that fails, hold the device; without one the start goes on, at a cold start with the fill of the memory behind the
checkers; repairs are applied and the ports trained; the microcode is delivered and its units hold it, and a unit in use that fails
twice, or an image without its CRC-32C, holds the device; the device becomes READY or DEGRADED. -/
def Obligations.StartUpEnds : Prop :=
  ∀ s : State,
    (∀ ms, atStage s 7 = true → ms.find? (siteUsed s) = none → exec (.logicBist ms) s = .next (toStage s 8)) ∧
    (∀ ms u, atStage s 7 = true → ms.find? (siteUsed s) = some u → exec (.logicBist ms) s = .next (holdReset s 10 u 4)) ∧
    (atStage s 8 = true → s.memc.selftestPass = false →
      let t := { s with memc := { s.memc with selftestDone := true, selftestPass := true } }
      (s.boot.cold = true → exec (.checkerSelftest none) s = .next t) ∧
      (s.boot.cold = false → exec (.checkerSelftest none) s = .next (toStage t 9)) ∧
      ∀ f, exec (.checkerSelftest (some f)) s = .next (holdReset { s with memc := { s.memc with
        selftestDone := true, selftestPass := false, failUnit := f.unit, failKind := f.kind.val, failValid := true } } 11 f.unit 4)) ∧
    (atStage s 8 = true → s.memc.selftestPass = true → s.boot.cold = true →
      exec .memoryFill s = .next (toStage (fillMemory s) 9)) ∧
    (atStage s 9 = true →
      exec .fuseRepair s = .next (trainPorts (toStage (applyAgeing (holdQuarantined (repairChimneys (repairSites s)))) 10))) ∧
    (atStage s 10 = true → s.boot.ucode = false → imageHolds s 4 = true → imageHolds s 5 = true →
      (crcFails s 4 104 = none → crcFails s 5 80 = none →
        exec (.microcodeDelivery none) s = .next (storeUcode s) ∧
        ∀ u, siteUsed s u = true → exec (.microcodeDelivery (some u)) s = .next (holdReset s 12 u 0)) ∧
      ∀ u w, crcFails s 4 104 = some u → exec (.microcodeDelivery w) s = .next (holdReset s 12 u 0)) ∧
    (atStage s 10 = true → exec .trainingWaitEnd s = .next { s with boot := { s.boot with trainEnd := true } }) ∧
    (atStage s 10 = true → s.boot.ucode = true → s.boot.trainEnd = true → ∃ t,
      exec .deviceReady s = .next (readyRecords (releaseHeldWrites (setDevState t (if degradeCause t then .degraded else .ready)))) ∧
      t.dev.ready = true ∧ t.boot.stage = 11)

/-- Trust (R403, R404, R416, R421, R423): a READY device advances its security version as the manifest asks and revokes the
slots that it names but for the one that signed; the mailbox, while it waits, takes a chunk of 1 to 32,768 bytes that a write of
its control register pushes, and its time-out holds the device; a debug challenge is a fresh nonce (a free value, log entry 9) with
the device key hash, and after the third wrong response debug is locked. -/
def Obligations.TrustIsKept : Prop :=
  ∀ s : State,
    (∀ m, s.boot.manifest = some m → s.dev.ready = true → s.boot.stage = 11 →
      exec .svnAdvance s = .next { s with fuse := { s.fuse with
        svn := if m.advance then max s.fuse.svn m.svn else s.fuse.svn,
        revoked := s.fuse.revoked ||| (m.revoke &&& ~~~BitVec.ofNat 4 (2 ^ m.keySlot)) } }) ∧
    (∀ w, s.boot.waiting = true → 1 ≤ bits w 15 0 → bits w 15 0 ≤ 32768 → bit w 16 = true →
      let t := { s with boot := { s.boot with
        mboxLen := BitVec.ofNat 16 (bits w 15 0), mboxSeq := BitVec.ofNat 16 (bits w 47 32), ack := false } }
      exec (.mailboxPush w) s = .next (takeChunk t (bit w 17)) ∧ exec (.mailboxLast w) s = .next (takeChunk t (bit w 17))) ∧
    (s.boot.waiting = true → exec .mailboxTimeout s = .next (holdReset s 5 (hearthUnit s 256) 0)) ∧
    (s.dev.state ≠ .off → ∃ c, c.length = 32 + s.keyHash.length ∧ c.drop 32 = s.keyHash ∧
      exec .dbgChallenge s = .next { s with
        free := s.free + 1, sec := { s.sec with challenge := c }, tap := { s.tap with ir := 0x20, tdo := c, drive := .device } }) ∧
    (∀ bs, dbgResponseOk bs = true → s.dev.state ≠ .off → s.sec.dbgLocked = false →
      responseOk s bs = false → s.sec.dbgFails = 2 →
      exec (.dbgResponse bs) s = .next { s with
        tap := { s.tap with ir := 0x21, drive := .device }, sec := { s.sec with dbgFails := 3, dbgLocked := true } })

/-- Resets (R9, R375, R395, R398, R415, R450): a warm reset that has been asked for begins when the device can leave its state; an
undefined status writes its record and asks for one, or begins it at once; a watchdog of a READY device stops its firmware, writes its
record and asks for one. PERST# of a READY device asks for one and takes the PCIe function down, and so does the loss of the PCIe clock; the link
comes back by training. A flash write that is tried again and succeeds is no longer due; one that fails stays due, with a record (R427;
log entry 57). -/
def Obligations.ResetsAreTaken : Prop :=
  ∀ s : State,
    (∀ cause, resetPossible s = true → s.dev.resetWanted = some cause → exec (.warmReset cause) s = .next (beginWarmReset s cause)) ∧
    (s.dev.resetWanted ≠ some .badStatus → s.dev.state ≠ .off → s.dev.state ≠ .resetHold →
      exec (.warmReset .badStatus) s = .next
        (let t := badStatusRecord s
         if resetPossible t then beginWarmReset t .badStatus else wantReset t .badStatus)) ∧
    (s.dev.ready = true → exec .firmwareWatchdog s = .next (wantReset (report { s with dev := { s.dev with fwDead := true } }
      { unit := hearthUnit s 256, status := 0, cls := .deviceFatal, code := 0x10 } true) .watchdog)) ∧
    (s.pins.pwrOk = true → s.dev.state = .ready → s.dev.resetWanted = none → exec .perstAssert s = .next { s with
      pins := { s.pins with perst := true }, dev := { s.dev with resetWanted := some .perst }, hst := s.hst.unconfigured }) ∧
    exec .perstDeassertion s = .next { s with pins := { s.pins with perst := false } } ∧
    (∀ (rate : Fin 8) (width : Fin 5), s.pins.perst = false → s.dev.state ≠ .off → width.val ≠ 0 →
      exec (.pcieLinkTrained rate width) s = .next { s with hst := { s.hst with
        linkUp := true, linkRate := rateCode rate.val, linkWidth := widthCode width.val } }) ∧
    exec .peRefclkLoss s = .next { s with hst := s.hst.unconfigured } ∧
    exec (.flashWriteRetry true) s = .next { s with ras := { s.ras with flashPending := false } } ∧
    exec (.flashWriteRetry false) s = .next (reportContained { s with ras := { s.ras with flashPending := true } }
      (hearthUnit s 297) .timeout)

/-- The test access port answers while the device has power (R438, R439): IDCODE, SAMPLE/PRELOAD and BYPASS load their data
registers and leave the lands to the device. In RESET_HOLD, EXTEST drives the lands with the preloaded values and shifts out their levels
(free values, log entry 91), CLAMP drives them and selects the bypass bit, and HIGHZ releases them; elsewhere the three act as
BYPASS. -/
def Obligations.TapAnswers : Prop :=
  ∀ s : State, s.dev.state ≠ .off →
    exec .idcode s = .next { s with tap := { s.tap with ir := 0x01, tdo := leBytes idcodeValue 4, drive := .device } } ∧
    (∀ lands preload, exec (.samplePreload lands preload) s = .next { s with
      tap := { ir := 0x02, tdo := leBytes lands.toNat 4, boundary := lands, preload := preload, drive := .device } }) ∧
    exec .bypass s = .next { s with tap := { s.tap with ir := 0xFF, tdo := [0#8], drive := .device } } ∧
    (s.dev.state = .resetHold →
      (∃ levels : BitVec 27, exec .extest s = .next { s with free := s.free + 1, tap := { s.tap with
        ir := 0x03, tdo := leBytes levels.toNat 4, boundary := levels, drive := .preload s.tap.preload } }) ∧
      exec .clamp s = .next { s with tap := { s.tap with ir := 0x04, tdo := [0#8], drive := .preload s.tap.preload } } ∧
      exec .highz s = .next { s with tap := { s.tap with ir := 0x05, tdo := [0#8], drive := .released } }) ∧
    (s.dev.state ≠ .resetHold →
      exec .extest s = exec .bypass s ∧ exec .clamp s = exec .bypass s ∧ exec .highz s = exec .bypass s)
end

