-- ==== Sys2Proof/Laws/Tables.lean ====
section
/-! SUPPORT. What reading, writing and removing an entry of a sparse table do, and that they keep its canonical form. -/

set_option Elab.async false

namespace Sys2Proof.Machine

variable {α : Type}

theorem mget?_mput_same (m : SMap α) (k : Nat) (v : α) : mget? (mput m k v) k = some v := by
  induction m with
  | nil => simp [mput, mget?]
  | cons e t ih =>
    obtain ⟨a, w⟩ := e
    simp only [mput]
    split
    · simp [mget?]
    · split
      · simp [mget?]
      · rw [mget?, if_neg (by omega), ih]

theorem mget?_mput_ne (m : SMap α) (k j : Nat) (v : α) (h : j ≠ k) : mget? (mput m k v) j = mget? m j := by
  induction m with
  | nil => simp [mput, mget?, h.symm]
  | cons e t ih =>
    obtain ⟨a, w⟩ := e
    simp only [mput]
    split
    · simp [mget?, h.symm]
    · split
      · rename_i ha; subst ha; simp [mget?, h.symm]
      · simp only [mget?]; split <;> simp_all

theorem mget?_mdel_same (m : SMap α) (k : Nat) : mget? (mdel m k) k = none := by
  induction m with
  | nil => rfl
  | cons e t ih =>
    obtain ⟨a, w⟩ := e
    simp only [mdel]
    split
    · exact ih
    · rename_i ha; simp [mget?, ha, ih]

theorem mget?_mdel_ne (m : SMap α) (k j : Nat) (h : j ≠ k) : mget? (mdel m k) j = mget? m j := by
  induction m with
  | nil => rfl
  | cons e t ih =>
    obtain ⟨a, w⟩ := e
    simp only [mdel]
    split
    · rename_i ha; subst ha; simp [mget?, h.symm, ih]
    · simp only [mget?]; split <;> simp_all

@[simp] theorem mget_mput_same (m : SMap α) (k : Nat) (v d : α) : mget (mput m k v) k d = v := by
  simp [mget, mget?_mput_same]

theorem mget_mput_ne (m : SMap α) (k j : Nat) (v d : α) (h : j ≠ k) : mget (mput m k v) j d = mget m j d := by
  simp [mget, mget?_mput_ne m k j v h]

/-- An entry reads as it was written. -/
@[simp] theorem mget_mset_same [DecidableEq α] (m : SMap α) (k : Nat) (v d : α) : mget (mset m k v d) k d = v := by
  unfold mset mget
  split
  · rename_i h; simp [mget?_mdel_same, h]
  · simp [mget?_mput_same]

/-- A write leaves every other entry as it was. -/
theorem mget_mset_ne [DecidableEq α] (m : SMap α) (k j : Nat) (v d : α) (h : j ≠ k) :
    mget (mset m k v d) j d = mget m j d := by
  unfold mset mget
  split
  · simp [mget?_mdel_ne m k j h]
  · simp [mget?_mput_ne m k j v h]

theorem risingFrom_weaken (m : SMap α) {lo hi : Nat} (h : lo ≤ hi) (hm : risingFrom hi m = true) : risingFrom lo m = true := by
  cases m with
  | nil => rfl
  | cons e t =>
    obtain ⟨a, w⟩ := e
    simp only [risingFrom, Bool.and_eq_true, decide_eq_true_eq] at hm ⊢
    exact ⟨by omega, hm.2⟩

theorem risingFrom_mput (m : SMap α) (lo k : Nat) (v : α) (hk : lo ≤ k) (hm : risingFrom lo m = true) :
    risingFrom lo (mput m k v) = true := by
  induction m generalizing lo with
  | nil => simp [mput, risingFrom, hk]
  | cons e t ih =>
    obtain ⟨a, w⟩ := e
    simp only [risingFrom, Bool.and_eq_true, decide_eq_true_eq] at hm
    simp only [mput]
    split
    · simp only [risingFrom, Bool.and_eq_true, decide_eq_true_eq]; exact ⟨hk, by omega, hm.2⟩
    · split
      · rename_i ha; subst ha; simp only [risingFrom, Bool.and_eq_true, decide_eq_true_eq]; exact ⟨hk, hm.2⟩
      · simp only [risingFrom, Bool.and_eq_true, decide_eq_true_eq]; exact ⟨hm.1, ih (a + 1) (by omega) hm.2⟩

theorem risingFrom_filter (m : SMap α) (lo : Nat) (p : Nat × α → Bool) (hm : risingFrom lo m = true) :
    risingFrom lo (m.filter p) = true := by
  induction m generalizing lo with
  | nil => rfl
  | cons e t ih =>
    obtain ⟨a, w⟩ := e
    simp only [risingFrom, Bool.and_eq_true, decide_eq_true_eq] at hm
    rw [List.filter_cons]
    split
    · simp only [risingFrom, Bool.and_eq_true, decide_eq_true_eq]; exact ⟨hm.1, ih (a + 1) hm.2⟩
    · exact risingFrom_weaken _ (by omega) (ih (a + 1) hm.2)

theorem mdel_eq_filter (m : SMap α) (k : Nat) : mdel m k = m.filter fun e => decide (e.1 ≠ k) := by
  induction m with
  | nil => rfl
  | cons e t ih =>
    obtain ⟨a, w⟩ := e
    simp only [mdel]
    split
    · rename_i ha; simp [ha, ih]
    · rename_i ha; simp [ha, ih]

theorem mem_mput (m : SMap α) (k : Nat) (v : α) (x : Nat × α) (h : x ∈ mput m k v) : x = (k, v) ∨ x ∈ m := by
  induction m with
  | nil => simpa [mput] using h
  | cons e t ih =>
    obtain ⟨a, w⟩ := e
    simp only [mput] at h
    split at h
    · simpa using h
    · split at h
      · rcases List.mem_cons.mp h with h | h
        · exact .inl h
        · exact .inr (List.mem_cons_of_mem _ h)
      · rcases List.mem_cons.mp h with h | h
        · exact .inr (h ▸ List.mem_cons_self)
        · rcases ih h with h | h
          · exact .inl h
          · exact .inr (List.mem_cons_of_mem _ h)

/-- Writing an entry keeps a table's canonical form. -/
theorem SMap.wf_mset [DecidableEq α] (m : SMap α) (k : Nat) (v d : α) (h : SMap.wf m d = true) : SMap.wf (mset m k v d) d = true := by
  simp only [SMap.wf, Bool.and_eq_true, List.all_eq_true] at h ⊢
  unfold mset
  split
  · rw [mdel_eq_filter]
    exact ⟨risingFrom_filter _ _ _ h.1, fun x hx => h.2 x (List.mem_filter.mp hx).1⟩
  · rename_i hv
    refine ⟨risingFrom_mput _ _ _ _ (Nat.zero_le _) h.1, fun x hx => ?_⟩
    rcases mem_mput m k v x hx with h' | h'
    · simpa [h'] using hv
    · exact h.2 x h'

/-- Removing entries keeps a table's canonical form. -/
theorem SMap.wf_filter [DecidableEq α] (m : SMap α) (d : α) (p : Nat × α → Bool) (h : SMap.wf m d = true) :
    SMap.wf (α := α) (m.filter p) d = true := by
  simp only [SMap.wf, Bool.and_eq_true, List.all_eq_true] at h ⊢
  exact ⟨risingFrom_filter _ _ _ h.1, fun x hx => h.2 x (List.mem_filter.mp hx).1⟩

end Sys2Proof.Machine
end

