-- ==== Sys2Proof/Laws/Memory.lean ====
section
/-! SUPPORT. What one written byte leaves in memory, and that every memory operation keeps the canonical form. -/

set_option Elab.async false

namespace Sys2Proof.Machine

/-- A byte reads as it was written. -/
@[simp] theorem rdByte_wrByte_same (m : Mem) (a : Nat) (b : Byte) : rdByte (wrByte m a b) a = b :=
  mget_mset_same m a b 0#8

/-- A written byte leaves every other byte as it was. -/
theorem rdByte_wrByte_ne (m : Mem) (a x : Nat) (b : Byte) (h : x ≠ a) : rdByte (wrByte m a b) x = rdByte m x :=
  mget_mset_ne m a x b 0#8 h

theorem wrBytes_nil (m : Mem) (a : Nat) : wrBytes m a [] = m := rfl
theorem wrBytes_cons (m : Mem) (a : Nat) (b : Byte) (bs : List Byte) : wrBytes m a (b :: bs) = wrBytes (wrByte m a b) (a + 1) bs := rfl
@[simp] theorem rdBytes_length (m : Mem) (a n : Nat) : (rdBytes m a n).length = n := by
  induction n generalizing a with
  | zero => rfl
  | succ n ih => simp [rdBytes, ih]

theorem Mem.wf_nil : Mem.wf [] = true := rfl

theorem Mem.wf_wrByte (m : Mem) (a : Nat) (b : Byte) (h : Mem.wf m = true) : Mem.wf (wrByte m a b) = true :=
  SMap.wf_mset m a b 0#8 h

theorem Mem.wf_wrBytes (m : Mem) (a : Nat) (bs : List Byte) (h : Mem.wf m = true) : Mem.wf (wrBytes m a bs) = true := by
  induction bs generalizing m a with
  | nil => exact h
  | cons b bs ih => exact ih _ _ (Mem.wf_wrByte m a b h)

theorem Mem.wf_wrNat (m : Mem) (a n v : Nat) (h : Mem.wf m = true) : Mem.wf (wrNat m a n v) = true := Mem.wf_wrBytes _ _ _ h

theorem Mem.wf_wrLine (m : Mem) (a : Nat) (l : Line) (h : Mem.wf m = true) : Mem.wf (wrLine m a l) = true := Mem.wf_wrNat _ _ _ _ h

theorem Mem.wf_wrLines (m : Mem) (a : Nat) (ls : List Line) (h : Mem.wf m = true) : Mem.wf (wrLines m a ls) = true := by
  induction ls generalizing m a with
  | nil => exact h
  | cons l ls ih => exact ih _ _ (Mem.wf_wrLine m a l h)

theorem Mem.wf_clearMem (m : Mem) (lo n : Nat) (h : Mem.wf m = true) : Mem.wf (clearMem m lo n) = true := SMap.wf_filter m 0#8 _ h

theorem Mem.wf_sliceMem (m : Mem) (lo n : Nat) (h : Mem.wf m = true) : Mem.wf (sliceMem m lo n) = true := SMap.wf_filter m 0#8 _ h

/-- Bytes listed one by one keep the canonical form, whatever their order. -/
theorem Mem.wf_foldl_wrByte {β : Type} (f : β → Nat) (g : β → Byte) (l : List β) (m : Mem) (h : Mem.wf m = true) :
    Mem.wf (l.foldl (fun acc c => wrByte acc (f c) (g c)) m) = true := by
  induction l generalizing m with
  | nil => exact h
  | cons c l ih => exact ih _ (Mem.wf_wrByte m _ _ h)

theorem Mem.wf_foldl_wrBytes {β : Type} (f : β → Nat) (g : β → List Byte) (l : List β) (m : Mem) (h : Mem.wf m = true) :
    Mem.wf (l.foldl (fun acc c => wrBytes acc (f c) (g c)) m) = true := by
  induction l generalizing m with
  | nil => exact h
  | cons c l ih => exact ih _ (Mem.wf_wrBytes m _ _ h)

theorem Mem.wf_copyMem (m : Mem) (src dst n : Nat) (h : Mem.wf m = true) : Mem.wf (copyMem m src dst n) = true :=
  Mem.wf_foldl_wrByte _ _ _ _ (Mem.wf_clearMem m dst n h)

end Sys2Proof.Machine
end

