-- ==== Sys2Proof/Laws/Address.lean ====
section
/-! SUPPORT. Where an address of a core's slot lies, and that a request inside one slot's data is one piece. -/

set_option Elab.async false

namespace Sys2Proof.Machine

/-- A slot offset and its core can be told from the address (R24, R25). -/
theorem dramDpa_parts (c off : Nat) (hc : c < 2048) (h : off < 2 ^ 27) :
    dramDpa c off < 0x4000000000 ∧ dramDpa c off / 2 ^ 27 = c ∧ dramDpa c off % 2 ^ 27 = off := by
  simp only [dramDpa]; omega

theorem placeOf_data (c off : Nat) (hc : c < 2048) (h : off < dramBytes) : placeOf (dramDpa c off) = .dram c off := by
  have hd : dramBytes = 100663296 := rfl
  obtain ⟨e1, e2, e3⟩ := dramDpa_parts c off hc (by omega)
  unfold placeOf
  rw [if_pos e1]
  simp only [e2, e3]
  rw [if_pos h]

theorem placeOf_command (c off : Nat) (hc : c < 2048) (h : dramBytes ≤ off) (h1 : off < 0x7000000) :
    placeOf (dramDpa c off) = .cmdWindow c off := by
  obtain ⟨e1, e2, e3⟩ := dramDpa_parts c off hc (by omega)
  unfold placeOf
  rw [if_pos e1]
  simp only [e2, e3]
  rw [if_neg (by omega), if_pos h1]

theorem placeOf_result (c off : Nat) (hc : c < 2048) (h : 0x7000000 ≤ off) (h1 : off < 2 ^ 27) :
    placeOf (dramDpa c off) = .resWindow c off := by
  have hd : dramBytes = 100663296 := rfl
  obtain ⟨e1, e2, e3⟩ := dramDpa_parts c off hc h1
  unfold placeOf
  rw [if_pos e1]
  simp only [e2, e3]
  rw [if_neg (by omega), if_neg (by omega)]

/-- NBU and line of a window offset (R27, R201, R213). -/
theorem winNbu_of (base n k : Nat) (hb : base % 0x1000000 = 0) (hn : n < 16) (hk : k < 0x100000) :
    winNbu (base + 0x100000 * n + k) = n := by
  simp only [winNbu]; omega
theorem winLine_of (base n j : Nat) (hb : base % 0x1000000 = 0) (hj : j < 16384) :
    winLine (base + 0x100000 * n + 64 * j) = j := by
  simp only [winLine]; omega

@[simp] theorem leBytes_length (v n : Nat) : (leBytes v n).length = n := by
  induction n generalizing v with
  | zero => rfl
  | succ n ih => simp [leBytes, ih]
@[simp] theorem bytesOf_length (v : BitVec w) (n : Nat) : (bytesOf v n).length = n := leBytes_length _ _

theorem readPiece_result (s : State) (a c off n : Nat) (h : placeOf a = .resWindow c off) :
    readPiece s a n = readWindow s c off n := by
  unfold readPiece; rw [h]
theorem readPiece_data (s : State) (a c off n : Nat) (h : placeOf a = .dram c off) : readPiece s a n = readDram s c off n := by
  unfold readPiece; rw [h]

/-- A read of a whole line of the result window of a region that is not in NORMAL (R31, R213). -/
theorem readWindow_line (s : State) (c off : Nat) (h : (s.regionAt c).mode ≠ .normal) (h1 : off % 64 = 0) :
    readWindow s c off 64 = (s.draw, .ok (bytesOf (peekLine s c (winNbu off) (winLine off)) 64)) := by
  unfold readWindow
  rw [if_neg h, h1, List.drop_zero, List.take_of_length_le (Nat.le_of_eq (bytesOf_length _ _))]

/-- A request inside the data of one slot is one piece. -/
theorem piecesOf_inDram (a n c off : Nat) (h : inDram a n c off = true) (hn : 1 ≤ n) :
    placeOf a = .dram c off ∧ piecesOf a n = [(a, n)] ∧ a = dramDpa c off := by
  simp only [inDram, decide_eq_true_eq] at h
  obtain ⟨h1, h2, h3⟩ := h
  have hp : placeOf a = .dram c off := by rw [h2]; exact placeOf_data c off h1 (by omega)
  refine ⟨hp, ?_, h2⟩
  have hr : pieceRoom a n = dramBytes - off := by simp only [pieceRoom, hp]
  have hm : min n (dramBytes - off) = n := by omega
  unfold piecesOf
  rw [show n / 64 + 3 = n / 64 + 1 + 1 + 1 from rfl, dpaPieces, if_neg (by omega)]
  simp only [hr, hm, Nat.sub_self]
  simp [dpaPieces]

/-- A read of DRAM data in which no word is in error changes nothing (R168). -/
theorem readDram_clean (s : State) (c off n : Nat) (h : s.memc.lost.contains (tierOf c) = false) (h1 : dramMarks s c off n = []) :
    readDram s c off n = (s, .ok (rdBytes s.mem (dramDpa c off) n)) := by
  simp only [readDram, dramRead, h, h1]
  simp

end Sys2Proof.Machine
end

