-- ==== Sys2Proof/Laws/Descriptors.lean ====
section
/-! SUPPORT. What a descriptor row does when its descriptor is the next of its channel: the entry ends, fails or runs on. -/

set_option Elab.async false

namespace Sys2Proof.Machine

theorem descRow_of_nextDesc {s : State} {ch i op : Nat} {d : Line} (also : Line → Bool) (f : State → DescEnv → Line → Eff)
    (h : nextDesc s ch i d op = true) (ha : also d = true) :
    descRow s ch op also f =
      match f s ⟨ch, false⟩ d with
      | .ok t det => entryEnds t ch i .ok det
      | .fail t st unit more => entryEnds t ch i st (failDetail unit more)
      | .run t pos => entryRuns t ch i pos
      | .hold => s := by
  simp only [nextDesc, Bool.and_eq_true, Bool.not_eq_true', decide_eq_true_eq, Bool.or_eq_true] at h
  obtain ⟨⟨⟨h1, h2⟩, h3⟩, h4⟩ := h
  have hh : (readsHost d && !s.canMaster) = false := by
    rcases h4 with h4 | h4 <;> simp [h4]
  unfold descRow runDesc
  simp only [h1, h2, ha, h3, hh, decide_true, Bool.and_self, Bool.not_true, Bool.false_eq_true, if_false]
  cases f s ⟨ch, false⟩ d <;> rfl

/-- The row of a descriptor that completes with OK. -/
theorem descRow_ok {s t : State} {ch i op : Nat} {d : Line} {det : BitVec 128} (also : Line → Bool) (f : State → DescEnv → Line → Eff)
    (h : nextDesc s ch i d op = true) (ha : also d = true) (hf : f s ⟨ch, false⟩ d = .ok t det) :
    descRow s ch op also f = entryEnds t ch i .ok det := by
  simp [descRow_of_nextDesc also f h ha, hf]

/-- The row of a descriptor that fails. -/
theorem descRow_fail {s t : State} {ch i op : Nat} {d : Line} {st : Status} {unit : W32} {more : Nat} (also : Line → Bool)
    (f : State → DescEnv → Line → Eff) (h : nextDesc s ch i d op = true) (ha : also d = true)
    (hf : f s ⟨ch, false⟩ d = .fail t st unit more) :
    descRow s ch op also f = entryEnds t ch i st (failDetail unit more) := by
  simp [descRow_of_nextDesc also f h ha, hf]

/-- The row of a descriptor that runs on. -/
theorem descRow_run {s t : State} {ch i op pos : Nat} {d : Line} (also : Line → Bool) (f : State → DescEnv → Line → Eff)
    (h : nextDesc s ch i d op = true) (ha : also d = true) (hf : f s ⟨ch, false⟩ d = .run t pos) :
    descRow s ch op also f = entryRuns t ch i pos := by
  simp [descRow_of_nextDesc also f h ha, hf]

/-- A channel whose next descriptor has another opcode, or that has none, is left as it is. -/
theorem descRow_other {s : State} {ch op : Nat} (also : Line → Bool) (f : State → DescEnv → Line → Eff)
    (h : ∀ i d, nextEntry (s.chanAt ch) = some (i, d) → descOp d ≠ op ∨ also d = false) : descRow s ch op also f = s := by
  unfold descRow runDesc
  cases hn : nextEntry (s.chanAt ch) with
  | none => simp only [hn]
  | some p =>
    obtain ⟨i, d⟩ := p
    rcases h i d hn with h' | h' <;> simp only [hn, h', decide_false, Bool.false_and, Bool.and_false, Bool.not_false, if_true]

end Sys2Proof.Machine
end

