-- ==== Sys2Proof/Laws/State.lean ====
section
/-! SUPPORT. What each update of a table of the state leaves alone, field by field, and what it writes. -/

set_option Elab.async false

namespace Sys2Proof.Machine

variable (s : State)

-- setCore

@[simp] theorem State.setCore_pending (c : Nat) (v : Core) : (s.setCore c v).pending = s.pending := rfl
@[simp] theorem State.setCore_free (c : Nat) (v : Core) : (s.setCore c v).free = s.free := rfl
@[simp] theorem State.setCore_mem (c : Nat) (v : Core) : (s.setCore c v).mem = s.mem := rfl
@[simp] theorem State.setCore_hostMem (c : Nat) (v : Core) : (s.setCore c v).hostMem = s.hostMem := rfl
@[simp] theorem State.setCore_flash (c : Nat) (v : Core) : (s.setCore c v).flash = s.flash := rfl
@[simp] theorem State.setCore_err (c : Nat) (v : Core) : (s.setCore c v).err = s.err := rfl
@[simp] theorem State.setCore_fuse (c : Nat) (v : Core) : (s.setCore c v).fuse = s.fuse := rfl
@[simp] theorem State.setCore_repair (c : Nat) (v : Core) : (s.setCore c v).repair = s.repair := rfl
@[simp] theorem State.setCore_strap (c : Nat) (v : Core) : (s.setCore c v).strap = s.strap := rfl
@[simp] theorem State.setCore_land (c : Nat) (v : Core) : (s.setCore c v).land = s.land := rfl
@[simp] theorem State.setCore_pins (c : Nat) (v : Core) : (s.setCore c v).pins = s.pins := rfl
@[simp] theorem State.setCore_dev (c : Nat) (v : Core) : (s.setCore c v).dev = s.dev := rfl
@[simp] theorem State.setCore_boot (c : Nat) (v : Core) : (s.setCore c v).boot = s.boot := rfl
@[simp] theorem State.setCore_hst (c : Nat) (v : Core) : (s.setCore c v).hst = s.hst := rfl
@[simp] theorem State.setCore_clk (c : Nat) (v : Core) : (s.setCore c v).clk = s.clk := rfl
@[simp] theorem State.setCore_time (c : Nat) (v : Core) : (s.setCore c v).time = s.time := rfl
@[simp] theorem State.setCore_pwr (c : Nat) (v : Core) : (s.setCore c v).pwr = s.pwr := rfl
@[simp] theorem State.setCore_thm (c : Nat) (v : Core) : (s.setCore c v).thm = s.thm := rfl
@[simp] theorem State.setCore_ras (c : Nat) (v : Core) : (s.setCore c v).ras = s.ras := rfl
@[simp] theorem State.setCore_sec (c : Nat) (v : Core) : (s.setCore c v).sec = s.sec := rfl
@[simp] theorem State.setCore_lnk (c : Nat) (v : Core) : (s.setCore c v).lnk = s.lnk := rfl
@[simp] theorem State.setCore_memc (c : Nat) (v : Core) : (s.setCore c v).memc = s.memc := rfl
@[simp] theorem State.setCore_weevil (c : Nat) (v : Core) : (s.setCore c v).weevil = s.weevil := rfl
@[simp] theorem State.setCore_tap (c : Nat) (v : Core) : (s.setCore c v).tap = s.tap := rfl
@[simp] theorem State.setCore_stream (c : Nat) (v : Core) : (s.setCore c v).stream = s.stream := rfl
@[simp] theorem State.setCore_linkCorr (c : Nat) (v : Core) : (s.setCore c v).linkCorr = s.linkCorr := rfl
@[simp] theorem State.setCore_turn (c : Nat) (v : Core) : (s.setCore c v).turn = s.turn := rfl
@[simp] theorem State.setCore_routes (c : Nat) (v : Core) : (s.setCore c v).routes = s.routes := rfl
@[simp] theorem State.setCore_region (c : Nat) (v : Core) : (s.setCore c v).region = s.region := rfl
@[simp] theorem State.setCore_chim (c : Nat) (v : Core) : (s.setCore c v).chim = s.chim := rfl
@[simp] theorem State.setCore_part (c : Nat) (v : Core) : (s.setCore c v).part = s.part := rfl
@[simp] theorem State.setCore_bars (c : Nat) (v : Core) : (s.setCore c v).bars = s.bars := rfl
@[simp] theorem State.setCore_snaps (c : Nat) (v : Core) : (s.setCore c v).snaps = s.snaps := rfl
@[simp] theorem State.setCore_kv (c : Nat) (v : Core) : (s.setCore c v).kv = s.kv := rfl
@[simp] theorem State.setCore_out (c : Nat) (v : Core) : (s.setCore c v).out = s.out := rfl

-- modCore

@[simp] theorem State.modCore_pending (c : Nat) (f : Core → Core) : (s.modCore c f).pending = s.pending := rfl
@[simp] theorem State.modCore_free (c : Nat) (f : Core → Core) : (s.modCore c f).free = s.free := rfl
@[simp] theorem State.modCore_mem (c : Nat) (f : Core → Core) : (s.modCore c f).mem = s.mem := rfl
@[simp] theorem State.modCore_hostMem (c : Nat) (f : Core → Core) : (s.modCore c f).hostMem = s.hostMem := rfl
@[simp] theorem State.modCore_flash (c : Nat) (f : Core → Core) : (s.modCore c f).flash = s.flash := rfl
@[simp] theorem State.modCore_err (c : Nat) (f : Core → Core) : (s.modCore c f).err = s.err := rfl
@[simp] theorem State.modCore_fuse (c : Nat) (f : Core → Core) : (s.modCore c f).fuse = s.fuse := rfl
@[simp] theorem State.modCore_repair (c : Nat) (f : Core → Core) : (s.modCore c f).repair = s.repair := rfl
@[simp] theorem State.modCore_strap (c : Nat) (f : Core → Core) : (s.modCore c f).strap = s.strap := rfl
@[simp] theorem State.modCore_land (c : Nat) (f : Core → Core) : (s.modCore c f).land = s.land := rfl
@[simp] theorem State.modCore_pins (c : Nat) (f : Core → Core) : (s.modCore c f).pins = s.pins := rfl
@[simp] theorem State.modCore_dev (c : Nat) (f : Core → Core) : (s.modCore c f).dev = s.dev := rfl
@[simp] theorem State.modCore_boot (c : Nat) (f : Core → Core) : (s.modCore c f).boot = s.boot := rfl
@[simp] theorem State.modCore_hst (c : Nat) (f : Core → Core) : (s.modCore c f).hst = s.hst := rfl
@[simp] theorem State.modCore_clk (c : Nat) (f : Core → Core) : (s.modCore c f).clk = s.clk := rfl
@[simp] theorem State.modCore_time (c : Nat) (f : Core → Core) : (s.modCore c f).time = s.time := rfl
@[simp] theorem State.modCore_pwr (c : Nat) (f : Core → Core) : (s.modCore c f).pwr = s.pwr := rfl
@[simp] theorem State.modCore_thm (c : Nat) (f : Core → Core) : (s.modCore c f).thm = s.thm := rfl
@[simp] theorem State.modCore_ras (c : Nat) (f : Core → Core) : (s.modCore c f).ras = s.ras := rfl
@[simp] theorem State.modCore_sec (c : Nat) (f : Core → Core) : (s.modCore c f).sec = s.sec := rfl
@[simp] theorem State.modCore_lnk (c : Nat) (f : Core → Core) : (s.modCore c f).lnk = s.lnk := rfl
@[simp] theorem State.modCore_memc (c : Nat) (f : Core → Core) : (s.modCore c f).memc = s.memc := rfl
@[simp] theorem State.modCore_weevil (c : Nat) (f : Core → Core) : (s.modCore c f).weevil = s.weevil := rfl
@[simp] theorem State.modCore_tap (c : Nat) (f : Core → Core) : (s.modCore c f).tap = s.tap := rfl
@[simp] theorem State.modCore_stream (c : Nat) (f : Core → Core) : (s.modCore c f).stream = s.stream := rfl
@[simp] theorem State.modCore_linkCorr (c : Nat) (f : Core → Core) : (s.modCore c f).linkCorr = s.linkCorr := rfl
@[simp] theorem State.modCore_turn (c : Nat) (f : Core → Core) : (s.modCore c f).turn = s.turn := rfl
@[simp] theorem State.modCore_routes (c : Nat) (f : Core → Core) : (s.modCore c f).routes = s.routes := rfl
@[simp] theorem State.modCore_region (c : Nat) (f : Core → Core) : (s.modCore c f).region = s.region := rfl
@[simp] theorem State.modCore_chim (c : Nat) (f : Core → Core) : (s.modCore c f).chim = s.chim := rfl
@[simp] theorem State.modCore_part (c : Nat) (f : Core → Core) : (s.modCore c f).part = s.part := rfl
@[simp] theorem State.modCore_bars (c : Nat) (f : Core → Core) : (s.modCore c f).bars = s.bars := rfl
@[simp] theorem State.modCore_snaps (c : Nat) (f : Core → Core) : (s.modCore c f).snaps = s.snaps := rfl
@[simp] theorem State.modCore_kv (c : Nat) (f : Core → Core) : (s.modCore c f).kv = s.kv := rfl
@[simp] theorem State.modCore_out (c : Nat) (f : Core → Core) : (s.modCore c f).out = s.out := rfl

-- setStream

@[simp] theorem State.setStream_pending (k : Nat) (v : Stream) : (s.setStream k v).pending = s.pending := rfl
@[simp] theorem State.setStream_free (k : Nat) (v : Stream) : (s.setStream k v).free = s.free := rfl
@[simp] theorem State.setStream_mem (k : Nat) (v : Stream) : (s.setStream k v).mem = s.mem := rfl
@[simp] theorem State.setStream_hostMem (k : Nat) (v : Stream) : (s.setStream k v).hostMem = s.hostMem := rfl
@[simp] theorem State.setStream_flash (k : Nat) (v : Stream) : (s.setStream k v).flash = s.flash := rfl
@[simp] theorem State.setStream_err (k : Nat) (v : Stream) : (s.setStream k v).err = s.err := rfl
@[simp] theorem State.setStream_fuse (k : Nat) (v : Stream) : (s.setStream k v).fuse = s.fuse := rfl
@[simp] theorem State.setStream_repair (k : Nat) (v : Stream) : (s.setStream k v).repair = s.repair := rfl
@[simp] theorem State.setStream_strap (k : Nat) (v : Stream) : (s.setStream k v).strap = s.strap := rfl
@[simp] theorem State.setStream_land (k : Nat) (v : Stream) : (s.setStream k v).land = s.land := rfl
@[simp] theorem State.setStream_pins (k : Nat) (v : Stream) : (s.setStream k v).pins = s.pins := rfl
@[simp] theorem State.setStream_dev (k : Nat) (v : Stream) : (s.setStream k v).dev = s.dev := rfl
@[simp] theorem State.setStream_boot (k : Nat) (v : Stream) : (s.setStream k v).boot = s.boot := rfl
@[simp] theorem State.setStream_hst (k : Nat) (v : Stream) : (s.setStream k v).hst = s.hst := rfl
@[simp] theorem State.setStream_clk (k : Nat) (v : Stream) : (s.setStream k v).clk = s.clk := rfl
@[simp] theorem State.setStream_time (k : Nat) (v : Stream) : (s.setStream k v).time = s.time := rfl
@[simp] theorem State.setStream_pwr (k : Nat) (v : Stream) : (s.setStream k v).pwr = s.pwr := rfl
@[simp] theorem State.setStream_thm (k : Nat) (v : Stream) : (s.setStream k v).thm = s.thm := rfl
@[simp] theorem State.setStream_ras (k : Nat) (v : Stream) : (s.setStream k v).ras = s.ras := rfl
@[simp] theorem State.setStream_sec (k : Nat) (v : Stream) : (s.setStream k v).sec = s.sec := rfl
@[simp] theorem State.setStream_lnk (k : Nat) (v : Stream) : (s.setStream k v).lnk = s.lnk := rfl
@[simp] theorem State.setStream_memc (k : Nat) (v : Stream) : (s.setStream k v).memc = s.memc := rfl
@[simp] theorem State.setStream_weevil (k : Nat) (v : Stream) : (s.setStream k v).weevil = s.weevil := rfl
@[simp] theorem State.setStream_tap (k : Nat) (v : Stream) : (s.setStream k v).tap = s.tap := rfl
@[simp] theorem State.setStream_core (k : Nat) (v : Stream) : (s.setStream k v).core = s.core := rfl
@[simp] theorem State.setStream_linkCorr (k : Nat) (v : Stream) : (s.setStream k v).linkCorr = s.linkCorr := rfl
@[simp] theorem State.setStream_turn (k : Nat) (v : Stream) : (s.setStream k v).turn = s.turn := rfl
@[simp] theorem State.setStream_routes (k : Nat) (v : Stream) : (s.setStream k v).routes = s.routes := rfl
@[simp] theorem State.setStream_region (k : Nat) (v : Stream) : (s.setStream k v).region = s.region := rfl
@[simp] theorem State.setStream_chim (k : Nat) (v : Stream) : (s.setStream k v).chim = s.chim := rfl
@[simp] theorem State.setStream_part (k : Nat) (v : Stream) : (s.setStream k v).part = s.part := rfl
@[simp] theorem State.setStream_bars (k : Nat) (v : Stream) : (s.setStream k v).bars = s.bars := rfl
@[simp] theorem State.setStream_snaps (k : Nat) (v : Stream) : (s.setStream k v).snaps = s.snaps := rfl
@[simp] theorem State.setStream_kv (k : Nat) (v : Stream) : (s.setStream k v).kv = s.kv := rfl
@[simp] theorem State.setStream_out (k : Nat) (v : Stream) : (s.setStream k v).out = s.out := rfl

-- modStream

@[simp] theorem State.modStream_pending (k : Nat) (f : Stream → Stream) : (s.modStream k f).pending = s.pending := rfl
@[simp] theorem State.modStream_free (k : Nat) (f : Stream → Stream) : (s.modStream k f).free = s.free := rfl
@[simp] theorem State.modStream_mem (k : Nat) (f : Stream → Stream) : (s.modStream k f).mem = s.mem := rfl
@[simp] theorem State.modStream_hostMem (k : Nat) (f : Stream → Stream) : (s.modStream k f).hostMem = s.hostMem := rfl
@[simp] theorem State.modStream_flash (k : Nat) (f : Stream → Stream) : (s.modStream k f).flash = s.flash := rfl
@[simp] theorem State.modStream_err (k : Nat) (f : Stream → Stream) : (s.modStream k f).err = s.err := rfl
@[simp] theorem State.modStream_fuse (k : Nat) (f : Stream → Stream) : (s.modStream k f).fuse = s.fuse := rfl
@[simp] theorem State.modStream_repair (k : Nat) (f : Stream → Stream) : (s.modStream k f).repair = s.repair := rfl
@[simp] theorem State.modStream_strap (k : Nat) (f : Stream → Stream) : (s.modStream k f).strap = s.strap := rfl
@[simp] theorem State.modStream_land (k : Nat) (f : Stream → Stream) : (s.modStream k f).land = s.land := rfl
@[simp] theorem State.modStream_pins (k : Nat) (f : Stream → Stream) : (s.modStream k f).pins = s.pins := rfl
@[simp] theorem State.modStream_dev (k : Nat) (f : Stream → Stream) : (s.modStream k f).dev = s.dev := rfl
@[simp] theorem State.modStream_boot (k : Nat) (f : Stream → Stream) : (s.modStream k f).boot = s.boot := rfl
@[simp] theorem State.modStream_hst (k : Nat) (f : Stream → Stream) : (s.modStream k f).hst = s.hst := rfl
@[simp] theorem State.modStream_clk (k : Nat) (f : Stream → Stream) : (s.modStream k f).clk = s.clk := rfl
@[simp] theorem State.modStream_time (k : Nat) (f : Stream → Stream) : (s.modStream k f).time = s.time := rfl
@[simp] theorem State.modStream_pwr (k : Nat) (f : Stream → Stream) : (s.modStream k f).pwr = s.pwr := rfl
@[simp] theorem State.modStream_thm (k : Nat) (f : Stream → Stream) : (s.modStream k f).thm = s.thm := rfl
@[simp] theorem State.modStream_ras (k : Nat) (f : Stream → Stream) : (s.modStream k f).ras = s.ras := rfl
@[simp] theorem State.modStream_sec (k : Nat) (f : Stream → Stream) : (s.modStream k f).sec = s.sec := rfl
@[simp] theorem State.modStream_lnk (k : Nat) (f : Stream → Stream) : (s.modStream k f).lnk = s.lnk := rfl
@[simp] theorem State.modStream_memc (k : Nat) (f : Stream → Stream) : (s.modStream k f).memc = s.memc := rfl
@[simp] theorem State.modStream_weevil (k : Nat) (f : Stream → Stream) : (s.modStream k f).weevil = s.weevil := rfl
@[simp] theorem State.modStream_tap (k : Nat) (f : Stream → Stream) : (s.modStream k f).tap = s.tap := rfl
@[simp] theorem State.modStream_core (k : Nat) (f : Stream → Stream) : (s.modStream k f).core = s.core := rfl
@[simp] theorem State.modStream_linkCorr (k : Nat) (f : Stream → Stream) : (s.modStream k f).linkCorr = s.linkCorr := rfl
@[simp] theorem State.modStream_turn (k : Nat) (f : Stream → Stream) : (s.modStream k f).turn = s.turn := rfl
@[simp] theorem State.modStream_routes (k : Nat) (f : Stream → Stream) : (s.modStream k f).routes = s.routes := rfl
@[simp] theorem State.modStream_region (k : Nat) (f : Stream → Stream) : (s.modStream k f).region = s.region := rfl
@[simp] theorem State.modStream_chim (k : Nat) (f : Stream → Stream) : (s.modStream k f).chim = s.chim := rfl
@[simp] theorem State.modStream_part (k : Nat) (f : Stream → Stream) : (s.modStream k f).part = s.part := rfl
@[simp] theorem State.modStream_bars (k : Nat) (f : Stream → Stream) : (s.modStream k f).bars = s.bars := rfl
@[simp] theorem State.modStream_snaps (k : Nat) (f : Stream → Stream) : (s.modStream k f).snaps = s.snaps := rfl
@[simp] theorem State.modStream_kv (k : Nat) (f : Stream → Stream) : (s.modStream k f).kv = s.kv := rfl
@[simp] theorem State.modStream_out (k : Nat) (f : Stream → Stream) : (s.modStream k f).out = s.out := rfl

-- setRegion

@[simp] theorem State.setRegion_pending (c : Nat) (v : Region) : (s.setRegion c v).pending = s.pending := rfl
@[simp] theorem State.setRegion_free (c : Nat) (v : Region) : (s.setRegion c v).free = s.free := rfl
@[simp] theorem State.setRegion_mem (c : Nat) (v : Region) : (s.setRegion c v).mem = s.mem := rfl
@[simp] theorem State.setRegion_hostMem (c : Nat) (v : Region) : (s.setRegion c v).hostMem = s.hostMem := rfl
@[simp] theorem State.setRegion_flash (c : Nat) (v : Region) : (s.setRegion c v).flash = s.flash := rfl
@[simp] theorem State.setRegion_err (c : Nat) (v : Region) : (s.setRegion c v).err = s.err := rfl
@[simp] theorem State.setRegion_fuse (c : Nat) (v : Region) : (s.setRegion c v).fuse = s.fuse := rfl
@[simp] theorem State.setRegion_repair (c : Nat) (v : Region) : (s.setRegion c v).repair = s.repair := rfl
@[simp] theorem State.setRegion_strap (c : Nat) (v : Region) : (s.setRegion c v).strap = s.strap := rfl
@[simp] theorem State.setRegion_land (c : Nat) (v : Region) : (s.setRegion c v).land = s.land := rfl
@[simp] theorem State.setRegion_pins (c : Nat) (v : Region) : (s.setRegion c v).pins = s.pins := rfl
@[simp] theorem State.setRegion_dev (c : Nat) (v : Region) : (s.setRegion c v).dev = s.dev := rfl
@[simp] theorem State.setRegion_boot (c : Nat) (v : Region) : (s.setRegion c v).boot = s.boot := rfl
@[simp] theorem State.setRegion_hst (c : Nat) (v : Region) : (s.setRegion c v).hst = s.hst := rfl
@[simp] theorem State.setRegion_clk (c : Nat) (v : Region) : (s.setRegion c v).clk = s.clk := rfl
@[simp] theorem State.setRegion_time (c : Nat) (v : Region) : (s.setRegion c v).time = s.time := rfl
@[simp] theorem State.setRegion_pwr (c : Nat) (v : Region) : (s.setRegion c v).pwr = s.pwr := rfl
@[simp] theorem State.setRegion_thm (c : Nat) (v : Region) : (s.setRegion c v).thm = s.thm := rfl
@[simp] theorem State.setRegion_ras (c : Nat) (v : Region) : (s.setRegion c v).ras = s.ras := rfl
@[simp] theorem State.setRegion_sec (c : Nat) (v : Region) : (s.setRegion c v).sec = s.sec := rfl
@[simp] theorem State.setRegion_lnk (c : Nat) (v : Region) : (s.setRegion c v).lnk = s.lnk := rfl
@[simp] theorem State.setRegion_memc (c : Nat) (v : Region) : (s.setRegion c v).memc = s.memc := rfl
@[simp] theorem State.setRegion_weevil (c : Nat) (v : Region) : (s.setRegion c v).weevil = s.weevil := rfl
@[simp] theorem State.setRegion_tap (c : Nat) (v : Region) : (s.setRegion c v).tap = s.tap := rfl
@[simp] theorem State.setRegion_core (c : Nat) (v : Region) : (s.setRegion c v).core = s.core := rfl
@[simp] theorem State.setRegion_stream (c : Nat) (v : Region) : (s.setRegion c v).stream = s.stream := rfl
@[simp] theorem State.setRegion_linkCorr (c : Nat) (v : Region) : (s.setRegion c v).linkCorr = s.linkCorr := rfl
@[simp] theorem State.setRegion_turn (c : Nat) (v : Region) : (s.setRegion c v).turn = s.turn := rfl
@[simp] theorem State.setRegion_routes (c : Nat) (v : Region) : (s.setRegion c v).routes = s.routes := rfl
@[simp] theorem State.setRegion_chim (c : Nat) (v : Region) : (s.setRegion c v).chim = s.chim := rfl
@[simp] theorem State.setRegion_part (c : Nat) (v : Region) : (s.setRegion c v).part = s.part := rfl
@[simp] theorem State.setRegion_bars (c : Nat) (v : Region) : (s.setRegion c v).bars = s.bars := rfl
@[simp] theorem State.setRegion_snaps (c : Nat) (v : Region) : (s.setRegion c v).snaps = s.snaps := rfl
@[simp] theorem State.setRegion_kv (c : Nat) (v : Region) : (s.setRegion c v).kv = s.kv := rfl
@[simp] theorem State.setRegion_out (c : Nat) (v : Region) : (s.setRegion c v).out = s.out := rfl

-- modRegion

@[simp] theorem State.modRegion_pending (c : Nat) (f : Region → Region) : (s.modRegion c f).pending = s.pending := rfl
@[simp] theorem State.modRegion_free (c : Nat) (f : Region → Region) : (s.modRegion c f).free = s.free := rfl
@[simp] theorem State.modRegion_mem (c : Nat) (f : Region → Region) : (s.modRegion c f).mem = s.mem := rfl
@[simp] theorem State.modRegion_hostMem (c : Nat) (f : Region → Region) : (s.modRegion c f).hostMem = s.hostMem := rfl
@[simp] theorem State.modRegion_flash (c : Nat) (f : Region → Region) : (s.modRegion c f).flash = s.flash := rfl
@[simp] theorem State.modRegion_err (c : Nat) (f : Region → Region) : (s.modRegion c f).err = s.err := rfl
@[simp] theorem State.modRegion_fuse (c : Nat) (f : Region → Region) : (s.modRegion c f).fuse = s.fuse := rfl
@[simp] theorem State.modRegion_repair (c : Nat) (f : Region → Region) : (s.modRegion c f).repair = s.repair := rfl
@[simp] theorem State.modRegion_strap (c : Nat) (f : Region → Region) : (s.modRegion c f).strap = s.strap := rfl
@[simp] theorem State.modRegion_land (c : Nat) (f : Region → Region) : (s.modRegion c f).land = s.land := rfl
@[simp] theorem State.modRegion_pins (c : Nat) (f : Region → Region) : (s.modRegion c f).pins = s.pins := rfl
@[simp] theorem State.modRegion_dev (c : Nat) (f : Region → Region) : (s.modRegion c f).dev = s.dev := rfl
@[simp] theorem State.modRegion_boot (c : Nat) (f : Region → Region) : (s.modRegion c f).boot = s.boot := rfl
@[simp] theorem State.modRegion_hst (c : Nat) (f : Region → Region) : (s.modRegion c f).hst = s.hst := rfl
@[simp] theorem State.modRegion_clk (c : Nat) (f : Region → Region) : (s.modRegion c f).clk = s.clk := rfl
@[simp] theorem State.modRegion_time (c : Nat) (f : Region → Region) : (s.modRegion c f).time = s.time := rfl
@[simp] theorem State.modRegion_pwr (c : Nat) (f : Region → Region) : (s.modRegion c f).pwr = s.pwr := rfl
@[simp] theorem State.modRegion_thm (c : Nat) (f : Region → Region) : (s.modRegion c f).thm = s.thm := rfl
@[simp] theorem State.modRegion_ras (c : Nat) (f : Region → Region) : (s.modRegion c f).ras = s.ras := rfl
@[simp] theorem State.modRegion_sec (c : Nat) (f : Region → Region) : (s.modRegion c f).sec = s.sec := rfl
@[simp] theorem State.modRegion_lnk (c : Nat) (f : Region → Region) : (s.modRegion c f).lnk = s.lnk := rfl
@[simp] theorem State.modRegion_memc (c : Nat) (f : Region → Region) : (s.modRegion c f).memc = s.memc := rfl
@[simp] theorem State.modRegion_weevil (c : Nat) (f : Region → Region) : (s.modRegion c f).weevil = s.weevil := rfl
@[simp] theorem State.modRegion_tap (c : Nat) (f : Region → Region) : (s.modRegion c f).tap = s.tap := rfl
@[simp] theorem State.modRegion_core (c : Nat) (f : Region → Region) : (s.modRegion c f).core = s.core := rfl
@[simp] theorem State.modRegion_stream (c : Nat) (f : Region → Region) : (s.modRegion c f).stream = s.stream := rfl
@[simp] theorem State.modRegion_linkCorr (c : Nat) (f : Region → Region) : (s.modRegion c f).linkCorr = s.linkCorr := rfl
@[simp] theorem State.modRegion_turn (c : Nat) (f : Region → Region) : (s.modRegion c f).turn = s.turn := rfl
@[simp] theorem State.modRegion_routes (c : Nat) (f : Region → Region) : (s.modRegion c f).routes = s.routes := rfl
@[simp] theorem State.modRegion_chim (c : Nat) (f : Region → Region) : (s.modRegion c f).chim = s.chim := rfl
@[simp] theorem State.modRegion_part (c : Nat) (f : Region → Region) : (s.modRegion c f).part = s.part := rfl
@[simp] theorem State.modRegion_bars (c : Nat) (f : Region → Region) : (s.modRegion c f).bars = s.bars := rfl
@[simp] theorem State.modRegion_snaps (c : Nat) (f : Region → Region) : (s.modRegion c f).snaps = s.snaps := rfl
@[simp] theorem State.modRegion_kv (c : Nat) (f : Region → Region) : (s.modRegion c f).kv = s.kv := rfl
@[simp] theorem State.modRegion_out (c : Nat) (f : Region → Region) : (s.modRegion c f).out = s.out := rfl

-- setNbu

@[simp] theorem State.setNbu_pending (c n : Nat) (v : Nbu) : (s.setNbu c n v).pending = s.pending := rfl
@[simp] theorem State.setNbu_free (c n : Nat) (v : Nbu) : (s.setNbu c n v).free = s.free := rfl
@[simp] theorem State.setNbu_mem (c n : Nat) (v : Nbu) : (s.setNbu c n v).mem = s.mem := rfl
@[simp] theorem State.setNbu_hostMem (c n : Nat) (v : Nbu) : (s.setNbu c n v).hostMem = s.hostMem := rfl
@[simp] theorem State.setNbu_flash (c n : Nat) (v : Nbu) : (s.setNbu c n v).flash = s.flash := rfl
@[simp] theorem State.setNbu_err (c n : Nat) (v : Nbu) : (s.setNbu c n v).err = s.err := rfl
@[simp] theorem State.setNbu_fuse (c n : Nat) (v : Nbu) : (s.setNbu c n v).fuse = s.fuse := rfl
@[simp] theorem State.setNbu_repair (c n : Nat) (v : Nbu) : (s.setNbu c n v).repair = s.repair := rfl
@[simp] theorem State.setNbu_strap (c n : Nat) (v : Nbu) : (s.setNbu c n v).strap = s.strap := rfl
@[simp] theorem State.setNbu_land (c n : Nat) (v : Nbu) : (s.setNbu c n v).land = s.land := rfl
@[simp] theorem State.setNbu_pins (c n : Nat) (v : Nbu) : (s.setNbu c n v).pins = s.pins := rfl
@[simp] theorem State.setNbu_dev (c n : Nat) (v : Nbu) : (s.setNbu c n v).dev = s.dev := rfl
@[simp] theorem State.setNbu_boot (c n : Nat) (v : Nbu) : (s.setNbu c n v).boot = s.boot := rfl
@[simp] theorem State.setNbu_hst (c n : Nat) (v : Nbu) : (s.setNbu c n v).hst = s.hst := rfl
@[simp] theorem State.setNbu_clk (c n : Nat) (v : Nbu) : (s.setNbu c n v).clk = s.clk := rfl
@[simp] theorem State.setNbu_time (c n : Nat) (v : Nbu) : (s.setNbu c n v).time = s.time := rfl
@[simp] theorem State.setNbu_pwr (c n : Nat) (v : Nbu) : (s.setNbu c n v).pwr = s.pwr := rfl
@[simp] theorem State.setNbu_thm (c n : Nat) (v : Nbu) : (s.setNbu c n v).thm = s.thm := rfl
@[simp] theorem State.setNbu_ras (c n : Nat) (v : Nbu) : (s.setNbu c n v).ras = s.ras := rfl
@[simp] theorem State.setNbu_sec (c n : Nat) (v : Nbu) : (s.setNbu c n v).sec = s.sec := rfl
@[simp] theorem State.setNbu_lnk (c n : Nat) (v : Nbu) : (s.setNbu c n v).lnk = s.lnk := rfl
@[simp] theorem State.setNbu_memc (c n : Nat) (v : Nbu) : (s.setNbu c n v).memc = s.memc := rfl
@[simp] theorem State.setNbu_weevil (c n : Nat) (v : Nbu) : (s.setNbu c n v).weevil = s.weevil := rfl
@[simp] theorem State.setNbu_tap (c n : Nat) (v : Nbu) : (s.setNbu c n v).tap = s.tap := rfl
@[simp] theorem State.setNbu_core (c n : Nat) (v : Nbu) : (s.setNbu c n v).core = s.core := rfl
@[simp] theorem State.setNbu_stream (c n : Nat) (v : Nbu) : (s.setNbu c n v).stream = s.stream := rfl
@[simp] theorem State.setNbu_linkCorr (c n : Nat) (v : Nbu) : (s.setNbu c n v).linkCorr = s.linkCorr := rfl
@[simp] theorem State.setNbu_turn (c n : Nat) (v : Nbu) : (s.setNbu c n v).turn = s.turn := rfl
@[simp] theorem State.setNbu_routes (c n : Nat) (v : Nbu) : (s.setNbu c n v).routes = s.routes := rfl
@[simp] theorem State.setNbu_chim (c n : Nat) (v : Nbu) : (s.setNbu c n v).chim = s.chim := rfl
@[simp] theorem State.setNbu_part (c n : Nat) (v : Nbu) : (s.setNbu c n v).part = s.part := rfl
@[simp] theorem State.setNbu_bars (c n : Nat) (v : Nbu) : (s.setNbu c n v).bars = s.bars := rfl
@[simp] theorem State.setNbu_snaps (c n : Nat) (v : Nbu) : (s.setNbu c n v).snaps = s.snaps := rfl
@[simp] theorem State.setNbu_kv (c n : Nat) (v : Nbu) : (s.setNbu c n v).kv = s.kv := rfl
@[simp] theorem State.setNbu_out (c n : Nat) (v : Nbu) : (s.setNbu c n v).out = s.out := rfl

-- modNbu

@[simp] theorem State.modNbu_pending (c n : Nat) (f : Nbu → Nbu) : (s.modNbu c n f).pending = s.pending := rfl
@[simp] theorem State.modNbu_free (c n : Nat) (f : Nbu → Nbu) : (s.modNbu c n f).free = s.free := rfl
@[simp] theorem State.modNbu_mem (c n : Nat) (f : Nbu → Nbu) : (s.modNbu c n f).mem = s.mem := rfl
@[simp] theorem State.modNbu_hostMem (c n : Nat) (f : Nbu → Nbu) : (s.modNbu c n f).hostMem = s.hostMem := rfl
@[simp] theorem State.modNbu_flash (c n : Nat) (f : Nbu → Nbu) : (s.modNbu c n f).flash = s.flash := rfl
@[simp] theorem State.modNbu_err (c n : Nat) (f : Nbu → Nbu) : (s.modNbu c n f).err = s.err := rfl
@[simp] theorem State.modNbu_fuse (c n : Nat) (f : Nbu → Nbu) : (s.modNbu c n f).fuse = s.fuse := rfl
@[simp] theorem State.modNbu_repair (c n : Nat) (f : Nbu → Nbu) : (s.modNbu c n f).repair = s.repair := rfl
@[simp] theorem State.modNbu_strap (c n : Nat) (f : Nbu → Nbu) : (s.modNbu c n f).strap = s.strap := rfl
@[simp] theorem State.modNbu_land (c n : Nat) (f : Nbu → Nbu) : (s.modNbu c n f).land = s.land := rfl
@[simp] theorem State.modNbu_pins (c n : Nat) (f : Nbu → Nbu) : (s.modNbu c n f).pins = s.pins := rfl
@[simp] theorem State.modNbu_dev (c n : Nat) (f : Nbu → Nbu) : (s.modNbu c n f).dev = s.dev := rfl
@[simp] theorem State.modNbu_boot (c n : Nat) (f : Nbu → Nbu) : (s.modNbu c n f).boot = s.boot := rfl
@[simp] theorem State.modNbu_hst (c n : Nat) (f : Nbu → Nbu) : (s.modNbu c n f).hst = s.hst := rfl
@[simp] theorem State.modNbu_clk (c n : Nat) (f : Nbu → Nbu) : (s.modNbu c n f).clk = s.clk := rfl
@[simp] theorem State.modNbu_time (c n : Nat) (f : Nbu → Nbu) : (s.modNbu c n f).time = s.time := rfl
@[simp] theorem State.modNbu_pwr (c n : Nat) (f : Nbu → Nbu) : (s.modNbu c n f).pwr = s.pwr := rfl
@[simp] theorem State.modNbu_thm (c n : Nat) (f : Nbu → Nbu) : (s.modNbu c n f).thm = s.thm := rfl
@[simp] theorem State.modNbu_ras (c n : Nat) (f : Nbu → Nbu) : (s.modNbu c n f).ras = s.ras := rfl
@[simp] theorem State.modNbu_sec (c n : Nat) (f : Nbu → Nbu) : (s.modNbu c n f).sec = s.sec := rfl
@[simp] theorem State.modNbu_lnk (c n : Nat) (f : Nbu → Nbu) : (s.modNbu c n f).lnk = s.lnk := rfl
@[simp] theorem State.modNbu_memc (c n : Nat) (f : Nbu → Nbu) : (s.modNbu c n f).memc = s.memc := rfl
@[simp] theorem State.modNbu_weevil (c n : Nat) (f : Nbu → Nbu) : (s.modNbu c n f).weevil = s.weevil := rfl
@[simp] theorem State.modNbu_tap (c n : Nat) (f : Nbu → Nbu) : (s.modNbu c n f).tap = s.tap := rfl
@[simp] theorem State.modNbu_core (c n : Nat) (f : Nbu → Nbu) : (s.modNbu c n f).core = s.core := rfl
@[simp] theorem State.modNbu_stream (c n : Nat) (f : Nbu → Nbu) : (s.modNbu c n f).stream = s.stream := rfl
@[simp] theorem State.modNbu_linkCorr (c n : Nat) (f : Nbu → Nbu) : (s.modNbu c n f).linkCorr = s.linkCorr := rfl
@[simp] theorem State.modNbu_turn (c n : Nat) (f : Nbu → Nbu) : (s.modNbu c n f).turn = s.turn := rfl
@[simp] theorem State.modNbu_routes (c n : Nat) (f : Nbu → Nbu) : (s.modNbu c n f).routes = s.routes := rfl
@[simp] theorem State.modNbu_chim (c n : Nat) (f : Nbu → Nbu) : (s.modNbu c n f).chim = s.chim := rfl
@[simp] theorem State.modNbu_part (c n : Nat) (f : Nbu → Nbu) : (s.modNbu c n f).part = s.part := rfl
@[simp] theorem State.modNbu_bars (c n : Nat) (f : Nbu → Nbu) : (s.modNbu c n f).bars = s.bars := rfl
@[simp] theorem State.modNbu_snaps (c n : Nat) (f : Nbu → Nbu) : (s.modNbu c n f).snaps = s.snaps := rfl
@[simp] theorem State.modNbu_kv (c n : Nat) (f : Nbu → Nbu) : (s.modNbu c n f).kv = s.kv := rfl
@[simp] theorem State.modNbu_out (c n : Nat) (f : Nbu → Nbu) : (s.modNbu c n f).out = s.out := rfl

-- setChim

@[simp] theorem State.setChim_pending (c : Nat) (v : Chimney) : (s.setChim c v).pending = s.pending := rfl
@[simp] theorem State.setChim_free (c : Nat) (v : Chimney) : (s.setChim c v).free = s.free := rfl
@[simp] theorem State.setChim_mem (c : Nat) (v : Chimney) : (s.setChim c v).mem = s.mem := rfl
@[simp] theorem State.setChim_hostMem (c : Nat) (v : Chimney) : (s.setChim c v).hostMem = s.hostMem := rfl
@[simp] theorem State.setChim_flash (c : Nat) (v : Chimney) : (s.setChim c v).flash = s.flash := rfl
@[simp] theorem State.setChim_err (c : Nat) (v : Chimney) : (s.setChim c v).err = s.err := rfl
@[simp] theorem State.setChim_fuse (c : Nat) (v : Chimney) : (s.setChim c v).fuse = s.fuse := rfl
@[simp] theorem State.setChim_repair (c : Nat) (v : Chimney) : (s.setChim c v).repair = s.repair := rfl
@[simp] theorem State.setChim_strap (c : Nat) (v : Chimney) : (s.setChim c v).strap = s.strap := rfl
@[simp] theorem State.setChim_land (c : Nat) (v : Chimney) : (s.setChim c v).land = s.land := rfl
@[simp] theorem State.setChim_pins (c : Nat) (v : Chimney) : (s.setChim c v).pins = s.pins := rfl
@[simp] theorem State.setChim_dev (c : Nat) (v : Chimney) : (s.setChim c v).dev = s.dev := rfl
@[simp] theorem State.setChim_boot (c : Nat) (v : Chimney) : (s.setChim c v).boot = s.boot := rfl
@[simp] theorem State.setChim_hst (c : Nat) (v : Chimney) : (s.setChim c v).hst = s.hst := rfl
@[simp] theorem State.setChim_clk (c : Nat) (v : Chimney) : (s.setChim c v).clk = s.clk := rfl
@[simp] theorem State.setChim_time (c : Nat) (v : Chimney) : (s.setChim c v).time = s.time := rfl
@[simp] theorem State.setChim_pwr (c : Nat) (v : Chimney) : (s.setChim c v).pwr = s.pwr := rfl
@[simp] theorem State.setChim_thm (c : Nat) (v : Chimney) : (s.setChim c v).thm = s.thm := rfl
@[simp] theorem State.setChim_ras (c : Nat) (v : Chimney) : (s.setChim c v).ras = s.ras := rfl
@[simp] theorem State.setChim_sec (c : Nat) (v : Chimney) : (s.setChim c v).sec = s.sec := rfl
@[simp] theorem State.setChim_lnk (c : Nat) (v : Chimney) : (s.setChim c v).lnk = s.lnk := rfl
@[simp] theorem State.setChim_memc (c : Nat) (v : Chimney) : (s.setChim c v).memc = s.memc := rfl
@[simp] theorem State.setChim_weevil (c : Nat) (v : Chimney) : (s.setChim c v).weevil = s.weevil := rfl
@[simp] theorem State.setChim_tap (c : Nat) (v : Chimney) : (s.setChim c v).tap = s.tap := rfl
@[simp] theorem State.setChim_core (c : Nat) (v : Chimney) : (s.setChim c v).core = s.core := rfl
@[simp] theorem State.setChim_stream (c : Nat) (v : Chimney) : (s.setChim c v).stream = s.stream := rfl
@[simp] theorem State.setChim_linkCorr (c : Nat) (v : Chimney) : (s.setChim c v).linkCorr = s.linkCorr := rfl
@[simp] theorem State.setChim_turn (c : Nat) (v : Chimney) : (s.setChim c v).turn = s.turn := rfl
@[simp] theorem State.setChim_routes (c : Nat) (v : Chimney) : (s.setChim c v).routes = s.routes := rfl
@[simp] theorem State.setChim_region (c : Nat) (v : Chimney) : (s.setChim c v).region = s.region := rfl
@[simp] theorem State.setChim_part (c : Nat) (v : Chimney) : (s.setChim c v).part = s.part := rfl
@[simp] theorem State.setChim_bars (c : Nat) (v : Chimney) : (s.setChim c v).bars = s.bars := rfl
@[simp] theorem State.setChim_snaps (c : Nat) (v : Chimney) : (s.setChim c v).snaps = s.snaps := rfl
@[simp] theorem State.setChim_kv (c : Nat) (v : Chimney) : (s.setChim c v).kv = s.kv := rfl
@[simp] theorem State.setChim_out (c : Nat) (v : Chimney) : (s.setChim c v).out = s.out := rfl

-- setPart

@[simp] theorem State.setPart_pending (p : Nat) (v : Partition) : (s.setPart p v).pending = s.pending := rfl
@[simp] theorem State.setPart_free (p : Nat) (v : Partition) : (s.setPart p v).free = s.free := rfl
@[simp] theorem State.setPart_mem (p : Nat) (v : Partition) : (s.setPart p v).mem = s.mem := rfl
@[simp] theorem State.setPart_hostMem (p : Nat) (v : Partition) : (s.setPart p v).hostMem = s.hostMem := rfl
@[simp] theorem State.setPart_flash (p : Nat) (v : Partition) : (s.setPart p v).flash = s.flash := rfl
@[simp] theorem State.setPart_err (p : Nat) (v : Partition) : (s.setPart p v).err = s.err := rfl
@[simp] theorem State.setPart_fuse (p : Nat) (v : Partition) : (s.setPart p v).fuse = s.fuse := rfl
@[simp] theorem State.setPart_repair (p : Nat) (v : Partition) : (s.setPart p v).repair = s.repair := rfl
@[simp] theorem State.setPart_strap (p : Nat) (v : Partition) : (s.setPart p v).strap = s.strap := rfl
@[simp] theorem State.setPart_land (p : Nat) (v : Partition) : (s.setPart p v).land = s.land := rfl
@[simp] theorem State.setPart_pins (p : Nat) (v : Partition) : (s.setPart p v).pins = s.pins := rfl
@[simp] theorem State.setPart_dev (p : Nat) (v : Partition) : (s.setPart p v).dev = s.dev := rfl
@[simp] theorem State.setPart_boot (p : Nat) (v : Partition) : (s.setPart p v).boot = s.boot := rfl
@[simp] theorem State.setPart_hst (p : Nat) (v : Partition) : (s.setPart p v).hst = s.hst := rfl
@[simp] theorem State.setPart_clk (p : Nat) (v : Partition) : (s.setPart p v).clk = s.clk := rfl
@[simp] theorem State.setPart_time (p : Nat) (v : Partition) : (s.setPart p v).time = s.time := rfl
@[simp] theorem State.setPart_pwr (p : Nat) (v : Partition) : (s.setPart p v).pwr = s.pwr := rfl
@[simp] theorem State.setPart_thm (p : Nat) (v : Partition) : (s.setPart p v).thm = s.thm := rfl
@[simp] theorem State.setPart_ras (p : Nat) (v : Partition) : (s.setPart p v).ras = s.ras := rfl
@[simp] theorem State.setPart_sec (p : Nat) (v : Partition) : (s.setPart p v).sec = s.sec := rfl
@[simp] theorem State.setPart_lnk (p : Nat) (v : Partition) : (s.setPart p v).lnk = s.lnk := rfl
@[simp] theorem State.setPart_memc (p : Nat) (v : Partition) : (s.setPart p v).memc = s.memc := rfl
@[simp] theorem State.setPart_weevil (p : Nat) (v : Partition) : (s.setPart p v).weevil = s.weevil := rfl
@[simp] theorem State.setPart_tap (p : Nat) (v : Partition) : (s.setPart p v).tap = s.tap := rfl
@[simp] theorem State.setPart_core (p : Nat) (v : Partition) : (s.setPart p v).core = s.core := rfl
@[simp] theorem State.setPart_stream (p : Nat) (v : Partition) : (s.setPart p v).stream = s.stream := rfl
@[simp] theorem State.setPart_linkCorr (p : Nat) (v : Partition) : (s.setPart p v).linkCorr = s.linkCorr := rfl
@[simp] theorem State.setPart_turn (p : Nat) (v : Partition) : (s.setPart p v).turn = s.turn := rfl
@[simp] theorem State.setPart_routes (p : Nat) (v : Partition) : (s.setPart p v).routes = s.routes := rfl
@[simp] theorem State.setPart_region (p : Nat) (v : Partition) : (s.setPart p v).region = s.region := rfl
@[simp] theorem State.setPart_chim (p : Nat) (v : Partition) : (s.setPart p v).chim = s.chim := rfl
@[simp] theorem State.setPart_bars (p : Nat) (v : Partition) : (s.setPart p v).bars = s.bars := rfl
@[simp] theorem State.setPart_snaps (p : Nat) (v : Partition) : (s.setPart p v).snaps = s.snaps := rfl
@[simp] theorem State.setPart_kv (p : Nat) (v : Partition) : (s.setPart p v).kv = s.kv := rfl
@[simp] theorem State.setPart_out (p : Nat) (v : Partition) : (s.setPart p v).out = s.out := rfl

-- modPart

@[simp] theorem State.modPart_pending (p : Nat) (f : Partition → Partition) : (s.modPart p f).pending = s.pending := by
  unfold State.modPart; split <;> rfl
@[simp] theorem State.modPart_free (p : Nat) (f : Partition → Partition) : (s.modPart p f).free = s.free := by
  unfold State.modPart; split <;> rfl
@[simp] theorem State.modPart_mem (p : Nat) (f : Partition → Partition) : (s.modPart p f).mem = s.mem := by
  unfold State.modPart; split <;> rfl
@[simp] theorem State.modPart_hostMem (p : Nat) (f : Partition → Partition) : (s.modPart p f).hostMem = s.hostMem := by
  unfold State.modPart; split <;> rfl
@[simp] theorem State.modPart_flash (p : Nat) (f : Partition → Partition) : (s.modPart p f).flash = s.flash := by
  unfold State.modPart; split <;> rfl
@[simp] theorem State.modPart_err (p : Nat) (f : Partition → Partition) : (s.modPart p f).err = s.err := by
  unfold State.modPart; split <;> rfl
@[simp] theorem State.modPart_fuse (p : Nat) (f : Partition → Partition) : (s.modPart p f).fuse = s.fuse := by
  unfold State.modPart; split <;> rfl
@[simp] theorem State.modPart_repair (p : Nat) (f : Partition → Partition) : (s.modPart p f).repair = s.repair := by
  unfold State.modPart; split <;> rfl
@[simp] theorem State.modPart_strap (p : Nat) (f : Partition → Partition) : (s.modPart p f).strap = s.strap := by
  unfold State.modPart; split <;> rfl
@[simp] theorem State.modPart_land (p : Nat) (f : Partition → Partition) : (s.modPart p f).land = s.land := by
  unfold State.modPart; split <;> rfl
@[simp] theorem State.modPart_pins (p : Nat) (f : Partition → Partition) : (s.modPart p f).pins = s.pins := by
  unfold State.modPart; split <;> rfl
@[simp] theorem State.modPart_dev (p : Nat) (f : Partition → Partition) : (s.modPart p f).dev = s.dev := by
  unfold State.modPart; split <;> rfl
@[simp] theorem State.modPart_boot (p : Nat) (f : Partition → Partition) : (s.modPart p f).boot = s.boot := by
  unfold State.modPart; split <;> rfl
@[simp] theorem State.modPart_hst (p : Nat) (f : Partition → Partition) : (s.modPart p f).hst = s.hst := by
  unfold State.modPart; split <;> rfl
@[simp] theorem State.modPart_clk (p : Nat) (f : Partition → Partition) : (s.modPart p f).clk = s.clk := by
  unfold State.modPart; split <;> rfl
@[simp] theorem State.modPart_time (p : Nat) (f : Partition → Partition) : (s.modPart p f).time = s.time := by
  unfold State.modPart; split <;> rfl
@[simp] theorem State.modPart_pwr (p : Nat) (f : Partition → Partition) : (s.modPart p f).pwr = s.pwr := by
  unfold State.modPart; split <;> rfl
@[simp] theorem State.modPart_thm (p : Nat) (f : Partition → Partition) : (s.modPart p f).thm = s.thm := by
  unfold State.modPart; split <;> rfl
@[simp] theorem State.modPart_ras (p : Nat) (f : Partition → Partition) : (s.modPart p f).ras = s.ras := by
  unfold State.modPart; split <;> rfl
@[simp] theorem State.modPart_sec (p : Nat) (f : Partition → Partition) : (s.modPart p f).sec = s.sec := by
  unfold State.modPart; split <;> rfl
@[simp] theorem State.modPart_lnk (p : Nat) (f : Partition → Partition) : (s.modPart p f).lnk = s.lnk := by
  unfold State.modPart; split <;> rfl
@[simp] theorem State.modPart_memc (p : Nat) (f : Partition → Partition) : (s.modPart p f).memc = s.memc := by
  unfold State.modPart; split <;> rfl
@[simp] theorem State.modPart_weevil (p : Nat) (f : Partition → Partition) : (s.modPart p f).weevil = s.weevil := by
  unfold State.modPart; split <;> rfl
@[simp] theorem State.modPart_tap (p : Nat) (f : Partition → Partition) : (s.modPart p f).tap = s.tap := by
  unfold State.modPart; split <;> rfl
@[simp] theorem State.modPart_core (p : Nat) (f : Partition → Partition) : (s.modPart p f).core = s.core := by
  unfold State.modPart; split <;> rfl
@[simp] theorem State.modPart_stream (p : Nat) (f : Partition → Partition) : (s.modPart p f).stream = s.stream := by
  unfold State.modPart; split <;> rfl
@[simp] theorem State.modPart_linkCorr (p : Nat) (f : Partition → Partition) : (s.modPart p f).linkCorr = s.linkCorr := by
  unfold State.modPart; split <;> rfl
@[simp] theorem State.modPart_turn (p : Nat) (f : Partition → Partition) : (s.modPart p f).turn = s.turn := by
  unfold State.modPart; split <;> rfl
@[simp] theorem State.modPart_routes (p : Nat) (f : Partition → Partition) : (s.modPart p f).routes = s.routes := by
  unfold State.modPart; split <;> rfl
@[simp] theorem State.modPart_region (p : Nat) (f : Partition → Partition) : (s.modPart p f).region = s.region := by
  unfold State.modPart; split <;> rfl
@[simp] theorem State.modPart_chim (p : Nat) (f : Partition → Partition) : (s.modPart p f).chim = s.chim := by
  unfold State.modPart; split <;> rfl
@[simp] theorem State.modPart_bars (p : Nat) (f : Partition → Partition) : (s.modPart p f).bars = s.bars := by
  unfold State.modPart; split <;> rfl
@[simp] theorem State.modPart_snaps (p : Nat) (f : Partition → Partition) : (s.modPart p f).snaps = s.snaps := by
  unfold State.modPart; split <;> rfl
@[simp] theorem State.modPart_kv (p : Nat) (f : Partition → Partition) : (s.modPart p f).kv = s.kv := by
  unfold State.modPart; split <;> rfl
@[simp] theorem State.modPart_out (p : Nat) (f : Partition → Partition) : (s.modPart p f).out = s.out := by
  unfold State.modPart; split <;> rfl

-- setChan

@[simp] theorem State.setChan_pending (k : Nat) (v : Channel) : (s.setChan k v).pending = s.pending := rfl
@[simp] theorem State.setChan_free (k : Nat) (v : Channel) : (s.setChan k v).free = s.free := rfl
@[simp] theorem State.setChan_mem (k : Nat) (v : Channel) : (s.setChan k v).mem = s.mem := rfl
@[simp] theorem State.setChan_hostMem (k : Nat) (v : Channel) : (s.setChan k v).hostMem = s.hostMem := rfl
@[simp] theorem State.setChan_flash (k : Nat) (v : Channel) : (s.setChan k v).flash = s.flash := rfl
@[simp] theorem State.setChan_err (k : Nat) (v : Channel) : (s.setChan k v).err = s.err := rfl
@[simp] theorem State.setChan_fuse (k : Nat) (v : Channel) : (s.setChan k v).fuse = s.fuse := rfl
@[simp] theorem State.setChan_repair (k : Nat) (v : Channel) : (s.setChan k v).repair = s.repair := rfl
@[simp] theorem State.setChan_strap (k : Nat) (v : Channel) : (s.setChan k v).strap = s.strap := rfl
@[simp] theorem State.setChan_land (k : Nat) (v : Channel) : (s.setChan k v).land = s.land := rfl
@[simp] theorem State.setChan_pins (k : Nat) (v : Channel) : (s.setChan k v).pins = s.pins := rfl
@[simp] theorem State.setChan_dev (k : Nat) (v : Channel) : (s.setChan k v).dev = s.dev := rfl
@[simp] theorem State.setChan_boot (k : Nat) (v : Channel) : (s.setChan k v).boot = s.boot := rfl
@[simp] theorem State.setChan_clk (k : Nat) (v : Channel) : (s.setChan k v).clk = s.clk := rfl
@[simp] theorem State.setChan_time (k : Nat) (v : Channel) : (s.setChan k v).time = s.time := rfl
@[simp] theorem State.setChan_pwr (k : Nat) (v : Channel) : (s.setChan k v).pwr = s.pwr := rfl
@[simp] theorem State.setChan_thm (k : Nat) (v : Channel) : (s.setChan k v).thm = s.thm := rfl
@[simp] theorem State.setChan_ras (k : Nat) (v : Channel) : (s.setChan k v).ras = s.ras := rfl
@[simp] theorem State.setChan_sec (k : Nat) (v : Channel) : (s.setChan k v).sec = s.sec := rfl
@[simp] theorem State.setChan_lnk (k : Nat) (v : Channel) : (s.setChan k v).lnk = s.lnk := rfl
@[simp] theorem State.setChan_memc (k : Nat) (v : Channel) : (s.setChan k v).memc = s.memc := rfl
@[simp] theorem State.setChan_weevil (k : Nat) (v : Channel) : (s.setChan k v).weevil = s.weevil := rfl
@[simp] theorem State.setChan_tap (k : Nat) (v : Channel) : (s.setChan k v).tap = s.tap := rfl
@[simp] theorem State.setChan_core (k : Nat) (v : Channel) : (s.setChan k v).core = s.core := rfl
@[simp] theorem State.setChan_stream (k : Nat) (v : Channel) : (s.setChan k v).stream = s.stream := rfl
@[simp] theorem State.setChan_linkCorr (k : Nat) (v : Channel) : (s.setChan k v).linkCorr = s.linkCorr := rfl
@[simp] theorem State.setChan_turn (k : Nat) (v : Channel) : (s.setChan k v).turn = s.turn := rfl
@[simp] theorem State.setChan_routes (k : Nat) (v : Channel) : (s.setChan k v).routes = s.routes := rfl
@[simp] theorem State.setChan_region (k : Nat) (v : Channel) : (s.setChan k v).region = s.region := rfl
@[simp] theorem State.setChan_chim (k : Nat) (v : Channel) : (s.setChan k v).chim = s.chim := rfl
@[simp] theorem State.setChan_part (k : Nat) (v : Channel) : (s.setChan k v).part = s.part := rfl
@[simp] theorem State.setChan_bars (k : Nat) (v : Channel) : (s.setChan k v).bars = s.bars := rfl
@[simp] theorem State.setChan_snaps (k : Nat) (v : Channel) : (s.setChan k v).snaps = s.snaps := rfl
@[simp] theorem State.setChan_kv (k : Nat) (v : Channel) : (s.setChan k v).kv = s.kv := rfl
@[simp] theorem State.setChan_out (k : Nat) (v : Channel) : (s.setChan k v).out = s.out := rfl

-- modChan

@[simp] theorem State.modChan_pending (k : Nat) (f : Channel → Channel) : (s.modChan k f).pending = s.pending := rfl
@[simp] theorem State.modChan_free (k : Nat) (f : Channel → Channel) : (s.modChan k f).free = s.free := rfl
@[simp] theorem State.modChan_mem (k : Nat) (f : Channel → Channel) : (s.modChan k f).mem = s.mem := rfl
@[simp] theorem State.modChan_hostMem (k : Nat) (f : Channel → Channel) : (s.modChan k f).hostMem = s.hostMem := rfl
@[simp] theorem State.modChan_flash (k : Nat) (f : Channel → Channel) : (s.modChan k f).flash = s.flash := rfl
@[simp] theorem State.modChan_err (k : Nat) (f : Channel → Channel) : (s.modChan k f).err = s.err := rfl
@[simp] theorem State.modChan_fuse (k : Nat) (f : Channel → Channel) : (s.modChan k f).fuse = s.fuse := rfl
@[simp] theorem State.modChan_repair (k : Nat) (f : Channel → Channel) : (s.modChan k f).repair = s.repair := rfl
@[simp] theorem State.modChan_strap (k : Nat) (f : Channel → Channel) : (s.modChan k f).strap = s.strap := rfl
@[simp] theorem State.modChan_land (k : Nat) (f : Channel → Channel) : (s.modChan k f).land = s.land := rfl
@[simp] theorem State.modChan_pins (k : Nat) (f : Channel → Channel) : (s.modChan k f).pins = s.pins := rfl
@[simp] theorem State.modChan_dev (k : Nat) (f : Channel → Channel) : (s.modChan k f).dev = s.dev := rfl
@[simp] theorem State.modChan_boot (k : Nat) (f : Channel → Channel) : (s.modChan k f).boot = s.boot := rfl
@[simp] theorem State.modChan_clk (k : Nat) (f : Channel → Channel) : (s.modChan k f).clk = s.clk := rfl
@[simp] theorem State.modChan_time (k : Nat) (f : Channel → Channel) : (s.modChan k f).time = s.time := rfl
@[simp] theorem State.modChan_pwr (k : Nat) (f : Channel → Channel) : (s.modChan k f).pwr = s.pwr := rfl
@[simp] theorem State.modChan_thm (k : Nat) (f : Channel → Channel) : (s.modChan k f).thm = s.thm := rfl
@[simp] theorem State.modChan_ras (k : Nat) (f : Channel → Channel) : (s.modChan k f).ras = s.ras := rfl
@[simp] theorem State.modChan_sec (k : Nat) (f : Channel → Channel) : (s.modChan k f).sec = s.sec := rfl
@[simp] theorem State.modChan_lnk (k : Nat) (f : Channel → Channel) : (s.modChan k f).lnk = s.lnk := rfl
@[simp] theorem State.modChan_memc (k : Nat) (f : Channel → Channel) : (s.modChan k f).memc = s.memc := rfl
@[simp] theorem State.modChan_weevil (k : Nat) (f : Channel → Channel) : (s.modChan k f).weevil = s.weevil := rfl
@[simp] theorem State.modChan_tap (k : Nat) (f : Channel → Channel) : (s.modChan k f).tap = s.tap := rfl
@[simp] theorem State.modChan_core (k : Nat) (f : Channel → Channel) : (s.modChan k f).core = s.core := rfl
@[simp] theorem State.modChan_stream (k : Nat) (f : Channel → Channel) : (s.modChan k f).stream = s.stream := rfl
@[simp] theorem State.modChan_linkCorr (k : Nat) (f : Channel → Channel) : (s.modChan k f).linkCorr = s.linkCorr := rfl
@[simp] theorem State.modChan_turn (k : Nat) (f : Channel → Channel) : (s.modChan k f).turn = s.turn := rfl
@[simp] theorem State.modChan_routes (k : Nat) (f : Channel → Channel) : (s.modChan k f).routes = s.routes := rfl
@[simp] theorem State.modChan_region (k : Nat) (f : Channel → Channel) : (s.modChan k f).region = s.region := rfl
@[simp] theorem State.modChan_chim (k : Nat) (f : Channel → Channel) : (s.modChan k f).chim = s.chim := rfl
@[simp] theorem State.modChan_part (k : Nat) (f : Channel → Channel) : (s.modChan k f).part = s.part := rfl
@[simp] theorem State.modChan_bars (k : Nat) (f : Channel → Channel) : (s.modChan k f).bars = s.bars := rfl
@[simp] theorem State.modChan_snaps (k : Nat) (f : Channel → Channel) : (s.modChan k f).snaps = s.snaps := rfl
@[simp] theorem State.modChan_kv (k : Nat) (f : Channel → Channel) : (s.modChan k f).kv = s.kv := rfl
@[simp] theorem State.modChan_out (k : Nat) (f : Channel → Channel) : (s.modChan k f).out = s.out := rfl

-- modClk

@[simp] theorem State.modClk_pending (t : Nat) (f : TierClk → TierClk) : (s.modClk t f).pending = s.pending := rfl
@[simp] theorem State.modClk_free (t : Nat) (f : TierClk → TierClk) : (s.modClk t f).free = s.free := rfl
@[simp] theorem State.modClk_mem (t : Nat) (f : TierClk → TierClk) : (s.modClk t f).mem = s.mem := rfl
@[simp] theorem State.modClk_hostMem (t : Nat) (f : TierClk → TierClk) : (s.modClk t f).hostMem = s.hostMem := rfl
@[simp] theorem State.modClk_flash (t : Nat) (f : TierClk → TierClk) : (s.modClk t f).flash = s.flash := rfl
@[simp] theorem State.modClk_err (t : Nat) (f : TierClk → TierClk) : (s.modClk t f).err = s.err := rfl
@[simp] theorem State.modClk_fuse (t : Nat) (f : TierClk → TierClk) : (s.modClk t f).fuse = s.fuse := rfl
@[simp] theorem State.modClk_repair (t : Nat) (f : TierClk → TierClk) : (s.modClk t f).repair = s.repair := rfl
@[simp] theorem State.modClk_strap (t : Nat) (f : TierClk → TierClk) : (s.modClk t f).strap = s.strap := rfl
@[simp] theorem State.modClk_land (t : Nat) (f : TierClk → TierClk) : (s.modClk t f).land = s.land := rfl
@[simp] theorem State.modClk_pins (t : Nat) (f : TierClk → TierClk) : (s.modClk t f).pins = s.pins := rfl
@[simp] theorem State.modClk_dev (t : Nat) (f : TierClk → TierClk) : (s.modClk t f).dev = s.dev := rfl
@[simp] theorem State.modClk_boot (t : Nat) (f : TierClk → TierClk) : (s.modClk t f).boot = s.boot := rfl
@[simp] theorem State.modClk_hst (t : Nat) (f : TierClk → TierClk) : (s.modClk t f).hst = s.hst := rfl
@[simp] theorem State.modClk_time (t : Nat) (f : TierClk → TierClk) : (s.modClk t f).time = s.time := rfl
@[simp] theorem State.modClk_pwr (t : Nat) (f : TierClk → TierClk) : (s.modClk t f).pwr = s.pwr := rfl
@[simp] theorem State.modClk_thm (t : Nat) (f : TierClk → TierClk) : (s.modClk t f).thm = s.thm := rfl
@[simp] theorem State.modClk_ras (t : Nat) (f : TierClk → TierClk) : (s.modClk t f).ras = s.ras := rfl
@[simp] theorem State.modClk_sec (t : Nat) (f : TierClk → TierClk) : (s.modClk t f).sec = s.sec := rfl
@[simp] theorem State.modClk_lnk (t : Nat) (f : TierClk → TierClk) : (s.modClk t f).lnk = s.lnk := rfl
@[simp] theorem State.modClk_memc (t : Nat) (f : TierClk → TierClk) : (s.modClk t f).memc = s.memc := rfl
@[simp] theorem State.modClk_weevil (t : Nat) (f : TierClk → TierClk) : (s.modClk t f).weevil = s.weevil := rfl
@[simp] theorem State.modClk_tap (t : Nat) (f : TierClk → TierClk) : (s.modClk t f).tap = s.tap := rfl
@[simp] theorem State.modClk_core (t : Nat) (f : TierClk → TierClk) : (s.modClk t f).core = s.core := rfl
@[simp] theorem State.modClk_stream (t : Nat) (f : TierClk → TierClk) : (s.modClk t f).stream = s.stream := rfl
@[simp] theorem State.modClk_linkCorr (t : Nat) (f : TierClk → TierClk) : (s.modClk t f).linkCorr = s.linkCorr := rfl
@[simp] theorem State.modClk_turn (t : Nat) (f : TierClk → TierClk) : (s.modClk t f).turn = s.turn := rfl
@[simp] theorem State.modClk_routes (t : Nat) (f : TierClk → TierClk) : (s.modClk t f).routes = s.routes := rfl
@[simp] theorem State.modClk_region (t : Nat) (f : TierClk → TierClk) : (s.modClk t f).region = s.region := rfl
@[simp] theorem State.modClk_chim (t : Nat) (f : TierClk → TierClk) : (s.modClk t f).chim = s.chim := rfl
@[simp] theorem State.modClk_part (t : Nat) (f : TierClk → TierClk) : (s.modClk t f).part = s.part := rfl
@[simp] theorem State.modClk_bars (t : Nat) (f : TierClk → TierClk) : (s.modClk t f).bars = s.bars := rfl
@[simp] theorem State.modClk_snaps (t : Nat) (f : TierClk → TierClk) : (s.modClk t f).snaps = s.snaps := rfl
@[simp] theorem State.modClk_kv (t : Nat) (f : TierClk → TierClk) : (s.modClk t f).kv = s.kv := rfl
@[simp] theorem State.modClk_out (t : Nat) (f : TierClk → TierClk) : (s.modClk t f).out = s.out := rfl

-- modPwr

@[simp] theorem State.modPwr_pending (t : Nat) (f : TierPwr → TierPwr) : (s.modPwr t f).pending = s.pending := rfl
@[simp] theorem State.modPwr_free (t : Nat) (f : TierPwr → TierPwr) : (s.modPwr t f).free = s.free := rfl
@[simp] theorem State.modPwr_mem (t : Nat) (f : TierPwr → TierPwr) : (s.modPwr t f).mem = s.mem := rfl
@[simp] theorem State.modPwr_hostMem (t : Nat) (f : TierPwr → TierPwr) : (s.modPwr t f).hostMem = s.hostMem := rfl
@[simp] theorem State.modPwr_flash (t : Nat) (f : TierPwr → TierPwr) : (s.modPwr t f).flash = s.flash := rfl
@[simp] theorem State.modPwr_err (t : Nat) (f : TierPwr → TierPwr) : (s.modPwr t f).err = s.err := rfl
@[simp] theorem State.modPwr_fuse (t : Nat) (f : TierPwr → TierPwr) : (s.modPwr t f).fuse = s.fuse := rfl
@[simp] theorem State.modPwr_repair (t : Nat) (f : TierPwr → TierPwr) : (s.modPwr t f).repair = s.repair := rfl
@[simp] theorem State.modPwr_strap (t : Nat) (f : TierPwr → TierPwr) : (s.modPwr t f).strap = s.strap := rfl
@[simp] theorem State.modPwr_land (t : Nat) (f : TierPwr → TierPwr) : (s.modPwr t f).land = s.land := rfl
@[simp] theorem State.modPwr_pins (t : Nat) (f : TierPwr → TierPwr) : (s.modPwr t f).pins = s.pins := rfl
@[simp] theorem State.modPwr_dev (t : Nat) (f : TierPwr → TierPwr) : (s.modPwr t f).dev = s.dev := rfl
@[simp] theorem State.modPwr_boot (t : Nat) (f : TierPwr → TierPwr) : (s.modPwr t f).boot = s.boot := rfl
@[simp] theorem State.modPwr_hst (t : Nat) (f : TierPwr → TierPwr) : (s.modPwr t f).hst = s.hst := rfl
@[simp] theorem State.modPwr_clk (t : Nat) (f : TierPwr → TierPwr) : (s.modPwr t f).clk = s.clk := rfl
@[simp] theorem State.modPwr_time (t : Nat) (f : TierPwr → TierPwr) : (s.modPwr t f).time = s.time := rfl
@[simp] theorem State.modPwr_thm (t : Nat) (f : TierPwr → TierPwr) : (s.modPwr t f).thm = s.thm := rfl
@[simp] theorem State.modPwr_ras (t : Nat) (f : TierPwr → TierPwr) : (s.modPwr t f).ras = s.ras := rfl
@[simp] theorem State.modPwr_sec (t : Nat) (f : TierPwr → TierPwr) : (s.modPwr t f).sec = s.sec := rfl
@[simp] theorem State.modPwr_lnk (t : Nat) (f : TierPwr → TierPwr) : (s.modPwr t f).lnk = s.lnk := rfl
@[simp] theorem State.modPwr_memc (t : Nat) (f : TierPwr → TierPwr) : (s.modPwr t f).memc = s.memc := rfl
@[simp] theorem State.modPwr_weevil (t : Nat) (f : TierPwr → TierPwr) : (s.modPwr t f).weevil = s.weevil := rfl
@[simp] theorem State.modPwr_tap (t : Nat) (f : TierPwr → TierPwr) : (s.modPwr t f).tap = s.tap := rfl
@[simp] theorem State.modPwr_core (t : Nat) (f : TierPwr → TierPwr) : (s.modPwr t f).core = s.core := rfl
@[simp] theorem State.modPwr_stream (t : Nat) (f : TierPwr → TierPwr) : (s.modPwr t f).stream = s.stream := rfl
@[simp] theorem State.modPwr_linkCorr (t : Nat) (f : TierPwr → TierPwr) : (s.modPwr t f).linkCorr = s.linkCorr := rfl
@[simp] theorem State.modPwr_turn (t : Nat) (f : TierPwr → TierPwr) : (s.modPwr t f).turn = s.turn := rfl
@[simp] theorem State.modPwr_routes (t : Nat) (f : TierPwr → TierPwr) : (s.modPwr t f).routes = s.routes := rfl
@[simp] theorem State.modPwr_region (t : Nat) (f : TierPwr → TierPwr) : (s.modPwr t f).region = s.region := rfl
@[simp] theorem State.modPwr_chim (t : Nat) (f : TierPwr → TierPwr) : (s.modPwr t f).chim = s.chim := rfl
@[simp] theorem State.modPwr_part (t : Nat) (f : TierPwr → TierPwr) : (s.modPwr t f).part = s.part := rfl
@[simp] theorem State.modPwr_bars (t : Nat) (f : TierPwr → TierPwr) : (s.modPwr t f).bars = s.bars := rfl
@[simp] theorem State.modPwr_snaps (t : Nat) (f : TierPwr → TierPwr) : (s.modPwr t f).snaps = s.snaps := rfl
@[simp] theorem State.modPwr_kv (t : Nat) (f : TierPwr → TierPwr) : (s.modPwr t f).kv = s.kv := rfl
@[simp] theorem State.modPwr_out (t : Nat) (f : TierPwr → TierPwr) : (s.modPwr t f).out = s.out := rfl

-- modLayer

@[simp] theorem State.modLayer_pending (l : Nat) (f : Layer → Layer) : (s.modLayer l f).pending = s.pending := rfl
@[simp] theorem State.modLayer_free (l : Nat) (f : Layer → Layer) : (s.modLayer l f).free = s.free := rfl
@[simp] theorem State.modLayer_mem (l : Nat) (f : Layer → Layer) : (s.modLayer l f).mem = s.mem := rfl
@[simp] theorem State.modLayer_hostMem (l : Nat) (f : Layer → Layer) : (s.modLayer l f).hostMem = s.hostMem := rfl
@[simp] theorem State.modLayer_flash (l : Nat) (f : Layer → Layer) : (s.modLayer l f).flash = s.flash := rfl
@[simp] theorem State.modLayer_err (l : Nat) (f : Layer → Layer) : (s.modLayer l f).err = s.err := rfl
@[simp] theorem State.modLayer_fuse (l : Nat) (f : Layer → Layer) : (s.modLayer l f).fuse = s.fuse := rfl
@[simp] theorem State.modLayer_repair (l : Nat) (f : Layer → Layer) : (s.modLayer l f).repair = s.repair := rfl
@[simp] theorem State.modLayer_strap (l : Nat) (f : Layer → Layer) : (s.modLayer l f).strap = s.strap := rfl
@[simp] theorem State.modLayer_land (l : Nat) (f : Layer → Layer) : (s.modLayer l f).land = s.land := rfl
@[simp] theorem State.modLayer_pins (l : Nat) (f : Layer → Layer) : (s.modLayer l f).pins = s.pins := rfl
@[simp] theorem State.modLayer_dev (l : Nat) (f : Layer → Layer) : (s.modLayer l f).dev = s.dev := rfl
@[simp] theorem State.modLayer_boot (l : Nat) (f : Layer → Layer) : (s.modLayer l f).boot = s.boot := rfl
@[simp] theorem State.modLayer_hst (l : Nat) (f : Layer → Layer) : (s.modLayer l f).hst = s.hst := rfl
@[simp] theorem State.modLayer_clk (l : Nat) (f : Layer → Layer) : (s.modLayer l f).clk = s.clk := rfl
@[simp] theorem State.modLayer_time (l : Nat) (f : Layer → Layer) : (s.modLayer l f).time = s.time := rfl
@[simp] theorem State.modLayer_pwr (l : Nat) (f : Layer → Layer) : (s.modLayer l f).pwr = s.pwr := rfl
@[simp] theorem State.modLayer_ras (l : Nat) (f : Layer → Layer) : (s.modLayer l f).ras = s.ras := rfl
@[simp] theorem State.modLayer_sec (l : Nat) (f : Layer → Layer) : (s.modLayer l f).sec = s.sec := rfl
@[simp] theorem State.modLayer_lnk (l : Nat) (f : Layer → Layer) : (s.modLayer l f).lnk = s.lnk := rfl
@[simp] theorem State.modLayer_memc (l : Nat) (f : Layer → Layer) : (s.modLayer l f).memc = s.memc := rfl
@[simp] theorem State.modLayer_weevil (l : Nat) (f : Layer → Layer) : (s.modLayer l f).weevil = s.weevil := rfl
@[simp] theorem State.modLayer_tap (l : Nat) (f : Layer → Layer) : (s.modLayer l f).tap = s.tap := rfl
@[simp] theorem State.modLayer_core (l : Nat) (f : Layer → Layer) : (s.modLayer l f).core = s.core := rfl
@[simp] theorem State.modLayer_stream (l : Nat) (f : Layer → Layer) : (s.modLayer l f).stream = s.stream := rfl
@[simp] theorem State.modLayer_linkCorr (l : Nat) (f : Layer → Layer) : (s.modLayer l f).linkCorr = s.linkCorr := rfl
@[simp] theorem State.modLayer_turn (l : Nat) (f : Layer → Layer) : (s.modLayer l f).turn = s.turn := rfl
@[simp] theorem State.modLayer_routes (l : Nat) (f : Layer → Layer) : (s.modLayer l f).routes = s.routes := rfl
@[simp] theorem State.modLayer_region (l : Nat) (f : Layer → Layer) : (s.modLayer l f).region = s.region := rfl
@[simp] theorem State.modLayer_chim (l : Nat) (f : Layer → Layer) : (s.modLayer l f).chim = s.chim := rfl
@[simp] theorem State.modLayer_part (l : Nat) (f : Layer → Layer) : (s.modLayer l f).part = s.part := rfl
@[simp] theorem State.modLayer_bars (l : Nat) (f : Layer → Layer) : (s.modLayer l f).bars = s.bars := rfl
@[simp] theorem State.modLayer_snaps (l : Nat) (f : Layer → Layer) : (s.modLayer l f).snaps = s.snaps := rfl
@[simp] theorem State.modLayer_kv (l : Nat) (f : Layer → Layer) : (s.modLayer l f).kv = s.kv := rfl
@[simp] theorem State.modLayer_out (l : Nat) (f : Layer → Layer) : (s.modLayer l f).out = s.out := rfl

-- setPort

@[simp] theorem State.setPort_pending (p : Nat) (v : Port) : (s.setPort p v).pending = s.pending := rfl
@[simp] theorem State.setPort_free (p : Nat) (v : Port) : (s.setPort p v).free = s.free := rfl
@[simp] theorem State.setPort_mem (p : Nat) (v : Port) : (s.setPort p v).mem = s.mem := rfl
@[simp] theorem State.setPort_hostMem (p : Nat) (v : Port) : (s.setPort p v).hostMem = s.hostMem := rfl
@[simp] theorem State.setPort_flash (p : Nat) (v : Port) : (s.setPort p v).flash = s.flash := rfl
@[simp] theorem State.setPort_err (p : Nat) (v : Port) : (s.setPort p v).err = s.err := rfl
@[simp] theorem State.setPort_fuse (p : Nat) (v : Port) : (s.setPort p v).fuse = s.fuse := rfl
@[simp] theorem State.setPort_repair (p : Nat) (v : Port) : (s.setPort p v).repair = s.repair := rfl
@[simp] theorem State.setPort_strap (p : Nat) (v : Port) : (s.setPort p v).strap = s.strap := rfl
@[simp] theorem State.setPort_land (p : Nat) (v : Port) : (s.setPort p v).land = s.land := rfl
@[simp] theorem State.setPort_pins (p : Nat) (v : Port) : (s.setPort p v).pins = s.pins := rfl
@[simp] theorem State.setPort_dev (p : Nat) (v : Port) : (s.setPort p v).dev = s.dev := rfl
@[simp] theorem State.setPort_boot (p : Nat) (v : Port) : (s.setPort p v).boot = s.boot := rfl
@[simp] theorem State.setPort_hst (p : Nat) (v : Port) : (s.setPort p v).hst = s.hst := rfl
@[simp] theorem State.setPort_clk (p : Nat) (v : Port) : (s.setPort p v).clk = s.clk := rfl
@[simp] theorem State.setPort_time (p : Nat) (v : Port) : (s.setPort p v).time = s.time := rfl
@[simp] theorem State.setPort_pwr (p : Nat) (v : Port) : (s.setPort p v).pwr = s.pwr := rfl
@[simp] theorem State.setPort_thm (p : Nat) (v : Port) : (s.setPort p v).thm = s.thm := rfl
@[simp] theorem State.setPort_ras (p : Nat) (v : Port) : (s.setPort p v).ras = s.ras := rfl
@[simp] theorem State.setPort_sec (p : Nat) (v : Port) : (s.setPort p v).sec = s.sec := rfl
@[simp] theorem State.setPort_memc (p : Nat) (v : Port) : (s.setPort p v).memc = s.memc := rfl
@[simp] theorem State.setPort_weevil (p : Nat) (v : Port) : (s.setPort p v).weevil = s.weevil := rfl
@[simp] theorem State.setPort_tap (p : Nat) (v : Port) : (s.setPort p v).tap = s.tap := rfl
@[simp] theorem State.setPort_core (p : Nat) (v : Port) : (s.setPort p v).core = s.core := rfl
@[simp] theorem State.setPort_stream (p : Nat) (v : Port) : (s.setPort p v).stream = s.stream := rfl
@[simp] theorem State.setPort_linkCorr (p : Nat) (v : Port) : (s.setPort p v).linkCorr = s.linkCorr := rfl
@[simp] theorem State.setPort_turn (p : Nat) (v : Port) : (s.setPort p v).turn = s.turn := rfl
@[simp] theorem State.setPort_routes (p : Nat) (v : Port) : (s.setPort p v).routes = s.routes := rfl
@[simp] theorem State.setPort_region (p : Nat) (v : Port) : (s.setPort p v).region = s.region := rfl
@[simp] theorem State.setPort_chim (p : Nat) (v : Port) : (s.setPort p v).chim = s.chim := rfl
@[simp] theorem State.setPort_part (p : Nat) (v : Port) : (s.setPort p v).part = s.part := rfl
@[simp] theorem State.setPort_bars (p : Nat) (v : Port) : (s.setPort p v).bars = s.bars := rfl
@[simp] theorem State.setPort_snaps (p : Nat) (v : Port) : (s.setPort p v).snaps = s.snaps := rfl
@[simp] theorem State.setPort_kv (p : Nat) (v : Port) : (s.setPort p v).kv = s.kv := rfl
@[simp] theorem State.setPort_out (p : Nat) (v : Port) : (s.setPort p v).out = s.out := rfl

-- modPort

@[simp] theorem State.modPort_pending (p : Nat) (f : Port → Port) : (s.modPort p f).pending = s.pending := rfl
@[simp] theorem State.modPort_free (p : Nat) (f : Port → Port) : (s.modPort p f).free = s.free := rfl
@[simp] theorem State.modPort_mem (p : Nat) (f : Port → Port) : (s.modPort p f).mem = s.mem := rfl
@[simp] theorem State.modPort_hostMem (p : Nat) (f : Port → Port) : (s.modPort p f).hostMem = s.hostMem := rfl
@[simp] theorem State.modPort_flash (p : Nat) (f : Port → Port) : (s.modPort p f).flash = s.flash := rfl
@[simp] theorem State.modPort_err (p : Nat) (f : Port → Port) : (s.modPort p f).err = s.err := rfl
@[simp] theorem State.modPort_fuse (p : Nat) (f : Port → Port) : (s.modPort p f).fuse = s.fuse := rfl
@[simp] theorem State.modPort_repair (p : Nat) (f : Port → Port) : (s.modPort p f).repair = s.repair := rfl
@[simp] theorem State.modPort_strap (p : Nat) (f : Port → Port) : (s.modPort p f).strap = s.strap := rfl
@[simp] theorem State.modPort_land (p : Nat) (f : Port → Port) : (s.modPort p f).land = s.land := rfl
@[simp] theorem State.modPort_pins (p : Nat) (f : Port → Port) : (s.modPort p f).pins = s.pins := rfl
@[simp] theorem State.modPort_dev (p : Nat) (f : Port → Port) : (s.modPort p f).dev = s.dev := rfl
@[simp] theorem State.modPort_boot (p : Nat) (f : Port → Port) : (s.modPort p f).boot = s.boot := rfl
@[simp] theorem State.modPort_hst (p : Nat) (f : Port → Port) : (s.modPort p f).hst = s.hst := rfl
@[simp] theorem State.modPort_clk (p : Nat) (f : Port → Port) : (s.modPort p f).clk = s.clk := rfl
@[simp] theorem State.modPort_time (p : Nat) (f : Port → Port) : (s.modPort p f).time = s.time := rfl
@[simp] theorem State.modPort_pwr (p : Nat) (f : Port → Port) : (s.modPort p f).pwr = s.pwr := rfl
@[simp] theorem State.modPort_thm (p : Nat) (f : Port → Port) : (s.modPort p f).thm = s.thm := rfl
@[simp] theorem State.modPort_ras (p : Nat) (f : Port → Port) : (s.modPort p f).ras = s.ras := rfl
@[simp] theorem State.modPort_sec (p : Nat) (f : Port → Port) : (s.modPort p f).sec = s.sec := rfl
@[simp] theorem State.modPort_memc (p : Nat) (f : Port → Port) : (s.modPort p f).memc = s.memc := rfl
@[simp] theorem State.modPort_weevil (p : Nat) (f : Port → Port) : (s.modPort p f).weevil = s.weevil := rfl
@[simp] theorem State.modPort_tap (p : Nat) (f : Port → Port) : (s.modPort p f).tap = s.tap := rfl
@[simp] theorem State.modPort_core (p : Nat) (f : Port → Port) : (s.modPort p f).core = s.core := rfl
@[simp] theorem State.modPort_stream (p : Nat) (f : Port → Port) : (s.modPort p f).stream = s.stream := rfl
@[simp] theorem State.modPort_linkCorr (p : Nat) (f : Port → Port) : (s.modPort p f).linkCorr = s.linkCorr := rfl
@[simp] theorem State.modPort_turn (p : Nat) (f : Port → Port) : (s.modPort p f).turn = s.turn := rfl
@[simp] theorem State.modPort_routes (p : Nat) (f : Port → Port) : (s.modPort p f).routes = s.routes := rfl
@[simp] theorem State.modPort_region (p : Nat) (f : Port → Port) : (s.modPort p f).region = s.region := rfl
@[simp] theorem State.modPort_chim (p : Nat) (f : Port → Port) : (s.modPort p f).chim = s.chim := rfl
@[simp] theorem State.modPort_part (p : Nat) (f : Port → Port) : (s.modPort p f).part = s.part := rfl
@[simp] theorem State.modPort_bars (p : Nat) (f : Port → Port) : (s.modPort p f).bars = s.bars := rfl
@[simp] theorem State.modPort_snaps (p : Nat) (f : Port → Port) : (s.modPort p f).snaps = s.snaps := rfl
@[simp] theorem State.modPort_kv (p : Nat) (f : Port → Port) : (s.modPort p f).kv = s.kv := rfl
@[simp] theorem State.modPort_out (p : Nat) (f : Port → Port) : (s.modPort p f).out = s.out := rfl

-- setRef

@[simp] theorem State.setRef_pending (r : Ref) (v : RefIn) : (s.setRef r v).pending = s.pending := by
  cases r <;> rfl
@[simp] theorem State.setRef_free (r : Ref) (v : RefIn) : (s.setRef r v).free = s.free := by
  cases r <;> rfl
@[simp] theorem State.setRef_mem (r : Ref) (v : RefIn) : (s.setRef r v).mem = s.mem := by
  cases r <;> rfl
@[simp] theorem State.setRef_hostMem (r : Ref) (v : RefIn) : (s.setRef r v).hostMem = s.hostMem := by
  cases r <;> rfl
@[simp] theorem State.setRef_flash (r : Ref) (v : RefIn) : (s.setRef r v).flash = s.flash := by
  cases r <;> rfl
@[simp] theorem State.setRef_err (r : Ref) (v : RefIn) : (s.setRef r v).err = s.err := by
  cases r <;> rfl
@[simp] theorem State.setRef_fuse (r : Ref) (v : RefIn) : (s.setRef r v).fuse = s.fuse := by
  cases r <;> rfl
@[simp] theorem State.setRef_repair (r : Ref) (v : RefIn) : (s.setRef r v).repair = s.repair := by
  cases r <;> rfl
@[simp] theorem State.setRef_strap (r : Ref) (v : RefIn) : (s.setRef r v).strap = s.strap := by
  cases r <;> rfl
@[simp] theorem State.setRef_land (r : Ref) (v : RefIn) : (s.setRef r v).land = s.land := by
  cases r <;> rfl
@[simp] theorem State.setRef_pins (r : Ref) (v : RefIn) : (s.setRef r v).pins = s.pins := by
  cases r <;> rfl
@[simp] theorem State.setRef_dev (r : Ref) (v : RefIn) : (s.setRef r v).dev = s.dev := by
  cases r <;> rfl
@[simp] theorem State.setRef_boot (r : Ref) (v : RefIn) : (s.setRef r v).boot = s.boot := by
  cases r <;> rfl
@[simp] theorem State.setRef_hst (r : Ref) (v : RefIn) : (s.setRef r v).hst = s.hst := by
  cases r <;> rfl
@[simp] theorem State.setRef_time (r : Ref) (v : RefIn) : (s.setRef r v).time = s.time := by
  cases r <;> rfl
@[simp] theorem State.setRef_pwr (r : Ref) (v : RefIn) : (s.setRef r v).pwr = s.pwr := by
  cases r <;> rfl
@[simp] theorem State.setRef_thm (r : Ref) (v : RefIn) : (s.setRef r v).thm = s.thm := by
  cases r <;> rfl
@[simp] theorem State.setRef_ras (r : Ref) (v : RefIn) : (s.setRef r v).ras = s.ras := by
  cases r <;> rfl
@[simp] theorem State.setRef_sec (r : Ref) (v : RefIn) : (s.setRef r v).sec = s.sec := by
  cases r <;> rfl
@[simp] theorem State.setRef_lnk (r : Ref) (v : RefIn) : (s.setRef r v).lnk = s.lnk := by
  cases r <;> rfl
@[simp] theorem State.setRef_memc (r : Ref) (v : RefIn) : (s.setRef r v).memc = s.memc := by
  cases r <;> rfl
@[simp] theorem State.setRef_weevil (r : Ref) (v : RefIn) : (s.setRef r v).weevil = s.weevil := by
  cases r <;> rfl
@[simp] theorem State.setRef_tap (r : Ref) (v : RefIn) : (s.setRef r v).tap = s.tap := by
  cases r <;> rfl
@[simp] theorem State.setRef_core (r : Ref) (v : RefIn) : (s.setRef r v).core = s.core := by
  cases r <;> rfl
@[simp] theorem State.setRef_stream (r : Ref) (v : RefIn) : (s.setRef r v).stream = s.stream := by
  cases r <;> rfl
@[simp] theorem State.setRef_linkCorr (r : Ref) (v : RefIn) : (s.setRef r v).linkCorr = s.linkCorr := by
  cases r <;> rfl
@[simp] theorem State.setRef_turn (r : Ref) (v : RefIn) : (s.setRef r v).turn = s.turn := by
  cases r <;> rfl
@[simp] theorem State.setRef_routes (r : Ref) (v : RefIn) : (s.setRef r v).routes = s.routes := by
  cases r <;> rfl
@[simp] theorem State.setRef_region (r : Ref) (v : RefIn) : (s.setRef r v).region = s.region := by
  cases r <;> rfl
@[simp] theorem State.setRef_chim (r : Ref) (v : RefIn) : (s.setRef r v).chim = s.chim := by
  cases r <;> rfl
@[simp] theorem State.setRef_part (r : Ref) (v : RefIn) : (s.setRef r v).part = s.part := by
  cases r <;> rfl
@[simp] theorem State.setRef_bars (r : Ref) (v : RefIn) : (s.setRef r v).bars = s.bars := by
  cases r <;> rfl
@[simp] theorem State.setRef_snaps (r : Ref) (v : RefIn) : (s.setRef r v).snaps = s.snaps := by
  cases r <;> rfl
@[simp] theorem State.setRef_kv (r : Ref) (v : RefIn) : (s.setRef r v).kv = s.kv := by
  cases r <;> rfl
@[simp] theorem State.setRef_out (r : Ref) (v : RefIn) : (s.setRef r v).out = s.out := by
  cases r <;> rfl

-- draw

@[simp] theorem State.draw_pending : (s.draw).pending = s.pending := rfl
@[simp] theorem State.draw_mem : (s.draw).mem = s.mem := rfl
@[simp] theorem State.draw_hostMem : (s.draw).hostMem = s.hostMem := rfl
@[simp] theorem State.draw_flash : (s.draw).flash = s.flash := rfl
@[simp] theorem State.draw_err : (s.draw).err = s.err := rfl
@[simp] theorem State.draw_fuse : (s.draw).fuse = s.fuse := rfl
@[simp] theorem State.draw_repair : (s.draw).repair = s.repair := rfl
@[simp] theorem State.draw_strap : (s.draw).strap = s.strap := rfl
@[simp] theorem State.draw_land : (s.draw).land = s.land := rfl
@[simp] theorem State.draw_pins : (s.draw).pins = s.pins := rfl
@[simp] theorem State.draw_dev : (s.draw).dev = s.dev := rfl
@[simp] theorem State.draw_boot : (s.draw).boot = s.boot := rfl
@[simp] theorem State.draw_hst : (s.draw).hst = s.hst := rfl
@[simp] theorem State.draw_clk : (s.draw).clk = s.clk := rfl
@[simp] theorem State.draw_time : (s.draw).time = s.time := rfl
@[simp] theorem State.draw_pwr : (s.draw).pwr = s.pwr := rfl
@[simp] theorem State.draw_thm : (s.draw).thm = s.thm := rfl
@[simp] theorem State.draw_ras : (s.draw).ras = s.ras := rfl
@[simp] theorem State.draw_sec : (s.draw).sec = s.sec := rfl
@[simp] theorem State.draw_lnk : (s.draw).lnk = s.lnk := rfl
@[simp] theorem State.draw_memc : (s.draw).memc = s.memc := rfl
@[simp] theorem State.draw_weevil : (s.draw).weevil = s.weevil := rfl
@[simp] theorem State.draw_tap : (s.draw).tap = s.tap := rfl
@[simp] theorem State.draw_core : (s.draw).core = s.core := rfl
@[simp] theorem State.draw_stream : (s.draw).stream = s.stream := rfl
@[simp] theorem State.draw_linkCorr : (s.draw).linkCorr = s.linkCorr := rfl
@[simp] theorem State.draw_turn : (s.draw).turn = s.turn := rfl
@[simp] theorem State.draw_routes : (s.draw).routes = s.routes := rfl
@[simp] theorem State.draw_region : (s.draw).region = s.region := rfl
@[simp] theorem State.draw_chim : (s.draw).chim = s.chim := rfl
@[simp] theorem State.draw_part : (s.draw).part = s.part := rfl
@[simp] theorem State.draw_bars : (s.draw).bars = s.bars := rfl
@[simp] theorem State.draw_snaps : (s.draw).snaps = s.snaps := rfl
@[simp] theorem State.draw_kv : (s.draw).kv = s.kv := rfl
@[simp] theorem State.draw_out : (s.draw).out = s.out := rfl

-- The other fields of a block of which one table changes: Hst

@[simp] theorem State.setChan_hst_scanEn (k : Nat) (v : Channel) : (s.setChan k v).hst.scanEn = s.hst.scanEn := rfl
@[simp] theorem State.setChan_hst_scanning (k : Nat) (v : Channel) : (s.setChan k v).hst.scanning = s.hst.scanning := rfl
@[simp] theorem State.setChan_hst_scanResult (k : Nat) (v : Channel) : (s.setChan k v).hst.scanResult = s.hst.scanResult := rfl
@[simp] theorem State.setChan_hst_ignored (k : Nat) (v : Channel) : (s.setChan k v).hst.ignored = s.hst.ignored := rfl
@[simp] theorem State.setChan_hst_dbBase (k : Nat) (v : Channel) : (s.setChan k v).hst.dbBase = s.hst.dbBase := rfl
@[simp] theorem State.setChan_hst_dbPoll (k : Nat) (v : Channel) : (s.setChan k v).hst.dbPoll = s.hst.dbPoll := rfl
@[simp] theorem State.setChan_hst_ch0Sq (k : Nat) (v : Channel) : (s.setChan k v).hst.ch0Sq = s.hst.ch0Sq := rfl
@[simp] theorem State.setChan_hst_ch0Cq (k : Nat) (v : Channel) : (s.setChan k v).hst.ch0Cq = s.hst.ch0Cq := rfl
@[simp] theorem State.setChan_hst_ch0Cfg (k : Nat) (v : Channel) : (s.setChan k v).hst.ch0Cfg = s.hst.ch0Cfg := rfl
@[simp] theorem State.setChan_hst_linkUp (k : Nat) (v : Channel) : (s.setChan k v).hst.linkUp = s.hst.linkUp := rfl
@[simp] theorem State.setChan_hst_linkRate (k : Nat) (v : Channel) : (s.setChan k v).hst.linkRate = s.hst.linkRate := rfl
@[simp] theorem State.setChan_hst_linkWidth (k : Nat) (v : Channel) : (s.setChan k v).hst.linkWidth = s.hst.linkWidth := rfl
@[simp] theorem State.setChan_hst_busMaster (k : Nat) (v : Channel) : (s.setChan k v).hst.busMaster = s.hst.busMaster := rfl
@[simp] theorem State.setChan_hst_atomicEn (k : Nat) (v : Channel) : (s.setChan k v).hst.atomicEn = s.hst.atomicEn := rfl
@[simp] theorem State.setChan_hst_maxPayload (k : Nat) (v : Channel) : (s.setChan k v).hst.maxPayload = s.hst.maxPayload := rfl
@[simp] theorem State.setChan_hst_maxRead (k : Nat) (v : Channel) : (s.setChan k v).hst.maxRead = s.hst.maxRead := rfl
@[simp] theorem State.setChan_hst_bar2Log2 (k : Nat) (v : Channel) : (s.setChan k v).hst.bar2Log2 = s.hst.bar2Log2 := rfl
@[simp] theorem State.setChan_hst_d3hot (k : Nat) (v : Channel) : (s.setChan k v).hst.d3hot = s.hst.d3hot := rfl
@[simp] theorem State.setChan_hst_msixEn (k : Nat) (v : Channel) : (s.setChan k v).hst.msixEn = s.hst.msixEn := rfl
@[simp] theorem State.setChan_hst_msixMask (k : Nat) (v : Channel) : (s.setChan k v).hst.msixMask = s.hst.msixMask := rfl
@[simp] theorem State.setChan_hst_msix (k : Nat) (v : Channel) : (s.setChan k v).hst.msix = s.hst.msix := rfl
@[simp] theorem State.setChan_hst_pendingIrq (k : Nat) (v : Channel) : (s.setChan k v).hst.pendingIrq = s.hst.pendingIrq := rfl
@[simp] theorem State.setChan_hst_held (k : Nat) (v : Channel) : (s.setChan k v).hst.held = s.hst.held := rfl
@[simp] theorem State.setChan_hst_heldIrq (k : Nat) (v : Channel) : (s.setChan k v).hst.heldIrq = s.hst.heldIrq := rfl
@[simp] theorem State.setChan_hst_irqs (k : Nat) (v : Channel) : (s.setChan k v).hst.irqs = s.hst.irqs := rfl
@[simp] theorem State.modChan_hst_scanEn (k : Nat) (f : Channel → Channel) : (s.modChan k f).hst.scanEn = s.hst.scanEn := rfl
@[simp] theorem State.modChan_hst_scanning (k : Nat) (f : Channel → Channel) : (s.modChan k f).hst.scanning = s.hst.scanning := rfl
@[simp] theorem State.modChan_hst_scanResult (k : Nat) (f : Channel → Channel) : (s.modChan k f).hst.scanResult = s.hst.scanResult := rfl
@[simp] theorem State.modChan_hst_ignored (k : Nat) (f : Channel → Channel) : (s.modChan k f).hst.ignored = s.hst.ignored := rfl
@[simp] theorem State.modChan_hst_dbBase (k : Nat) (f : Channel → Channel) : (s.modChan k f).hst.dbBase = s.hst.dbBase := rfl
@[simp] theorem State.modChan_hst_dbPoll (k : Nat) (f : Channel → Channel) : (s.modChan k f).hst.dbPoll = s.hst.dbPoll := rfl
@[simp] theorem State.modChan_hst_ch0Sq (k : Nat) (f : Channel → Channel) : (s.modChan k f).hst.ch0Sq = s.hst.ch0Sq := rfl
@[simp] theorem State.modChan_hst_ch0Cq (k : Nat) (f : Channel → Channel) : (s.modChan k f).hst.ch0Cq = s.hst.ch0Cq := rfl
@[simp] theorem State.modChan_hst_ch0Cfg (k : Nat) (f : Channel → Channel) : (s.modChan k f).hst.ch0Cfg = s.hst.ch0Cfg := rfl
@[simp] theorem State.modChan_hst_linkUp (k : Nat) (f : Channel → Channel) : (s.modChan k f).hst.linkUp = s.hst.linkUp := rfl
@[simp] theorem State.modChan_hst_linkRate (k : Nat) (f : Channel → Channel) : (s.modChan k f).hst.linkRate = s.hst.linkRate := rfl
@[simp] theorem State.modChan_hst_linkWidth (k : Nat) (f : Channel → Channel) : (s.modChan k f).hst.linkWidth = s.hst.linkWidth := rfl
@[simp] theorem State.modChan_hst_busMaster (k : Nat) (f : Channel → Channel) : (s.modChan k f).hst.busMaster = s.hst.busMaster := rfl
@[simp] theorem State.modChan_hst_atomicEn (k : Nat) (f : Channel → Channel) : (s.modChan k f).hst.atomicEn = s.hst.atomicEn := rfl
@[simp] theorem State.modChan_hst_maxPayload (k : Nat) (f : Channel → Channel) : (s.modChan k f).hst.maxPayload = s.hst.maxPayload := rfl
@[simp] theorem State.modChan_hst_maxRead (k : Nat) (f : Channel → Channel) : (s.modChan k f).hst.maxRead = s.hst.maxRead := rfl
@[simp] theorem State.modChan_hst_bar2Log2 (k : Nat) (f : Channel → Channel) : (s.modChan k f).hst.bar2Log2 = s.hst.bar2Log2 := rfl
@[simp] theorem State.modChan_hst_d3hot (k : Nat) (f : Channel → Channel) : (s.modChan k f).hst.d3hot = s.hst.d3hot := rfl
@[simp] theorem State.modChan_hst_msixEn (k : Nat) (f : Channel → Channel) : (s.modChan k f).hst.msixEn = s.hst.msixEn := rfl
@[simp] theorem State.modChan_hst_msixMask (k : Nat) (f : Channel → Channel) : (s.modChan k f).hst.msixMask = s.hst.msixMask := rfl
@[simp] theorem State.modChan_hst_msix (k : Nat) (f : Channel → Channel) : (s.modChan k f).hst.msix = s.hst.msix := rfl
@[simp] theorem State.modChan_hst_pendingIrq (k : Nat) (f : Channel → Channel) : (s.modChan k f).hst.pendingIrq = s.hst.pendingIrq := rfl
@[simp] theorem State.modChan_hst_held (k : Nat) (f : Channel → Channel) : (s.modChan k f).hst.held = s.hst.held := rfl
@[simp] theorem State.modChan_hst_heldIrq (k : Nat) (f : Channel → Channel) : (s.modChan k f).hst.heldIrq = s.hst.heldIrq := rfl
@[simp] theorem State.modChan_hst_irqs (k : Nat) (f : Channel → Channel) : (s.modChan k f).hst.irqs = s.hst.irqs := rfl

-- The other fields of a block of which one table changes: Clk

@[simp] theorem State.modClk_clk_refA (t : Nat) (f : TierClk → TierClk) : (s.modClk t f).clk.refA = s.clk.refA := rfl
@[simp] theorem State.modClk_clk_refB (t : Nat) (f : TierClk → TierClk) : (s.modClk t f).clk.refB = s.clk.refB := rfl
@[simp] theorem State.modClk_clk_active (t : Nat) (f : TierClk → TierClk) : (s.modClk t f).clk.active = s.clk.active := rfl
@[simp] theorem State.modClk_clk_rootReleased (t : Nat) (f : TierClk → TierClk) : (s.modClk t f).clk.rootReleased = s.clk.rootReleased := rfl
@[simp] theorem State.modClk_clk_rootLocked (t : Nat) (f : TierClk → TierClk) : (s.modClk t f).clk.rootLocked = s.clk.rootLocked := rfl
@[simp] theorem State.modClk_clk_triedOther (t : Nat) (f : TierClk → TierClk) : (s.modClk t f).clk.triedOther = s.clk.triedOther := rfl
@[simp] theorem State.modClk_clk_holdover (t : Nat) (f : TierClk → TierClk) : (s.modClk t f).clk.holdover = s.clk.holdover := rfl
@[simp] theorem State.modClk_clk_switchTo (t : Nat) (f : TierClk → TierClk) : (s.modClk t f).clk.switchTo = s.clk.switchTo := rfl
@[simp] theorem State.modClk_clk_switchResult (t : Nat) (f : TierClk → TierClk) : (s.modClk t f).clk.switchResult = s.clk.switchResult := rfl
@[simp] theorem State.modClk_clk_timebaseLocked (t : Nat) (f : TierClk → TierClk) : (s.modClk t f).clk.timebaseLocked = s.clk.timebaseLocked := rfl
@[simp] theorem State.modClk_clk_autoFailover (t : Nat) (f : TierClk → TierClk) : (s.modClk t f).clk.autoFailover = s.clk.autoFailover := rfl
@[simp] theorem State.modClk_clk_stepCap (t : Nat) (f : TierClk → TierClk) : (s.modClk t f).clk.stepCap = s.clk.stepCap := rfl
@[simp] theorem State.modClk_clk_steps (t : Nat) (f : TierClk → TierClk) : (s.modClk t f).clk.steps = s.clk.steps := rfl
@[simp] theorem State.modClk_clk_deferred (t : Nat) (f : TierClk → TierClk) : (s.modClk t f).clk.deferred = s.clk.deferred := rfl

-- The other fields of a block of which one table changes: Pwr

@[simp] theorem State.modPwr_pwr_vbypOk (t : Nat) (f : TierPwr → TierPwr) : (s.modPwr t f).pwr.vbypOk = s.pwr.vbypOk := rfl
@[simp] theorem State.modPwr_pwr_vinLow (t : Nat) (f : TierPwr → TierPwr) : (s.modPwr t f).pwr.vinLow = s.pwr.vinLow := rfl
@[simp] theorem State.modPwr_pwr_balanced (t : Nat) (f : TierPwr → TierPwr) : (s.modPwr t f).pwr.balanced = s.pwr.balanced := rfl
@[simp] theorem State.modPwr_pwr_dramRailFailed (t : Nat) (f : TierPwr → TierPwr) : (s.modPwr t f).pwr.dramRailFailed = s.pwr.dramRailFailed := rfl
@[simp] theorem State.modPwr_pwr_devCap (t : Nat) (f : TierPwr → TierPwr) : (s.modPwr t f).pwr.devCap = s.pwr.devCap := rfl
@[simp] theorem State.modPwr_pwr_budget (t : Nat) (f : TierPwr → TierPwr) : (s.modPwr t f).pwr.budget = s.pwr.budget := rfl
@[simp] theorem State.modPwr_pwr_p1us (t : Nat) (f : TierPwr → TierPwr) : (s.modPwr t f).pwr.p1us = s.pwr.p1us := rfl
@[simp] theorem State.modPwr_pwr_p1ms (t : Nat) (f : TierPwr → TierPwr) : (s.modPwr t f).pwr.p1ms = s.pwr.p1ms := rfl
@[simp] theorem State.modPwr_pwr_p10ms (t : Nat) (f : TierPwr → TierPwr) : (s.modPwr t f).pwr.p10ms = s.pwr.p10ms := rfl
@[simp] theorem State.modPwr_pwr_vinMv (t : Nat) (f : TierPwr → TierPwr) : (s.modPwr t f).pwr.vinMv = s.pwr.vinMv := rfl
@[simp] theorem State.modPwr_pwr_gain (t : Nat) (f : TierPwr → TierPwr) : (s.modPwr t f).pwr.gain = s.pwr.gain := rfl
@[simp] theorem State.modPwr_pwr_droopMv (t : Nat) (f : TierPwr → TierPwr) : (s.modPwr t f).pwr.droopMv = s.pwr.droopMv := rfl
@[simp] theorem State.modPwr_pwr_deepMv (t : Nat) (f : TierPwr → TierPwr) : (s.modPwr t f).pwr.deepMv = s.pwr.deepMv := rfl
@[simp] theorem State.modPwr_pwr_droopNow (t : Nat) (f : TierPwr → TierPwr) : (s.modPwr t f).pwr.droopNow = s.pwr.droopNow := rfl
@[simp] theorem State.modPwr_pwr_deepNow (t : Nat) (f : TierPwr → TierPwr) : (s.modPwr t f).pwr.deepNow = s.pwr.deepNow := rfl
@[simp] theorem State.modPwr_pwr_admitted (t : Nat) (f : TierPwr → TierPwr) : (s.modPwr t f).pwr.admitted = s.pwr.admitted := rfl
@[simp] theorem State.modPwr_pwr_waited (t : Nat) (f : TierPwr → TierPwr) : (s.modPwr t f).pwr.waited = s.pwr.waited := rfl
@[simp] theorem State.modPwr_pwr_damped (t : Nat) (f : TierPwr → TierPwr) : (s.modPwr t f).pwr.damped = s.pwr.damped := rfl
@[simp] theorem State.modPwr_pwr_denied (t : Nat) (f : TierPwr → TierPwr) : (s.modPwr t f).pwr.denied = s.pwr.denied := rfl
@[simp] theorem State.modPwr_pwr_devInt (t : Nat) (f : TierPwr → TierPwr) : (s.modPwr t f).pwr.devInt = s.pwr.devInt := rfl
@[simp] theorem State.modPwr_pwr_partInt (t : Nat) (f : TierPwr → TierPwr) : (s.modPwr t f).pwr.partInt = s.pwr.partInt := rfl
@[simp] theorem State.modPwr_pwr_coreBubbles (t : Nat) (f : TierPwr → TierPwr) : (s.modPwr t f).pwr.coreBubbles = s.pwr.coreBubbles := rfl
@[simp] theorem State.modPwr_pwr_bubbleSum (t : Nat) (f : TierPwr → TierPwr) : (s.modPwr t f).pwr.bubbleSum = s.pwr.bubbleSum := rfl
@[simp] theorem State.modPwr_pwr_bubbleMs (t : Nat) (f : TierPwr → TierPwr) : (s.modPwr t f).pwr.bubbleMs = s.pwr.bubbleMs := rfl
@[simp] theorem State.modPwr_pwr_jobs (t : Nat) (f : TierPwr → TierPwr) : (s.modPwr t f).pwr.jobs = s.pwr.jobs := rfl
@[simp] theorem State.modPwr_pwr_period (t : Nat) (f : TierPwr → TierPwr) : (s.modPwr t f).pwr.period = s.pwr.period := rfl

-- The other fields of a block of which one table changes: Thm

@[simp] theorem State.modLayer_thm_report (l : Nat) (f : Layer → Layer) : (s.modLayer l f).thm.report = s.thm.report := rfl
@[simp] theorem State.modLayer_thm_reportSeq (l : Nat) (f : Layer → Layer) : (s.modLayer l f).thm.reportSeq = s.thm.reportSeq := rfl
@[simp] theorem State.modLayer_thm_lastSeq (l : Nat) (f : Layer → Layer) : (s.modLayer l f).thm.lastSeq = s.thm.lastSeq := rfl
@[simp] theorem State.modLayer_thm_coolantValid (l : Nat) (f : Layer → Layer) : (s.modLayer l f).thm.coolantValid = s.thm.coolantValid := rfl
@[simp] theorem State.modLayer_thm_coolantRange (l : Nat) (f : Layer → Layer) : (s.modLayer l f).thm.coolantRange = s.thm.coolantRange := rfl
@[simp] theorem State.modLayer_thm_inExcursion (l : Nat) (f : Layer → Layer) : (s.modLayer l f).thm.inExcursion = s.thm.inExcursion := rfl
@[simp] theorem State.modLayer_thm_heatMismatch (l : Nat) (f : Layer → Layer) : (s.modLayer l f).thm.heatMismatch = s.thm.heatMismatch := rfl
@[simp] theorem State.modLayer_thm_mismatchRun (l : Nat) (f : Layer → Layer) : (s.modLayer l f).thm.mismatchRun = s.thm.mismatchRun := rfl
@[simp] theorem State.modLayer_thm_thermtrip (l : Nat) (f : Layer → Layer) : (s.modLayer l f).thm.thermtrip = s.thm.thermtrip := rfl
@[simp] theorem State.modLayer_thm_heatW (l : Nat) (f : Layer → Layer) : (s.modLayer l f).thm.heatW = s.thm.heatW := rfl
@[simp] theorem State.modLayer_thm_elecW (l : Nat) (f : Layer → Layer) : (s.modLayer l f).thm.elecW = s.thm.elecW := rfl
@[simp] theorem State.modLayer_thm_acceptedAt (l : Nat) (f : Layer → Layer) : (s.modLayer l f).thm.acceptedAt = s.thm.acceptedAt := rfl
@[simp] theorem State.modLayer_thm_coolantLost (l : Nat) (f : Layer → Layer) : (s.modLayer l f).thm.coolantLost = s.thm.coolantLost := rfl
@[simp] theorem State.modLayer_thm_computeThrottle (l : Nat) (f : Layer → Layer) : (s.modLayer l f).thm.computeThrottle = s.thm.computeThrottle := rfl
@[simp] theorem State.modLayer_thm_dramThrottle (l : Nat) (f : Layer → Layer) : (s.modLayer l f).thm.dramThrottle = s.thm.dramThrottle := rfl
@[simp] theorem State.modLayer_thm_badSensors (l : Nat) (f : Layer → Layer) : (s.modLayer l f).thm.badSensors = s.thm.badSensors := rfl
@[simp] theorem State.modLayer_thm_ageing (l : Nat) (f : Layer → Layer) : (s.modLayer l f).thm.ageing = s.thm.ageing := rfl
@[simp] theorem State.modLayer_thm_ceLast (l : Nat) (f : Layer → Layer) : (s.modLayer l f).thm.ceLast = s.thm.ceLast := rfl
@[simp] theorem State.modLayer_thm_ceHist (l : Nat) (f : Layer → Layer) : (s.modLayer l f).thm.ceHist = s.thm.ceHist := rfl
@[simp] theorem State.modLayer_thm_poweredHours (l : Nat) (f : Layer → Layer) : (s.modLayer l f).thm.poweredHours = s.thm.poweredHours := rfl
@[simp] theorem State.modLayer_thm_modelRuns (l : Nat) (f : Layer → Layer) : (s.modLayer l f).thm.modelRuns = s.thm.modelRuns := rfl
@[simp] theorem State.modLayer_thm_hearthCut (l : Nat) (f : Layer → Layer) : (s.modLayer l f).thm.hearthCut = s.thm.hearthCut := rfl

-- The other fields of a block of which one table changes: Lnk

@[simp] theorem State.setPort_lnk_invGen (p : Nat) (v : Port) : (s.setPort p v).lnk.invGen = s.lnk.invGen := rfl
@[simp] theorem State.setPort_lnk_retrainRefused (p : Nat) (v : Port) : (s.setPort p v).lnk.retrainRefused = s.lnk.retrainRefused := rfl
@[simp] theorem State.setPort_lnk_tray (p : Nat) (v : Port) : (s.setPort p v).lnk.tray = s.lnk.tray := rfl
@[simp] theorem State.setPort_lnk_lock (p : Nat) (v : Port) : (s.setPort p v).lnk.lock = s.lnk.lock := rfl
@[simp] theorem State.setPort_lnk_nTrays (p : Nat) (v : Port) : (s.setPort p v).lnk.nTrays = s.lnk.nTrays := rfl
@[simp] theorem State.setPort_lnk_tree (p : Nat) (v : Port) : (s.setPort p v).lnk.tree = s.lnk.tree := rfl
@[simp] theorem State.modPort_lnk_invGen (p : Nat) (f : Port → Port) : (s.modPort p f).lnk.invGen = s.lnk.invGen := rfl
@[simp] theorem State.modPort_lnk_retrainRefused (p : Nat) (f : Port → Port) : (s.modPort p f).lnk.retrainRefused = s.lnk.retrainRefused := rfl
@[simp] theorem State.modPort_lnk_tray (p : Nat) (f : Port → Port) : (s.modPort p f).lnk.tray = s.lnk.tray := rfl
@[simp] theorem State.modPort_lnk_lock (p : Nat) (f : Port → Port) : (s.modPort p f).lnk.lock = s.lnk.lock := rfl
@[simp] theorem State.modPort_lnk_nTrays (p : Nat) (f : Port → Port) : (s.modPort p f).lnk.nTrays = s.lnk.nTrays := rfl
@[simp] theorem State.modPort_lnk_tree (p : Nat) (f : Port → Port) : (s.modPort p f).lnk.tree = s.lnk.tree := rfl

-- What an update writes reads back, and the other entries of its table stay

@[simp] theorem State.draw_free : s.draw.free = s.free + 1 := rfl

@[simp] theorem State.coreAt_setCore (c : Nat) (v : Core) : (s.setCore c v).coreAt c = v := mget_mset_same _ _ _ _
theorem State.coreAt_setCore_ne (c j : Nat) (v : Core) (h : j ≠ c) : (s.setCore c v).coreAt j = s.coreAt j :=
  mget_mset_ne _ _ _ _ _ h
@[simp] theorem State.coreAt_modCore (c : Nat) (f : Core → Core) : (s.modCore c f).coreAt c = f (s.coreAt c) :=
  mget_mset_same _ _ _ _
theorem State.coreAt_modCore_ne (c j : Nat) (f : Core → Core) (h : j ≠ c) : (s.modCore c f).coreAt j = s.coreAt j :=
  mget_mset_ne _ _ _ _ _ h
@[simp] theorem State.streamAt_setStream (k : Nat) (v : Stream) : (s.setStream k v).streamAt k = v := mget_mset_same _ _ _ _
theorem State.streamAt_setStream_ne (k j : Nat) (v : Stream) (h : j ≠ k) : (s.setStream k v).streamAt j = s.streamAt j :=
  mget_mset_ne _ _ _ _ _ h
@[simp] theorem State.streamAt_modStream (k : Nat) (f : Stream → Stream) : (s.modStream k f).streamAt k = f (s.streamAt k) :=
  mget_mset_same _ _ _ _
theorem State.streamAt_modStream_ne (k j : Nat) (f : Stream → Stream) (h : j ≠ k) : (s.modStream k f).streamAt j = s.streamAt j :=
  mget_mset_ne _ _ _ _ _ h
@[simp] theorem State.regionAt_setRegion (c : Nat) (v : Region) : (s.setRegion c v).regionAt c = v := mget_mset_same _ _ _ _
theorem State.regionAt_setRegion_ne (c j : Nat) (v : Region) (h : j ≠ c) : (s.setRegion c v).regionAt j = s.regionAt j :=
  mget_mset_ne _ _ _ _ _ h
@[simp] theorem State.regionAt_modRegion (c : Nat) (f : Region → Region) : (s.modRegion c f).regionAt c = f (s.regionAt c) :=
  mget_mset_same _ _ _ _
theorem State.regionAt_modRegion_ne (c j : Nat) (f : Region → Region) (h : j ≠ c) : (s.modRegion c f).regionAt j = s.regionAt j :=
  mget_mset_ne _ _ _ _ _ h
@[simp] theorem State.chimAt_setChim (c : Nat) (v : Chimney) : (s.setChim c v).chimAt c = v := mget_mset_same _ _ _ _
theorem State.chimAt_setChim_ne (c j : Nat) (v : Chimney) (h : j ≠ c) : (s.setChim c v).chimAt j = s.chimAt j :=
  mget_mset_ne _ _ _ _ _ h
@[simp] theorem State.chanAt_setChan (k : Nat) (v : Channel) : (s.setChan k v).chanAt k = v := mget_mset_same _ _ _ _
theorem State.chanAt_setChan_ne (k j : Nat) (v : Channel) (h : j ≠ k) : (s.setChan k v).chanAt j = s.chanAt j :=
  mget_mset_ne _ _ _ _ _ h
@[simp] theorem State.chanAt_modChan (k : Nat) (f : Channel → Channel) : (s.modChan k f).chanAt k = f (s.chanAt k) :=
  mget_mset_same _ _ _ _
theorem State.chanAt_modChan_ne (k j : Nat) (f : Channel → Channel) (h : j ≠ k) : (s.modChan k f).chanAt j = s.chanAt j :=
  mget_mset_ne _ _ _ _ _ h
@[simp] theorem State.portAt_setPort (p : Nat) (v : Port) : (s.setPort p v).portAt p = v := mget_mset_same _ _ _ _
theorem State.portAt_setPort_ne (p j : Nat) (v : Port) (h : j ≠ p) : (s.setPort p v).portAt j = s.portAt j :=
  mget_mset_ne _ _ _ _ _ h
@[simp] theorem State.portAt_modPort (p : Nat) (f : Port → Port) : (s.modPort p f).portAt p = f (s.portAt p) :=
  mget_mset_same _ _ _ _
theorem State.portAt_modPort_ne (p j : Nat) (f : Port → Port) (h : j ≠ p) : (s.modPort p f).portAt j = s.portAt j :=
  mget_mset_ne _ _ _ _ _ h
@[simp] theorem State.clkAt_modClk (t : Nat) (f : TierClk → TierClk) : (s.modClk t f).clkAt t = f (s.clkAt t) :=
  mget_mset_same _ _ _ _
theorem State.clkAt_modClk_ne (t j : Nat) (f : TierClk → TierClk) (h : j ≠ t) : (s.modClk t f).clkAt j = s.clkAt j :=
  mget_mset_ne _ _ _ _ _ h
@[simp] theorem State.pwrAt_modPwr (t : Nat) (f : TierPwr → TierPwr) : (s.modPwr t f).pwrAt t = f (s.pwrAt t) :=
  mget_mset_same _ _ _ _
theorem State.pwrAt_modPwr_ne (t j : Nat) (f : TierPwr → TierPwr) (h : j ≠ t) : (s.modPwr t f).pwrAt j = s.pwrAt j :=
  mget_mset_ne _ _ _ _ _ h
@[simp] theorem State.layerAt_modLayer (l : Nat) (f : Layer → Layer) : (s.modLayer l f).layerAt l = f (s.layerAt l) :=
  mget_mset_same _ _ _ _
theorem State.layerAt_modLayer_ne (l j : Nat) (f : Layer → Layer) (h : j ≠ l) : (s.modLayer l f).layerAt j = s.layerAt j :=
  mget_mset_ne _ _ _ _ _ h
@[simp] theorem State.part?_setPart (p : Nat) (v : Partition) : (s.setPart p v).part? p = some v := mget?_mput_same _ _ _
theorem State.part?_setPart_ne (p q : Nat) (v : Partition) (h : q ≠ p) : (s.setPart p v).part? q = s.part? q :=
  mget?_mput_ne _ _ _ _ h
theorem State.modPart_of_some {s : State} {p : Nat} {v : Partition} (f : Partition → Partition) (h : s.part? p = some v) :
    s.modPart p f = s.setPart p (f v) := by
  simp only [State.modPart, h]
theorem State.modPart_of_none {s : State} {p : Nat} (f : Partition → Partition) (h : s.part? p = none) : s.modPart p f = s := by
  simp only [State.modPart, h]
@[simp] theorem State.nbuAt_setNbu (c n : Nat) (v : Nbu) : (s.setNbu c n v).nbuAt c n = v := by
  simp [State.nbuAt, State.setNbu]
@[simp] theorem State.nbuAt_modNbu (c n : Nat) (f : Nbu → Nbu) : (s.modNbu c n f).nbuAt c n = f (s.nbuAt c n) :=
  State.nbuAt_setNbu s c n _
theorem State.nbuAt_setNbu_ne (c n m : Nat) (v : Nbu) (h : m ≠ n) : (s.setNbu c n v).nbuAt c m = s.nbuAt c m := by
  simp [State.nbuAt, State.setNbu, mget_mset_ne _ _ _ _ _ h]

end Sys2Proof.Machine
end

