-- ==== Sys2Proof/Laws/Stays.lean ====
section
/-! SUPPORT. The frame of every operation of the machine. `Stays L a s` says of a state s that operations reached from a state a:
every field of State that is not in the list L is as it was; the queue of commands, the lands and the flash banks are as they
were whatever L holds; and the memories of the device and of its host keep their canonical form. The lemmas here carry it
through the constructs that operations are built of. -/

set_option Elab.async false

namespace Sys2Proof.Machine

/-- A list of fields lies within another. -/
structure Sub (T L : List Field) : Prop where
  mem : ∀ F, F ∈ T → F ∈ L

theorem Sub.refl (L : List Field) : Sub L L := ⟨fun _ h => h⟩
theorem Sub.of {T T' L : List Field} (h : Sub T L) (e : (T'.all fun F => T.contains F) = true) : Sub T' L :=
  ⟨fun F k => h.mem F (List.contains_iff_mem.mp (List.all_eq_true.mp e F k))⟩
theorem Sub.has {T L : List Field} {F : Field} (h : Sub T L) (e : T.contains F = true) : F ∈ L := h.mem F (List.contains_iff_mem.mp e)

/-- A state s, reached from a state a, differs from it in fields of L only, and keeps the form of its memories. -/
structure Stays (L : List Field) (a s : State) : Prop where
  pending : s.pending = a.pending
  flash : s.flash = a.flash
  land : s.land = a.land
  frame : ∀ F, F ∉ L → F.same a s
  wfMem : Mem.wf a.mem = true → Mem.wf s.mem = true
  wfHost : Mem.wf a.hostMem = true → Mem.wf s.hostMem = true

theorem Stays.refl (L : List Field) (s : State) : Stays L s s := ⟨rfl, rfl, rfl, fun F _ => by cases F <;> rfl, id, id⟩

variable {L : List Field} {a s : State}

/-- A record update: each field is as it was, or lies in the list. -/
theorem Stays.record {T : List Field} {free mem hostMem err fuse repair strap pins dev boot hst clk time pwr thm ras sec lnk memc weevil tap core stream linkCorr turn routes region chim part bars snaps kv out : _} (h : Stays L a s) (hL : Sub T L)
    (kfree : T.contains Field.free = true ∨ free = s.free := by first | exact Or.inl rfl | exact Or.inr rfl)
    (kmem : T.contains Field.mem = true ∨ mem = s.mem := by first | exact Or.inl rfl | exact Or.inr rfl)
    (khostMem : T.contains Field.hostMem = true ∨ hostMem = s.hostMem := by first | exact Or.inl rfl | exact Or.inr rfl)
    (kerr : T.contains Field.err = true ∨ err = s.err := by first | exact Or.inl rfl | exact Or.inr rfl)
    (kfuse : T.contains Field.fuse = true ∨ fuse = s.fuse := by first | exact Or.inl rfl | exact Or.inr rfl)
    (krepair : T.contains Field.repair = true ∨ repair = s.repair := by first | exact Or.inl rfl | exact Or.inr rfl)
    (kstrap : T.contains Field.strap = true ∨ strap = s.strap := by first | exact Or.inl rfl | exact Or.inr rfl)
    (kpins : T.contains Field.pins = true ∨ pins = s.pins := by first | exact Or.inl rfl | exact Or.inr rfl)
    (kdev : T.contains Field.dev = true ∨ dev = s.dev := by first | exact Or.inl rfl | exact Or.inr rfl)
    (kboot : T.contains Field.boot = true ∨ boot = s.boot := by first | exact Or.inl rfl | exact Or.inr rfl)
    (khst : T.contains Field.hst = true ∨ hst = s.hst := by first | exact Or.inl rfl | exact Or.inr rfl)
    (kclk : T.contains Field.clk = true ∨ clk = s.clk := by first | exact Or.inl rfl | exact Or.inr rfl)
    (ktime : T.contains Field.time = true ∨ time = s.time := by first | exact Or.inl rfl | exact Or.inr rfl)
    (kpwr : T.contains Field.pwr = true ∨ pwr = s.pwr := by first | exact Or.inl rfl | exact Or.inr rfl)
    (kthm : T.contains Field.thm = true ∨ thm = s.thm := by first | exact Or.inl rfl | exact Or.inr rfl)
    (kras : T.contains Field.ras = true ∨ ras = s.ras := by first | exact Or.inl rfl | exact Or.inr rfl)
    (ksec : T.contains Field.sec = true ∨ sec = s.sec := by first | exact Or.inl rfl | exact Or.inr rfl)
    (klnk : T.contains Field.lnk = true ∨ lnk = s.lnk := by first | exact Or.inl rfl | exact Or.inr rfl)
    (kmemc : T.contains Field.memc = true ∨ memc = s.memc := by first | exact Or.inl rfl | exact Or.inr rfl)
    (kweevil : T.contains Field.weevil = true ∨ weevil = s.weevil := by first | exact Or.inl rfl | exact Or.inr rfl)
    (ktap : T.contains Field.tap = true ∨ tap = s.tap := by first | exact Or.inl rfl | exact Or.inr rfl)
    (kcore : T.contains Field.core = true ∨ core = s.core := by first | exact Or.inl rfl | exact Or.inr rfl)
    (kstream : T.contains Field.stream = true ∨ stream = s.stream := by first | exact Or.inl rfl | exact Or.inr rfl)
    (klinkCorr : T.contains Field.linkCorr = true ∨ linkCorr = s.linkCorr := by first | exact Or.inl rfl | exact Or.inr rfl)
    (kturn : T.contains Field.turn = true ∨ turn = s.turn := by first | exact Or.inl rfl | exact Or.inr rfl)
    (kroutes : T.contains Field.routes = true ∨ routes = s.routes := by first | exact Or.inl rfl | exact Or.inr rfl)
    (kregion : T.contains Field.region = true ∨ region = s.region := by first | exact Or.inl rfl | exact Or.inr rfl)
    (kchim : T.contains Field.chim = true ∨ chim = s.chim := by first | exact Or.inl rfl | exact Or.inr rfl)
    (kpart : T.contains Field.part = true ∨ part = s.part := by first | exact Or.inl rfl | exact Or.inr rfl)
    (kbars : T.contains Field.bars = true ∨ bars = s.bars := by first | exact Or.inl rfl | exact Or.inr rfl)
    (ksnaps : T.contains Field.snaps = true ∨ snaps = s.snaps := by first | exact Or.inl rfl | exact Or.inr rfl)
    (kkv : T.contains Field.kv = true ∨ kv = s.kv := by first | exact Or.inl rfl | exact Or.inr rfl)
    (kout : T.contains Field.out = true ∨ out = s.out := by first | exact Or.inl rfl | exact Or.inr rfl)
    (wm : Mem.wf s.mem = true → Mem.wf mem = true := by exact id) (wh : Mem.wf s.hostMem = true → Mem.wf hostMem = true := by exact id) :
    Stays L a (State.mk s.pending free mem hostMem s.flash err fuse repair strap s.land pins dev boot hst clk time pwr thm ras sec lnk memc
      weevil tap core stream linkCorr turn routes region chim part bars snaps kv out) where
  pending := h.pending
  flash := h.flash
  land := h.land
  frame := by
    intro F hF
    cases F with
    | free => exact kfree.elim (fun m => absurd (hL.has m) hF) (fun e => e.trans (h.frame .free hF))
    | mem => exact kmem.elim (fun m => absurd (hL.has m) hF) (fun e => e.trans (h.frame .mem hF))
    | hostMem => exact khostMem.elim (fun m => absurd (hL.has m) hF) (fun e => e.trans (h.frame .hostMem hF))
    | err => exact kerr.elim (fun m => absurd (hL.has m) hF) (fun e => e.trans (h.frame .err hF))
    | fuse => exact kfuse.elim (fun m => absurd (hL.has m) hF) (fun e => e.trans (h.frame .fuse hF))
    | repair => exact krepair.elim (fun m => absurd (hL.has m) hF) (fun e => e.trans (h.frame .repair hF))
    | strap => exact kstrap.elim (fun m => absurd (hL.has m) hF) (fun e => e.trans (h.frame .strap hF))
    | pins => exact kpins.elim (fun m => absurd (hL.has m) hF) (fun e => e.trans (h.frame .pins hF))
    | dev => exact kdev.elim (fun m => absurd (hL.has m) hF) (fun e => e.trans (h.frame .dev hF))
    | boot => exact kboot.elim (fun m => absurd (hL.has m) hF) (fun e => e.trans (h.frame .boot hF))
    | hst => exact khst.elim (fun m => absurd (hL.has m) hF) (fun e => e.trans (h.frame .hst hF))
    | clk => exact kclk.elim (fun m => absurd (hL.has m) hF) (fun e => e.trans (h.frame .clk hF))
    | time => exact ktime.elim (fun m => absurd (hL.has m) hF) (fun e => e.trans (h.frame .time hF))
    | pwr => exact kpwr.elim (fun m => absurd (hL.has m) hF) (fun e => e.trans (h.frame .pwr hF))
    | thm => exact kthm.elim (fun m => absurd (hL.has m) hF) (fun e => e.trans (h.frame .thm hF))
    | ras => exact kras.elim (fun m => absurd (hL.has m) hF) (fun e => e.trans (h.frame .ras hF))
    | sec => exact ksec.elim (fun m => absurd (hL.has m) hF) (fun e => e.trans (h.frame .sec hF))
    | lnk => exact klnk.elim (fun m => absurd (hL.has m) hF) (fun e => e.trans (h.frame .lnk hF))
    | memc => exact kmemc.elim (fun m => absurd (hL.has m) hF) (fun e => e.trans (h.frame .memc hF))
    | weevil => exact kweevil.elim (fun m => absurd (hL.has m) hF) (fun e => e.trans (h.frame .weevil hF))
    | tap => exact ktap.elim (fun m => absurd (hL.has m) hF) (fun e => e.trans (h.frame .tap hF))
    | core => exact kcore.elim (fun m => absurd (hL.has m) hF) (fun e => e.trans (h.frame .core hF))
    | stream => exact kstream.elim (fun m => absurd (hL.has m) hF) (fun e => e.trans (h.frame .stream hF))
    | linkCorr => exact klinkCorr.elim (fun m => absurd (hL.has m) hF) (fun e => e.trans (h.frame .linkCorr hF))
    | turn => exact kturn.elim (fun m => absurd (hL.has m) hF) (fun e => e.trans (h.frame .turn hF))
    | routes => exact kroutes.elim (fun m => absurd (hL.has m) hF) (fun e => e.trans (h.frame .routes hF))
    | region => exact kregion.elim (fun m => absurd (hL.has m) hF) (fun e => e.trans (h.frame .region hF))
    | chim => exact kchim.elim (fun m => absurd (hL.has m) hF) (fun e => e.trans (h.frame .chim hF))
    | part => exact kpart.elim (fun m => absurd (hL.has m) hF) (fun e => e.trans (h.frame .part hF))
    | bars => exact kbars.elim (fun m => absurd (hL.has m) hF) (fun e => e.trans (h.frame .bars hF))
    | snaps => exact ksnaps.elim (fun m => absurd (hL.has m) hF) (fun e => e.trans (h.frame .snaps hF))
    | kv => exact kkv.elim (fun m => absurd (hL.has m) hF) (fun e => e.trans (h.frame .kv hF))
    | out => exact kout.elim (fun m => absurd (hL.has m) hF) (fun e => e.trans (h.frame .out hF))
  wfMem := fun w => wm (h.wfMem w)
  wfHost := fun w => wh (h.wfHost w)

-- The kinds of result

/-- A pair with the state first. -/
def PStays {α : Type} (L : List Field) (a : State) (p : State × α) : Prop := Stays L a p.1
/-- A pair with the state last. -/
def QStays {α : Type} (L : List Field) (a : State) (p : α × State) : Prop := Stays L a p.2
def OStays (L : List Field) (a : State) (o : Option State) : Prop := ∀ t, o = some t → Stays L a t
def OQStays {α : Type} (L : List Field) (a : State) (o : Option (α × State)) : Prop := ∀ p, o = some p → Stays L a p.2
def XStays {α ε : Type} (L : List Field) (a : State) (o : Except ε (State × α)) : Prop := ∀ p, o = .ok p → Stays L a p.1
def RStays (L : List Field) (a : State) (r : Res) : Prop := ∀ t, r = .next t → Stays L a t
def EStays (L : List Field) (a : State) : Eff → Prop
  | .ok s _ => Stays L a s
  | .fail s _ _ _ => Stays L a s
  | .run s _ => Stays L a s
  | .hold => True
def UStays (L : List Field) (a : State) : UnitOut → Prop
  | .moved s => Stays L a s
  | .failed s _ => Stays L a s
  | .waits s => Stays L a s
def DStays (L : List Field) (a : State) : DpaOut → Prop
  | .done s => Stays L a s
  | .fail s _ => Stays L a s
  | .full _ _ _ => True
def WStays (L : List Field) (a : State) : WinOut → Prop
  | .done s => Stays L a s
  | .fail _ => True
  | .full => True
def MStays (L : List Field) (a : State) : ModeOut → Prop
  | .now s _ => Stays L a s
  | .admission s => Stays L a s

theorem PStays.mk {α : Type} {x : α} (h : Stays L a s) : PStays L a (s, x) := h
theorem PStays.fst {α : Type} {p : State × α} (h : PStays L a p) : Stays L a p.1 := h
theorem PStays.get {α : Type} {p : State × α} {x : α} (e : p = (s, x)) (h : PStays L a p) : Stays L a s := by subst e; exact h
theorem QStays.mk {α : Type} {x : α} (h : Stays L a s) : QStays L a (x, s) := h
theorem QStays.snd {α : Type} {p : α × State} (h : QStays L a p) : Stays L a p.2 := h
theorem QStays.get {α : Type} {p : α × State} {x : α} (e : p = (x, s)) (h : QStays L a p) : Stays L a s := by subst e; exact h
theorem OStays.none : OStays L a none := fun _ e => by cases e
theorem OStays.some (h : Stays L a s) : OStays L a (some s) := fun _ e => by cases e; exact h
theorem OStays.get {o : Option State} (e : o = Option.some s) (h : OStays L a o) : Stays L a s := h s e
theorem OQStays.none {α : Type} : OQStays (α := α) L a none := fun _ e => by cases e
theorem OQStays.some {α : Type} {x : α} (h : Stays L a s) : OQStays L a (some (x, s)) := fun _ e => by cases e; exact h
theorem OQStays.get {α : Type} {o : Option (α × State)} {x : α} (e : o = Option.some (x, s)) (h : OQStays L a o) : Stays L a s := h _ e
theorem XStays.error {α ε : Type} {x : ε} : XStays (α := α) L a (.error x) := fun _ e => by cases e
theorem XStays.ok {α ε : Type} {x : α} (h : Stays L a s) : XStays (ε := ε) L a (.ok (s, x)) := fun _ e => by cases e; exact h
theorem XStays.get {α ε : Type} {o : Except ε (State × α)} {x : α} (e : o = .ok (s, x)) (h : XStays L a o) : Stays L a s := h _ e
theorem RStays.next (h : Stays L a s) : RStays L a (.next s) := fun _ e => by cases e; exact h
theorem RStays.fault {x : Fault} : RStays L a (.fault x) := fun _ e => by cases e
theorem EStays.ok {d : BitVec 128} (h : Stays L a s) : EStays L a (.ok s d) := h
theorem EStays.fail {st : Status} {u : W32} {n : Nat} (h : Stays L a s) : EStays L a (.fail s st u n) := h
theorem EStays.run {n : Nat} (h : Stays L a s) : EStays L a (.run s n) := h
theorem EStays.hold : EStays L a .hold := trivial
theorem EStays.get_ok {e : Eff} {d : BitVec 128} (w : e = .ok s d) (h : EStays L a e) : Stays L a s := by subst w; exact h
theorem EStays.get_fail {e : Eff} {st : Status} {u : W32} {n : Nat} (w : e = .fail s st u n) (h : EStays L a e) : Stays L a s := by
  subst w; exact h
theorem EStays.get_run {e : Eff} {n : Nat} (w : e = .run s n) (h : EStays L a e) : Stays L a s := by subst w; exact h
theorem UStays.moved (h : Stays L a s) : UStays L a (.moved s) := h
theorem UStays.failed {f : DpaFail} (h : Stays L a s) : UStays L a (.failed s f) := h
theorem UStays.waits (h : Stays L a s) : UStays L a (.waits s) := h
theorem UStays.get_moved {u : UnitOut} (w : u = .moved s) (h : UStays L a u) : Stays L a s := by subst w; exact h
theorem UStays.get_failed {u : UnitOut} {f : DpaFail} (w : u = .failed s f) (h : UStays L a u) : Stays L a s := by subst w; exact h
theorem UStays.get_waits {u : UnitOut} (w : u = .waits s) (h : UStays L a u) : Stays L a s := by subst w; exact h
theorem DStays.done (h : Stays L a s) : DStays L a (.done s) := h
theorem DStays.fail {f : DpaFail} (h : Stays L a s) : DStays L a (.fail s f) := h
theorem DStays.full {c n : Nat} {l : Line} : DStays L a (.full c n l) := trivial
theorem DStays.get_done {u : DpaOut} (w : u = .done s) (h : DStays L a u) : Stays L a s := by subst w; exact h
theorem DStays.get_fail {u : DpaOut} {f : DpaFail} (w : u = .fail s f) (h : DStays L a u) : Stays L a s := by subst w; exact h
theorem WStays.done (h : Stays L a s) : WStays L a (.done s) := h
theorem WStays.fail {st : Status} : WStays L a (.fail st) := trivial
theorem WStays.full : WStays L a .full := trivial
theorem WStays.get_done {u : WinOut} (w : u = .done s) (h : WStays L a u) : Stays L a s := by subst w; exact h
theorem MStays.now {st : Status} (h : Stays L a s) : MStays L a (.now s st) := h
theorem MStays.admission (h : Stays L a s) : MStays L a (.admission s) := h
theorem MStays.get_now {u : ModeOut} {st : Status} (w : u = .now s st) (h : MStays L a u) : Stays L a s := by subst w; exact h
theorem MStays.get_admission {u : ModeOut} (w : u = .admission s) (h : MStays L a u) : Stays L a s := by subst w; exact h

-- Branches and folds

theorem keeps_ite {α : Type} {P : α → Prop} {c : Prop} [Decidable c] {x y : α} (hx : P x) (hy : P y) : P (if c then x else y) := by
  split
  · exact hx
  · exact hy

theorem Stays.ite {c : Prop} [Decidable c] {x y : State} (hx : Stays L a x) (hy : Stays L a y) :
    Stays L a (if c then x else y) := keeps_ite hx hy
theorem PStays.ite {α : Type} {c : Prop} [Decidable c] {x y : State × α} (hx : PStays L a x) (hy : PStays L a y) :
    PStays L a (if c then x else y) := keeps_ite hx hy
theorem QStays.ite {α : Type} {c : Prop} [Decidable c] {x y : α × State} (hx : QStays L a x) (hy : QStays L a y) :
    QStays L a (if c then x else y) := keeps_ite hx hy
theorem OStays.ite {c : Prop} [Decidable c] {x y : Option State} (hx : OStays L a x) (hy : OStays L a y) :
    OStays L a (if c then x else y) := keeps_ite hx hy
theorem OQStays.ite {α : Type} {c : Prop} [Decidable c] {x y : Option (α × State)} (hx : OQStays L a x) (hy : OQStays L a y) :
    OQStays L a (if c then x else y) := keeps_ite hx hy
theorem XStays.ite {α ε : Type} {c : Prop} [Decidable c] {x y : Except ε (State × α)} (hx : XStays L a x) (hy : XStays L a y) :
    XStays L a (if c then x else y) := keeps_ite hx hy
theorem RStays.ite {c : Prop} [Decidable c] {x y : Res} (hx : RStays L a x) (hy : RStays L a y) :
    RStays L a (if c then x else y) := keeps_ite hx hy
theorem EStays.ite {c : Prop} [Decidable c] {x y : Eff} (hx : EStays L a x) (hy : EStays L a y) :
    EStays L a (if c then x else y) := keeps_ite hx hy
theorem UStays.ite {c : Prop} [Decidable c] {x y : UnitOut} (hx : UStays L a x) (hy : UStays L a y) :
    UStays L a (if c then x else y) := keeps_ite hx hy
theorem DStays.ite {c : Prop} [Decidable c] {x y : DpaOut} (hx : DStays L a x) (hy : DStays L a y) :
    DStays L a (if c then x else y) := keeps_ite hx hy
theorem WStays.ite {c : Prop} [Decidable c] {x y : WinOut} (hx : WStays L a x) (hy : WStays L a y) :
    WStays L a (if c then x else y) := keeps_ite hx hy
theorem MStays.ite {c : Prop} [Decidable c] {x y : ModeOut} (hx : MStays L a x) (hy : MStays L a y) :
    MStays L a (if c then x else y) := keeps_ite hx hy

/-- A fold keeps what every step of it keeps. -/
theorem keeps_foldl {α β : Type} {P : α → Prop} {f : α → β → α} (h : ∀ x y, P x → P (f x y)) (l : List β) {z : α} (hz : P z) :
    P (l.foldl f z) := by
  induction l generalizing z with
  | nil => exact hz
  | cons y l ih => exact ih (h z y hz)

theorem Stays.foldl {β : Type} {f : State → β → State} (l : List β) (h : ∀ x y, Stays L a x → Stays L a (f x y)) (hs : Stays L a s) :
    Stays L a (l.foldl f s) := keeps_foldl h l hs
theorem OStays.findSome {β : Type} {f : β → Option State} (l : List β) (h : ∀ x, OStays L a (f x)) : OStays L a (l.findSome? f) := by
  intro t e
  obtain ⟨x, _, hx⟩ := List.exists_of_findSome?_eq_some e
  exact h x t hx
theorem PStays.foldl {α β : Type} {f : State × α → β → State × α} {p : State × α} (l : List β)
    (h : ∀ x y, PStays L a x → PStays L a (f x y)) (hp : PStays L a p) : PStays L a (l.foldl f p) := keeps_foldl h l hp

/-- A word merged as it is read keeps the canonical form (R169). -/
theorem Mem.wf_mendWord (c o : Nat) (m : Mem) (h : Mem.wf m = true) : Mem.wf (mendWord s c o m) = true := by
  unfold mendWord; dsimp only; split
  · exact h
  · exact Mem.wf_wrLine _ _ _ h

end Sys2Proof.Machine
end

