-- ==== Sys2Proof/Laws/StaysOps.lean ====
section
/-! SUPPORT. The frame of every operation of the machine (Laws/Stays.lean), one lemma for each, in the order of the files under
Machine: which fields of State the operation may change, and that it leaves every other field as it is. -/

set_option Elab.async false

namespace Sys2Proof.Machine

-- Ops

theorem setCore_stays {L : List Field} {a s : State} {n1 n2 : _} (h : Stays L a s) (hL : Sub [.core] L) :
    Stays L a (State.setCore s n1 n2) := by
  unfold State.setCore
  repeat' with_reducible first | assumption | exact hL.of rfl | refine Stays.record ?_ hL

theorem modCore_stays {L : List Field} {a s : State} {n1 n2 : _} (h : Stays L a s) (hL : Sub [.core] L) :
    Stays L a (State.modCore s n1 n2) := by
  unfold State.modCore
  repeat' with_reducible first | assumption | apply setCore_stays

theorem setStream_stays {L : List Field} {a s : State} {n1 n2 : _} (h : Stays L a s) (hL : Sub [.stream] L) :
    Stays L a (State.setStream s n1 n2) := by
  unfold State.setStream
  repeat' with_reducible first | assumption | exact hL.of rfl | refine Stays.record ?_ hL

theorem modStream_stays {L : List Field} {a s : State} {n1 n2 : _} (h : Stays L a s) (hL : Sub [.stream] L) :
    Stays L a (State.modStream s n1 n2) := by
  unfold State.modStream
  repeat' with_reducible first | assumption | apply setStream_stays

theorem setRegion_stays {L : List Field} {a s : State} {n1 n2 : _} (h : Stays L a s) (hL : Sub [.region] L) :
    Stays L a (State.setRegion s n1 n2) := by
  unfold State.setRegion
  repeat' with_reducible first | assumption | exact hL.of rfl | refine Stays.record ?_ hL

theorem modRegion_stays {L : List Field} {a s : State} {n1 n2 : _} (h : Stays L a s) (hL : Sub [.region] L) :
    Stays L a (State.modRegion s n1 n2) := by
  unfold State.modRegion
  repeat' with_reducible first | assumption | apply setRegion_stays

theorem setNbu_stays {L : List Field} {a s : State} {n1 n2 n3 : _} (h : Stays L a s) (hL : Sub [.region] L) :
    Stays L a (State.setNbu s n1 n2 n3) := by
  unfold State.setNbu
  repeat' with_reducible first | assumption | apply modRegion_stays

theorem modNbu_stays {L : List Field} {a s : State} {n1 n2 n3 : _} (h : Stays L a s) (hL : Sub [.region] L) :
    Stays L a (State.modNbu s n1 n2 n3) := by
  unfold State.modNbu
  repeat' with_reducible first | assumption | apply setNbu_stays

theorem setChim_stays {L : List Field} {a s : State} {n1 n2 : _} (h : Stays L a s) (hL : Sub [.chim] L) :
    Stays L a (State.setChim s n1 n2) := by
  unfold State.setChim
  repeat' with_reducible first | assumption | exact hL.of rfl | refine Stays.record ?_ hL

theorem setPart_stays {L : List Field} {a s : State} {n1 n2 : _} (h : Stays L a s) (hL : Sub [.part] L) :
    Stays L a (State.setPart s n1 n2) := by
  unfold State.setPart
  repeat' with_reducible first | assumption | exact hL.of rfl | refine Stays.record ?_ hL

theorem modPart_stays {L : List Field} {a s : State} {n1 n2 : _} (h : Stays L a s) (hL : Sub [.part] L) :
    Stays L a (State.modPart s n1 n2) := by
  unfold State.modPart
  repeat' with_reducible first | assumption | apply setPart_stays | split

theorem setChan_stays {L : List Field} {a s : State} {n1 n2 : _} (h : Stays L a s) (hL : Sub [.hst] L) :
    Stays L a (State.setChan s n1 n2) := by
  unfold State.setChan
  repeat' with_reducible first | assumption | exact hL.of rfl | refine Stays.record ?_ hL

theorem modChan_stays {L : List Field} {a s : State} {n1 n2 : _} (h : Stays L a s) (hL : Sub [.hst] L) :
    Stays L a (State.modChan s n1 n2) := by
  unfold State.modChan
  repeat' with_reducible first | assumption | apply setChan_stays

theorem modClk_stays {L : List Field} {a s : State} {n1 n2 : _} (h : Stays L a s) (hL : Sub [.clk] L) :
    Stays L a (State.modClk s n1 n2) := by
  unfold State.modClk
  repeat' with_reducible first | assumption | exact hL.of rfl | refine Stays.record ?_ hL

theorem modPwr_stays {L : List Field} {a s : State} {n1 n2 : _} (h : Stays L a s) (hL : Sub [.pwr] L) :
    Stays L a (State.modPwr s n1 n2) := by
  unfold State.modPwr
  repeat' with_reducible first | assumption | exact hL.of rfl | refine Stays.record ?_ hL

theorem modLayer_stays {L : List Field} {a s : State} {n1 n2 : _} (h : Stays L a s) (hL : Sub [.thm] L) :
    Stays L a (State.modLayer s n1 n2) := by
  unfold State.modLayer
  repeat' with_reducible first | assumption | exact hL.of rfl | refine Stays.record ?_ hL

theorem setPort_stays {L : List Field} {a s : State} {n1 n2 : _} (h : Stays L a s) (hL : Sub [.lnk] L) :
    Stays L a (State.setPort s n1 n2) := by
  unfold State.setPort
  repeat' with_reducible first | assumption | exact hL.of rfl | refine Stays.record ?_ hL

theorem modPort_stays {L : List Field} {a s : State} {n1 n2 : _} (h : Stays L a s) (hL : Sub [.lnk] L) :
    Stays L a (State.modPort s n1 n2) := by
  unfold State.modPort
  repeat' with_reducible first | assumption | apply setPort_stays

theorem draw_stays {L : List Field} {a s : State} (h : Stays L a s) (hL : Sub [.free] L) : Stays L a (State.draw s) := by
  unfold State.draw
  repeat' with_reducible first | assumption | exact hL.of rfl | refine Stays.record ?_ hL

-- Report

theorem hostWrite_stays {L : List Field} {a s : State} {n1 n2 : _} (h : Stays L a s) (hL : Sub [.hostMem, .hst] L) :
    Stays L a (hostWrite s n1 n2) := by
  unfold hostWrite; split
  · exact Stays.record h hL (wh := (Mem.wf_wrBytes _ _ _))
  · exact Stays.record h hL

theorem raiseVector_stays {L : List Field} {a s : State} {n1 : _} (h : Stays L a s) (hL : Sub [.hst] L) :
    Stays L a (raiseVector s n1) := by
  unfold raiseVector
  repeat' with_reducible first | assumption | (intro) | apply Stays.ite | exact hL.of rfl | refine Stays.record ?_ hL

theorem raiseChannel_stays {L : List Field} {a s : State} {n1 : _} (h : Stays L a s) (hL : Sub [.hst] L) :
    Stays L a (raiseChannel s n1) := by
  unfold raiseChannel
  repeat' with_reducible first
    | assumption | apply setChan_stays | apply raiseVector_stays | apply Stays.ite

theorem putRecord_stays {L : List Field} {a s : State} {n1 n2 : _} (h : Stays L a s) (hL : Sub [.hostMem, .hst] L) :
    Stays L a (putRecord s n1 n2) := by
  unfold putRecord
  repeat' with_reducible first | assumption | apply hostWrite_stays | apply setChan_stays | exact hL.of rfl

theorem drainEvents_stays {L : List Field} {a s : State} {n0 : _} (h : Stays L a s) (hL : Sub [.hostMem, .hst, .ras] L) :
    Stays L a (drainEvents n0 s) := by
  induction n0 generalizing s with
  | zero =>
    rw [drainEvents]
    repeat' with_reducible first
        | assumption
  | succ n ih =>
    rw [drainEvents]
    repeat' with_reducible first
        | assumption | apply ih | (intro) | apply putRecord_stays | apply raiseVector_stays | apply Stays.ite | dsimp only
        | split | exact hL.of rfl | refine Stays.record ?_ hL

theorem postEvent_stays {L : List Field} {a s : State} {n1 : _} (h : Stays L a s) (hL : Sub [.hostMem, .hst, .ras] L) :
    Stays L a (postEvent s n1) := by
  unfold postEvent
  repeat' with_reducible first
    | assumption | (intro) | apply drainEvents_stays | apply Stays.ite | dsimp only | exact hL.of rfl
    | refine Stays.record ?_ hL

theorem postNotice_stays {L : List Field} {a s : State} {n1 n2 n3 : _} (h : Stays L a s) (hL : Sub [.hostMem, .hst, .ras] L) :
    Stays L a (postNotice s n1 n2 n3) := by
  unfold postNotice
  repeat' with_reducible first | assumption | apply postEvent_stays

theorem setDevState_stays {L : List Field} {a s : State} {n1 : _} (h : Stays L a s)
    (hL : Sub [.hostMem, .dev, .hst, .ras] L) :
    Stays L a (setDevState s n1) := by
  unfold setDevState
  repeat' with_reducible first
    | assumption | apply postNotice_stays | apply Stays.ite | exact hL.of rfl | refine Stays.record ?_ hL

theorem flushLog_stays {L : List Field} {a s : State} {n0 : _} (h : Stays L a s) (hL : Sub [.hostMem, .ras] L) :
    Stays L a (flushLog n0 s) := by
  induction n0 generalizing s with
  | zero =>
    rw [flushLog]
    repeat' with_reducible first
        | assumption
  | succ n ih =>
    rw [flushLog]
    repeat' with_reducible first
        | assumption | apply ih | (intro) | exact Stays.record ‹_› hL (wh := Mem.wf_wrBytes _ _ _) | apply Stays.ite

theorem appendRecord_stays {L : List Field} {a s : State} {n1 : _} (h : Stays L a s) (hL : Sub [.hostMem, .ras] L) :
    Stays L a (appendRecord s n1) := by
  unfold appendRecord
  repeat' with_reducible first | assumption | apply flushLog_stays | exact hL.of rfl | refine Stays.record ?_ hL

theorem keepStored_stays {L : List Field} {a s : State} (h : Stays L a s) (hL : Sub [.ras] L) :
    Stays L a (keepStored s) := by
  unfold keepStored
  repeat' with_reducible first | assumption | (intro) | apply Stays.ite | exact hL.of rfl | refine Stays.record ?_ hL

theorem writeSignature_stays {L : List Field} {a s : State} {n1 : _} (h : Stays L a s) (hL : Sub [.hostMem, .hst, .ras] L) :
    Stays L a (writeSignature s n1) := by
  unfold writeSignature
  repeat' with_reducible first
    | assumption | (intro) | apply keepStored_stays | apply hostWrite_stays | apply Stays.ite | dsimp only | exact hL.of rfl
    | refine Stays.record ?_ hL

theorem emitRecord_stays {L : List Field} {a s : State} {n1 n2 n3 : _} (h : Stays L a s) (hL : Sub [.hostMem, .hst, .ras] L) :
    Stays L a (emitRecord s n1 n2 n3) := by
  unfold emitRecord
  repeat' with_reducible first
    | assumption | apply appendRecord_stays | apply postEvent_stays | apply writeSignature_stays | apply Stays.ite
    | exact hL.of rfl | refine Stays.record ?_ hL

theorem retestAction_stays {L : List Field} {a s : State} {n1 : _} (h : Stays L a s) (hL : Sub [.ras] L) :
    PStays L a (retestAction s n1) := by
  unfold retestAction
  repeat' with_reducible first | assumption | apply PStays.mk | exact hL.of rfl | refine Stays.record ?_ hL

theorem report_stays {L : List Field} {a s : State} {n1 n2 : _} (h : Stays L a s) (hL : Sub [.hostMem, .hst, .ras] L) :
    Stays L a (report s n1 n2) := by
  unfold report
  repeat' with_reducible first | assumption | apply emitRecord_stays | split | exact hL.of rfl | refine Stays.record ?_ hL

theorem reportContained_stays {L : List Field} {a s : State} {n1 n2 n3 : _} (h : Stays L a s)
    (hL : Sub [.hostMem, .hst, .ras] L) :
    Stays L a (reportContained s n1 n2 n3) := by
  unfold reportContained
  repeat' with_reducible first | assumption | apply report_stays

-- Memory

theorem sramCorrected_stays {L : List Field} {a s : State} {n1 n2 : _} (h : Stays L a s)
    (hL : Sub [.hostMem, .hst, .ras, .core] L) :
    Stays L a (sramCorrected s n1 n2) := by
  unfold sramCorrected
  repeat' with_reducible first
    | assumption | (intro) | apply report_stays | apply modCore_stays | dsimp only | exact hL.of rfl

theorem sramRead_stays {L : List Field} {a s : State} {n1 n2 n3 : _} (h : Stays L a s)
    (hL : Sub [.hostMem, .hst, .ras, .core] L) :
    PStays L a (sramRead s n1 n2 n3) := by
  unfold sramRead
  repeat' with_reducible first
    | assumption | (intro) | apply sramCorrected_stays | apply PStays.foldl | apply PStays.fst | split | apply PStays.mk

theorem noteBank_stays {L : List Field} {a s : State} {n1 n2 : _} (h : Stays L a s) (hL : Sub [.ras] L) :
    Stays L a (noteBank s n1 n2) := by
  unfold noteBank
  repeat' with_reducible first | assumption | exact hL.of rfl | refine Stays.record ?_ hL

theorem sramWrite_stays {L : List Field} {a s : State} {n1 n2 n3 : _} (h : Stays L a s)
    (hL : Sub [.mem, .hostMem, .err, .hst, .ras, .core] L) :
    PStays L a (sramWrite s n1 n2 n3) := by
  unfold sramWrite; dsimp only; split
  · exact PStays.mk h
  · exact PStays.mk (Stays.record (Stays.foldl _ (fun x y k => sramCorrected_stays k (hL.of rfl)) h) hL (wm := (Mem.wf_wrBytes _ _ _)))

theorem countCe_stays {L : List Field} {a s : State} {n1 : _} (h : Stays L a s) (hL : Sub [.memc] L) :
    Stays L a (countCe s n1) := by
  unfold countCe
  repeat' with_reducible first | assumption | exact hL.of rfl | refine Stays.record ?_ hL

theorem countUe_stays {L : List Field} {a s : State} (h : Stays L a s) (hL : Sub [.memc] L) : Stays L a (countUe s) := by
  unfold countUe
  repeat' with_reducible first | assumption | exact hL.of rfl | refine Stays.record ?_ hL

theorem queueRepair_stays {L : List Field} {a s : State} {n1 n2 : _} (h : Stays L a s) (hL : Sub [.region] L) :
    Stays L a (queueRepair s n1 n2) := by
  unfold queueRepair
  repeat' with_reducible first | assumption | apply modRegion_stays

theorem dramRead_stays {L : List Field} {a s : State} {n1 n2 n3 : _} (h : Stays L a s)
    (hL : Sub [.hostMem, .hst, .ras, .memc, .region] L) :
    PStays L a (dramRead s n1 n2 n3) := by
  unfold dramRead
  repeat' with_reducible first
    | assumption | (intro) | apply countUe_stays | apply queueRepair_stays | apply countCe_stays | apply report_stays
    | apply PStays.ite | apply Stays.ite | apply Stays.foldl | apply PStays.foldl | apply PStays.fst | dsimp only | split
    | apply PStays.mk | exact hL.of rfl

theorem clearDramMarks_stays {L : List Field} {a s : State} {n1 n2 : _} (h : Stays L a s) (hL : Sub [.err] L) :
    Stays L a (clearDramMarks s n1 n2) := by
  unfold clearDramMarks
  repeat' with_reducible first
    | assumption | (intro) | apply PStays.fst | dsimp only | exact hL.of rfl | refine Stays.record ?_ hL

theorem setStale_stays {L : List Field} {a s : State} {n1 n2 : _} (h : Stays L a s) (hL : Sub [.err] L) :
    Stays L a (setStale s n1 n2) := by
  unfold setStale
  repeat' with_reducible first | assumption | exact hL.of rfl | refine Stays.record ?_ hL

theorem parityFresh_stays {L : List Field} {a s : State} {n1 : _} (h : Stays L a s) (hL : Sub [.err] L) :
    Stays L a (parityFresh s n1) := by
  unfold parityFresh
  repeat' with_reducible first | assumption | (intro) | exact hL.of rfl | refine Stays.record ?_ hL

theorem absorb_stays {L : List Field} {a s : State} {n1 n2 n3 : _} (h : Stays L a s) (hL : Sub [.err] L) :
    Stays L a (absorb s n1 n2 n3) := by
  unfold absorb
  repeat' with_reducible first
    | assumption | (intro) | apply Stays.foldl | apply PStays.foldl | dsimp only | exact hL.of rfl
    | refine Stays.record ?_ hL

theorem freshPages_stays {L : List Field} {a s : State} {n1 n2 : _} (h : Stays L a s) (hL : Sub [.err] L) :
    Stays L a (freshPages s n1 n2) := by
  unfold freshPages
  repeat' with_reducible first
    | assumption | (intro) | apply setStale_stays | apply parityFresh_stays | apply Stays.foldl

theorem dramWritePage_stays {L : List Field} {a s : State} {n1 n2 n3 : _} (h : Stays L a s)
    (hL : Sub [.hostMem, .err, .hst, .ras] L) :
    Stays L a (dramWritePage s n1 n2 n3) := by
  unfold dramWritePage
  repeat' with_reducible first
    | assumption | (intro) | apply setStale_stays | apply parityFresh_stays | apply clearDramMarks_stays
    | apply absorb_stays | apply report_stays | apply Stays.ite | dsimp only | split | exact hL.of rfl

theorem dramWrite_stays {L : List Field} {a s : State} {n1 n2 n3 : _} (h : Stays L a s)
    (hL : Sub [.mem, .hostMem, .err, .hst, .ras, .memc] L) :
    PStays L a (dramWrite s n1 n2 n3) := by
  unfold dramWrite; split
  · exact PStays.mk (countUe_stays h (hL.of rfl))
  · have k := Stays.foldl (pageParts (n3.length / 2048 + 2) n2 n3.length)
      (fun x y k => dramWritePage_stays (n1 := n1) (n2 := y.1) (n3 := y.2) k (hL.of rfl)) h
    refine PStays.mk ⟨k.pending, k.flash, k.land, fun F hF => ?_, fun w =>
      Mem.wf_wrBytes _ _ _ (Mem.wf_mendWord _ _ _ (Mem.wf_mendWord _ _ _ (h.wfMem w))), k.wfHost⟩
    have e := k.frame F hF
    cases F <;> first | exact e | exact absurd (hL.has rfl) hF

theorem drawBool_stays {L : List Field} {a s : State} (h : Stays L a s) (hL : Sub [.free] L) : QStays L a (drawBool s) := by
  unfold drawBool
  repeat' with_reducible first | assumption | apply draw_stays | apply QStays.mk

theorem stopWord_stays {L : List Field} {a : State} {n0 p1 n2 : _} (hp1 : PStays L a p1) (hL : Sub [.free, .mem, .err] L) :
    PStays L a (stopWord n0 p1 n2) := by
  unfold stopWord; dsimp only; split
  · exact PStays.mk (drawBool_stays hp1.fst (hL.of rfl)).snd
  · exact PStays.mk (Stays.record (clearDramMarks_stays (drawBool_stays hp1.fst (hL.of rfl)).snd (hL.of rfl)) hL (wm := (Mem.wf_wrBytes _ _ _)))

theorem stopPage_stays {L : List Field} {a : State} {p0 n1 : _} (hp0 : PStays L a p0) (hL : Sub [.free, .err] L) :
    PStays L a (stopPage p0 n1) := by
  unfold stopPage
  repeat' with_reducible first
    | assumption | apply drawBool_stays | apply setStale_stays | apply PStays.ite | apply PStays.fst | apply QStays.snd
    | apply PStays.mk | exact hL.of rfl

theorem stopRegion_stays {L : List Field} {a s : State} {n1 : _} (h : Stays L a s)
    (hL : Sub [.free, .mem, .hostMem, .err, .hst, .ras, .region] L) :
    Stays L a (stopRegion s n1) := by
  unfold stopRegion
  repeat' with_reducible first
    | assumption | (intro) | apply stopWord_stays | apply stopPage_stays | apply setRegion_stays | apply report_stays
    | apply PStays.ite | apply Stays.ite | apply Stays.foldl | apply PStays.foldl | apply PStays.fst | dsimp only
    | refine PStays.get ‹_› ?_ | split | apply PStays.mk | exact hL.of rfl

theorem stopRegions_stays {L : List Field} {a s : State} {n1 : _} (h : Stays L a s)
    (hL : Sub [.free, .mem, .hostMem, .err, .hst, .ras, .region] L) :
    Stays L a (stopRegions s n1) := by
  unfold stopRegions
  repeat' with_reducible first | assumption | (intro) | apply stopRegion_stays | apply Stays.foldl

-- Recover

theorem finishDesc_stays {L : List Field} {a s : State} {n1 n2 n3 n4 : _} (h : Stays L a s) (hL : Sub [.hst] L) :
    Stays L a (finishDesc s n1 n2 n3 n4) := by
  unfold finishDesc
  repeat' with_reducible first | assumption | apply modChan_stays

theorem finishEvery_stays {L : List Field} {a s : State} {n1 n2 n3 : _} (h : Stays L a s) (hL : Sub [.hst] L) :
    Stays L a (finishEvery s n1 n2 n3) := by
  unfold finishEvery
  repeat' with_reducible first | assumption | exact hL.of rfl | refine Stays.record ?_ hL

theorem dropSnapReq_stays {L : List Field} {a s : State} {n1 : _} (h : Stays L a s) (hL : Sub [.hst, .part] L) :
    Stays L a (dropSnapReq s n1) := by
  unfold dropSnapReq
  repeat' with_reducible first | assumption | apply modPart_stays | apply finishEvery_stays | split | exact hL.of rfl

theorem endQuiesce_stays {L : List Field} {a s : State} {n1 n2 : _} (h : Stays L a s) (hL : Sub [.hst, .part] L) :
    Stays L a (endQuiesce s n1 n2) := by
  unfold endQuiesce
  repeat' with_reducible first | assumption | apply modPart_stays | apply finishEvery_stays | split | exact hL.of rfl

theorem modKvSeq_stays {L : List Field} {a s : State} {n1 n2 : _} (h : Stays L a s) (hL : Sub [.kv] L) :
    Stays L a (modKvSeq s n1 n2) := by
  unfold modKvSeq
  repeat' with_reducible first | assumption | exact hL.of rfl | refine Stays.record ?_ hL

theorem dropKvSeq_stays {L : List Field} {a s : State} {n1 : _} (h : Stays L a s) (hL : Sub [.kv] L) :
    Stays L a (dropKvSeq s n1) := by
  unfold dropKvSeq
  repeat' with_reducible first | assumption | exact hL.of rfl | refine Stays.record ?_ hL

theorem releaseCtx_stays {L : List Field} {a s : State} {n1 : _} (h : Stays L a s) (hL : Sub [.hst, .kv] L) :
    Stays L a (releaseCtx s n1) := by
  unfold releaseCtx
  repeat' with_reducible first
    | assumption | apply finishDesc_stays | apply dropKvSeq_stays | apply modKvSeq_stays | split | exact hL.of rfl
    | refine Stays.record ?_ hL

theorem releaseBatches_stays {L : List Field} {a s : State} {n1 : _} (h : Stays L a s) (hL : Sub [.hst, .part, .kv] L) :
    Stays L a (releaseBatches s n1) := by
  unfold releaseBatches
  repeat' with_reducible first
    | assumption | (intro) | apply modPart_stays | apply releaseCtx_stays | apply Stays.foldl | split | exact hL.of rfl

theorem abortOps_stays {L : List Field} {a s : State} {n1 : _} (h : Stays L a s) (hL : Sub [.hostMem, .hst, .ras] L) :
    Stays L a (abortOps s n1) := by
  unfold abortOps
  repeat' with_reducible first
    | assumption | (intro) | apply report_stays | apply Stays.foldl

theorem matchCredit_stays {L : List Field} {a s : State} {n1 : _} (h : Stays L a s) (hL : Sub [.stream] L) :
    Stays L a (matchCredit s n1) := by
  unfold matchCredit
  repeat' with_reducible first
    | assumption | (intro) | apply modStream_stays | dsimp only | split

theorem freeFlits_stays {L : List Field} {a s : State} {n1 n2 n3 : _} (h : Stays L a s) (hL : Sub [.lnk] L) :
    Stays L a (freeFlits s n1 n2 n3) := by
  unfold freeFlits
  repeat' with_reducible first | assumption | apply modPort_stays | split

theorem freeCleared_stays {L : List Field} {a s : State} {n1 : _} (h : Stays L a s) (hL : Sub [.lnk] L) :
    Stays L a (freeCleared s n1) := by
  unfold freeCleared
  repeat' with_reducible first
    | assumption | (intro) | apply freeFlits_stays | apply Stays.ite | apply Stays.foldl

theorem resetStreams_stays {L : List Field} {a s : State} {n1 : _} (h : Stays L a s) (hL : Sub [.lnk, .stream] L) :
    Stays L a (resetStreams s n1) := by
  unfold resetStreams
  repeat' with_reducible first
    | assumption | (intro) | apply freeCleared_stays | dsimp only | split | exact hL.of rfl | refine Stays.record ?_ hL

theorem removeRoutes_stays {L : List Field} {a s : State} {n1 : _} (h : Stays L a s) (hL : Sub [.routes] L) :
    Stays L a (removeRoutes s n1) := by
  unfold removeRoutes
  repeat' with_reducible first | assumption | exact hL.of rfl | refine Stays.record ?_ hL

theorem installDeclared_stays {L : List Field} {a s : State} {n1 : _} (h : Stays L a s) (hL : Sub [.routes] L) :
    Stays L a (installDeclared s n1) := by
  unfold installDeclared
  repeat' with_reducible first | assumption | split | exact hL.of rfl | refine Stays.record ?_ hL

theorem clearArrivals_stays {L : List Field} {a s : State} {n1 : _} (h : Stays L a s) (hL : Sub [.bars] L) :
    Stays L a (clearArrivals s n1) := by
  unfold clearArrivals
  repeat' with_reducible first | assumption | exact hL.of rfl | refine Stays.record ?_ hL

theorem stopCores_stays {L : List Field} {a s : State} {n1 : _} (h : Stays L a s) (hL : Sub [.hostMem, .hst, .ras, .core] L) :
    Stays L a (stopCores s n1) := by
  unfold stopCores
  repeat' with_reducible first
    | assumption | (intro) | apply modCore_stays | apply abortOps_stays | apply Stays.foldl | apply PStays.foldl
    | dsimp only | split | exact hL.of rfl

theorem dropCopy_stays {L : List Field} {a s : State} {n1 : _} (h : Stays L a s) (hL : Sub [.snaps] L) :
    Stays L a (dropCopy s n1) := by
  unfold dropCopy
  repeat' with_reducible first | assumption | exact hL.of rfl | refine Stays.record ?_ hL

theorem dropModeWaits_stays {L : List Field} {a s : State} {n1 n2 : _} (h : Stays L a s) (hL : Sub [.hst, .pwr, .region] L) :
    Stays L a (dropModeWaits s n1 n2) := by
  unfold dropModeWaits
  repeat' with_reducible first
    | assumption | (intro) | apply modRegion_stays | apply finishEvery_stays | apply Stays.foldl | apply PStays.foldl
    | dsimp only | exact hL.of rfl | refine Stays.record ?_ hL

theorem endPuts_stays {L : List Field} {a s : State} {n1 : _} (h : Stays L a s) (hL : Sub [.hst] L) :
    Stays L a (endPuts s n1) := by
  unfold endPuts
  repeat' with_reducible first
    | assumption | (intro) | apply Stays.ite | dsimp only | exact hL.of rfl | refine Stays.record ?_ hL

theorem abortNbus_stays {L : List Field} {a s : State} {n1 : _} (h : Stays L a s) (hL : Sub [.hostMem, .hst, .ras] L) :
    Stays L a (abortNbus s n1) := by
  unfold abortNbus
  repeat' with_reducible first
    | assumption | (intro) | apply report_stays | apply Stays.foldl | apply PStays.foldl | apply PStays.fst | dsimp only
    | split

theorem resetPartition_stays {L : List Field} {a s : State} {n1 : _} (h : Stays L a s)
    (hL : Sub [.free, .mem, .hostMem, .err, .hst, .pwr, .ras, .lnk, .core, .stream, .routes, .region, .part, .bars,
      .snaps, .kv] L) :
    Stays L a (resetPartition s n1) := by
  unfold resetPartition
  repeat' with_reducible first
    | assumption | (intro) | apply stopCores_stays | apply dropCopy_stays | apply endPuts_stays | apply resetStreams_stays
    | apply removeRoutes_stays | apply installDeclared_stays | apply stopRegions_stays | apply abortNbus_stays
    | apply dropModeWaits_stays | apply clearArrivals_stays | apply releaseBatches_stays | apply modPart_stays
    | apply Stays.foldl | apply PStays.foldl | dsimp only | split | exact hL.of rfl

theorem resetRouter_stays {L : List Field} {a s : State} {n1 : _} (h : Stays L a s) (hL : Sub [.lnk, .stream, .linkCorr] L) :
    Stays L a (resetRouter s n1) := by
  unfold resetRouter
  repeat' with_reducible first
    | assumption | (intro) | apply freeCleared_stays | apply PStays.fst | dsimp only | split | exact hL.of rfl
    | refine Stays.record ?_ hL

theorem settleRouters_stays {L : List Field} {a s : State} (h : Stays L a s) (hL : Sub [.ras, .lnk, .stream, .linkCorr] L) :
    Stays L a (settleRouters s) := by
  unfold settleRouters
  repeat' with_reducible first
    | assumption | (intro) | apply resetRouter_stays | apply Stays.foldl | exact hL.of rfl | refine Stays.record ?_ hL

theorem failPartition_stays {L : List Field} {a s : State} {n1 : _} (h : Stays L a s)
    (hL : Sub [.hostMem, .hst, .ras, .lnk, .core, .stream, .linkCorr, .routes, .part, .bars, .snaps] L) :
    Stays L a (failPartition s n1) := by
  unfold failPartition
  repeat' with_reducible first
    | assumption | (intro) | apply dropSnapReq_stays | apply endQuiesce_stays | apply removeRoutes_stays
    | apply resetStreams_stays | apply stopCores_stays | apply dropCopy_stays | apply settleRouters_stays
    | apply modPart_stays | apply clearArrivals_stays | apply Stays.ite | dsimp only | split | exact hL.of rfl

theorem checkDegraded_stays {L : List Field} {a s : State} (h : Stays L a s) (hL : Sub [.hostMem, .dev, .hst, .ras] L) :
    Stays L a (checkDegraded s) := by
  unfold checkDegraded
  repeat' with_reducible first | assumption | apply setDevState_stays | apply Stays.ite

theorem restartRecovery_stays {L : List Field} {a s : State} {n1 n2 : _} (h : Stays L a s)
    (hL : Sub [.hostMem, .hst, .ras, .lnk, .core, .stream, .linkCorr, .routes, .part, .bars, .snaps] L) :
    Stays L a (restartRecovery s n1 n2) := by
  unfold restartRecovery
  repeat' with_reducible first
    | assumption | (intro) | apply report_stays | apply failPartition_stays | apply modPart_stays | apply retestAction_stays
    | apply clearArrivals_stays | apply PStays.ite | apply Stays.ite | apply PStays.fst | dsimp only
    | refine PStays.get ‹_› ?_ | split | apply PStays.mk | exact hL.of rfl

theorem partFault_stays {L : List Field} {a s : State} {n1 n2 : _} (h : Stays L a s)
    (hL : Sub [.hostMem, .hst, .ras, .lnk, .core, .stream, .linkCorr, .routes, .part, .bars, .snaps] L) :
    Stays L a (partFault s n1 n2) := by
  unfold partFault
  repeat' with_reducible first
    | assumption | (intro) | apply report_stays | apply failPartition_stays | apply modPart_stays | apply dropSnapReq_stays
    | apply retestAction_stays | apply restartRecovery_stays | apply PStays.ite | apply Stays.ite | apply PStays.fst
    | dsimp only | refine PStays.get ‹_› ?_ | split | apply PStays.mk | exact hL.of rfl

theorem fenceCore_stays {L : List Field} {a s : State} {n1 n2 : _} (h : Stays L a s)
    (hL : Sub [.hostMem, .hst, .ras, .core] L) :
    Stays L a (fenceCore s n1 n2) := by
  unfold fenceCore
  repeat' with_reducible first
    | assumption | (intro) | apply keepStored_stays | apply abortOps_stays | apply modCore_stays | dsimp only
    | exact hL.of rfl | refine Stays.record ?_ hL

theorem quarantineCore_stays {L : List Field} {a s : State} {n1 n2 n3 : _} (h : Stays L a s)
    (hL : Sub [.hostMem, .dev, .hst, .ras, .lnk, .core, .stream, .linkCorr, .routes, .part, .bars, .snaps] L) :
    Stays L a (quarantineCore s n1 n2 n3) := by
  unfold quarantineCore
  repeat' with_reducible first
    | assumption | (intro) | apply fenceCore_stays | apply failPartition_stays | apply checkDegraded_stays
    | apply report_stays | dsimp only | split | exact hL.of rfl

-- Links

theorem opFault_stays {L : List Field} {a s : State} {n1 n2 : _} (h : Stays L a s)
    (hL : Sub [.hostMem, .hst, .ras, .lnk, .core, .stream, .linkCorr, .routes, .part, .bars, .snaps] L) :
    Stays L a (opFault s n1 n2) := by
  unfold opFault
  repeat' with_reducible first
    | assumption | apply modCore_stays | apply report_stays | apply partFault_stays | dsimp only | split | exact hL.of rfl

theorem endOp_stays {L : List Field} {a s : State} {n1 n2 n3 n4 : _} (h : Stays L a s)
    (hL : Sub [.hostMem, .hst, .ras, .lnk, .core, .stream, .linkCorr, .routes, .part, .bars, .snaps] L) :
    Stays L a (endOp s n1 n2 n3 n4) := by
  unfold endOp
  repeat' with_reducible first
    | assumption | (intro) | apply opFault_stays | apply modCore_stays | dsimp only | exact hL.of rfl

theorem abortGroup_stays {L : List Field} {a s : State} {n1 n2 : _} (h : Stays L a s) (hL : Sub [.hst] L) :
    Stays L a (abortGroup s n1 n2) := by
  unfold abortGroup
  repeat' with_reducible first
    | assumption | (intro) | apply setChan_stays | dsimp only | split

theorem joinFetched_stays {L : List Field} {a s : State} {n1 : _} (h : Stays L a s) (hL : Sub [.hst] L) :
    Stays L a (joinFetched s n1) := by
  unfold joinFetched
  repeat' with_reducible first
    | assumption | (intro) | apply modChan_stays

theorem abortFetched_stays {L : List Field} {a s : State} {n1 n2 : _} (h : Stays L a s) (hL : Sub [.hst] L) :
    Stays L a (abortFetched s n1 n2) := by
  unfold abortFetched
  repeat' with_reducible first
    | assumption | (intro) | apply modChan_stays

theorem stampCtl_stays {L : List Field} {a s : State} {n1 : _} (h : Stays L a s) (hL : Sub [.time] L) :
    PStays L a (stampCtl s n1) := by
  unfold stampCtl
  repeat' with_reducible first
    | assumption | (intro) | dsimp only | split | apply PStays.mk | exact hL.of rfl | refine Stays.record ?_ hL

theorem sendVc_stays {L : List Field} {a s : State} {n1 n2 n3 : _} (h : Stays L a s) (hL : Sub [.time, .lnk, .stream] L) :
    OStays L a (sendVc s n1 n2 n3) := by
  unfold sendVc
  repeat' with_reducible first
    | assumption | (intro) | apply stampCtl_stays | apply setPort_stays | apply modStream_stays | apply OStays.none
    | apply OStays.some | apply OStays.ite | apply PStays.ite | apply Stays.ite | apply PStays.fst | dsimp only
    | refine PStays.get ‹_› ?_ | split | apply PStays.mk | exact hL.of rfl

theorem pumpPort_stays {L : List Field} {a s : State} {n0 n2 : _} (h : Stays L a s) (hL : Sub [.time, .lnk, .stream] L) :
    Stays L a (pumpPort n0 s n2) := by
  induction n0 generalizing s with
  | zero =>
    rw [pumpPort]
    repeat' with_reducible first
        | assumption
  | succ n ih =>
    rw [pumpPort]
    repeat' with_reducible first
        | assumption | apply ih | (intro) | apply sendVc_stays | apply OStays.findSome | apply OStays.ite | apply Stays.ite
        | dsimp only | refine OStays.get ‹_› ?_ | split

theorem sendControl_stays {L : List Field} {a s : State} {n1 n2 n3 : _} (h : Stays L a s)
    (hL : Sub [.time, .lnk, .stream] L) :
    Stays L a (sendControl s n1 n2 n3) := by
  unfold sendControl
  repeat' with_reducible first | assumption | apply pumpPort_stays | apply modPort_stays | exact hL.of rfl

theorem updPort_stays {L : List Field} {a s : State} {n1 n2 : _} (h : Stays L a s) (hL : Sub [.hostMem, .hst, .ras, .lnk] L) :
    Stays L a (updPort s n1 n2) := by
  unfold updPort
  repeat' with_reducible first
    | assumption | (intro) | apply setPort_stays | apply postNotice_stays | apply Stays.ite | dsimp only | exact hL.of rfl
    | refine Stays.record ?_ hL

theorem sendTree_stays {L : List Field} {a s : State} (h : Stays L a s) (hL : Sub [.time, .lnk, .stream] L) :
    Stays L a (sendTree s) := by
  unfold sendTree
  repeat' with_reducible first
    | assumption | (intro) | apply sendControl_stays | apply Stays.foldl | split

theorem pruneTree_stays {L : List Field} {a s : State} (h : Stays L a s) (hL : Sub [.lnk] L) : Stays L a (pruneTree s) := by
  unfold pruneTree
  repeat' with_reducible first
    | assumption | (intro) | apply PStays.fst | dsimp only | exact hL.of rfl | refine Stays.record ?_ hL

theorem movePort_stays {L : List Field} {a s : State} {n1 n2 : _} (h : Stays L a s)
    (hL : Sub [.hostMem, .hst, .time, .ras, .lnk, .stream] L) :
    Stays L a (movePort s n1 n2) := by
  unfold movePort
  repeat' with_reducible first
    | assumption | (intro) | apply updPort_stays | apply sendTree_stays | apply Stays.ite | dsimp only | exact hL.of rfl

theorem afterMaster_stays {L : List Field} {a s s1 : State} (h : Stays L a s) (h1 : Stays L a s1) (hL : Sub [.time, .pwr] L) :
    Stays L a (afterMaster s s1) := by
  unfold afterMaster
  repeat' with_reducible first
    | assumption | (intro) | apply Stays.ite | dsimp only | exact hL.of rfl | refine Stays.record ?_ hL

theorem afterPort_stays {L : List Field} {a s s1 : State} (h : Stays L a s) (h1 : Stays L a s1)
    (hL : Sub [.time, .pwr, .lnk, .stream] L) :
    Stays L a (afterPort s s1) := by
  unfold afterPort
  repeat' with_reducible first
    | assumption | (intro) | apply pruneTree_stays | apply afterMaster_stays | apply sendTree_stays | apply Stays.ite
    | dsimp only | exact hL.of rfl

theorem linkDownOps_stays {L : List Field} {a s : State} {n1 : _} (h : Stays L a s)
    (hL : Sub [.hostMem, .hst, .ras, .lnk, .core, .stream, .linkCorr, .routes, .part, .bars, .snaps] L) :
    Stays L a (linkDownOps s n1) := by
  unfold linkDownOps
  repeat' with_reducible first
    | assumption | (intro) | apply endOp_stays | apply restartRecovery_stays | apply Stays.foldl

theorem leaveUp_stays {L : List Field} {a s : State} {n1 n2 n3 : _} (h : Stays L a s)
    (hL : Sub [.hostMem, .hst, .time, .pwr, .ras, .lnk, .core, .stream, .linkCorr, .routes, .part, .bars, .snaps] L) :
    Stays L a (leaveUp s n1 n2 n3) := by
  unfold leaveUp
  repeat' with_reducible first
    | assumption | (intro) | apply updPort_stays | apply afterPort_stays | apply linkDownOps_stays | apply movePort_stays
    | apply Stays.ite | dsimp only | exact hL.of rfl

theorem stopClock_stays {L : List Field} {a s : State} {n1 : _} (h : Stays L a s) (hL : Sub [.clk] L) :
    Stays L a (stopClock s n1) := by
  unfold stopClock
  repeat' with_reducible first | assumption | apply modClk_stays

theorem portsDown_stays {L : List Field} {a s : State} (h : Stays L a s)
    (hL : Sub [.hostMem, .hst, .time, .pwr, .ras, .lnk, .core, .stream, .linkCorr, .routes, .part, .bars, .snaps] L) :
    Stays L a (portsDown s) := by
  unfold portsDown
  repeat' with_reducible first
    | assumption | (intro) | apply leaveUp_stays | apply Stays.ite | apply Stays.foldl | apply PStays.foldl | dsimp only
    | split

theorem stopPartition_stays {L : List Field} {a s : State} {n1 : _} (h : Stays L a s)
    (hL : Sub [.hostMem, .hst, .ras, .lnk, .core, .stream, .linkCorr, .routes, .part, .bars, .snaps] L) :
    Stays L a (stopPartition s n1) := by
  unfold stopPartition
  repeat' with_reducible first | assumption | apply failPartition_stays | apply modPart_stays | split | exact hL.of rfl

theorem safeDescs_stays {L : List Field} {a s : State} (h : Stays L a s) (hL : Sub [.hst] L) : Stays L a (safeDescs s) := by
  unfold safeDescs
  repeat' with_reducible first
    | assumption | (intro) | apply abortFetched_stays | apply modChan_stays | apply Stays.ite | apply Stays.foldl

theorem dropNbuWaits_stays {L : List Field} {a s : State} (h : Stays L a s) (hL : Sub [.pwr, .region] L) :
    Stays L a (dropNbuWaits s) := by
  unfold dropNbuWaits
  repeat' with_reducible first | assumption | (intro) | dsimp only | exact hL.of rfl | refine Stays.record ?_ hL

theorem enterSafe_stays {L : List Field} {a s : State} {n1 : _} (h : Stays L a s)
    (hL : Sub [.free, .mem, .hostMem, .err, .pins, .dev, .hst, .clk, .time, .pwr, .ras, .lnk, .weevil, .core, .stream,
      .linkCorr, .routes, .region, .part, .bars, .snaps] L) :
    Stays L a (enterSafe s n1) := by
  unfold enterSafe
  repeat' with_reducible first
    | assumption | (intro) | apply report_stays | apply safeDescs_stays | apply stopClock_stays | apply stopPartition_stays
    | apply stopRegions_stays | apply dropNbuWaits_stays | apply portsDown_stays | apply setDevState_stays
    | apply Stays.foldl | apply PStays.foldl | dsimp only | split | exact hL.of rfl | refine Stays.record ?_ hL

-- Clocks

theorem setRef_stays {L : List Field} {a s : State} {n1 n2 : _} (h : Stays L a s) (hL : Sub [.clk] L) :
    Stays L a (State.setRef s n1 n2) := by
  unfold State.setRef
  repeat' with_reducible first | assumption | split | exact hL.of rfl | refine Stays.record ?_ hL

theorem startSwitch_stays {L : List Field} {a s : State} {n1 : _} (h : Stays L a s) (hL : Sub [.clk] L) :
    Stays L a (startSwitch s n1) := by
  unfold startSwitch
  repeat' with_reducible first | assumption | exact hL.of rfl | refine Stays.record ?_ hL

theorem holdOver_stays {L : List Field} {a s : State} (h : Stays L a s) (hL : Sub [.hostMem, .hst, .clk, .ras] L) :
    Stays L a (holdOver s) := by
  unfold holdOver
  repeat' with_reducible first | assumption | apply report_stays | exact hL.of rfl | refine Stays.record ?_ hL

theorem loseActive_stays {L : List Field} {a s : State} {n1 : _} (h : Stays L a s) (hL : Sub [.hostMem, .hst, .clk, .ras] L) :
    Stays L a (loseActive s n1) := by
  unfold loseActive
  repeat' with_reducible first
    | assumption | (intro) | apply report_stays | apply holdOver_stays | apply startSwitch_stays | apply Stays.ite | split
    | exact hL.of rfl

theorem requestSwitch_stays {L : List Field} {a s : State} {n1 : _} (h : Stays L a s) (hL : Sub [.clk] L) :
    Stays L a (requestSwitch s n1) := by
  unfold requestSwitch
  repeat' with_reducible first
    | assumption | apply startSwitch_stays | apply Stays.ite | exact hL.of rfl | refine Stays.record ?_ hL

theorem clockSafe_stays {L : List Field} {a s : State} {n1 : _} (h : Stays L a s)
    (hL : Sub [.free, .mem, .hostMem, .err, .pins, .dev, .hst, .clk, .time, .pwr, .ras, .lnk, .weevil, .core, .stream,
      .linkCorr, .routes, .region, .part, .bars, .snaps] L) :
    Stays L a (clockSafe s n1) := by
  unfold clockSafe
  repeat' with_reducible first
    | assumption | (intro) | apply enterSafe_stays | dsimp only | exact hL.of rfl | refine Stays.record ?_ hL

theorem requestStep_stays {L : List Field} {a s : State} {n1 n2 : _} (h : Stays L a s) (hL : Sub [.clk] L) :
    Stays L a (requestStep s n1 n2) := by
  unfold requestStep
  repeat' with_reducible first | assumption | apply modClk_stays | apply Stays.ite

theorem finishStep_stays {L : List Field} {a s : State} {n1 n2 : _} (h : Stays L a s) (hL : Sub [.clk, .pwr] L) :
    Stays L a (finishStep s n1 n2) := by
  unfold finishStep
  repeat' with_reducible first
    | assumption | apply modClk_stays | apply modPwr_stays | exact hL.of rfl | refine Stays.record ?_ hL

theorem withdrawStep_stays {L : List Field} {a s : State} {n1 : _} (h : Stays L a s) (hL : Sub [.clk] L) :
    Stays L a (withdrawStep s n1) := by
  unfold withdrawStep
  repeat' with_reducible first
    | assumption | apply modClk_stays | apply Stays.ite | exact hL.of rfl | refine Stays.record ?_ hL

theorem requestNeeded_stays {L : List Field} {a s : State} {n1 : _} (h : Stays L a s) (hL : Sub [.clk] L) :
    Stays L a (requestNeeded s n1) := by
  unfold requestNeeded
  repeat' with_reducible first | assumption | apply requestStep_stays | apply Stays.ite

theorem writeStepCap_stays {L : List Field} {a s : State} {n1 : _} (h : Stays L a s) (hL : Sub [.clk] L) :
    Stays L a (writeStepCap s n1) := by
  unfold writeStepCap
  repeat' with_reducible first
    | assumption | (intro) | apply requestNeeded_stays | apply Stays.ite | apply Stays.foldl | exact hL.of rfl
    | refine Stays.record ?_ hL

theorem adjStep_stays {L : List Field} {a s : State} {n1 : _} (h : Stays L a s) (hL : Sub [.time] L) :
    Stays L a (adjStep s n1) := by
  unfold adjStep
  repeat' with_reducible first | assumption | apply Stays.ite | exact hL.of rfl | refine Stays.record ?_ hL

theorem adjSlew_stays {L : List Field} {a s : State} {n1 : _} (h : Stays L a s) (hL : Sub [.time] L) :
    Stays L a (adjSlew s n1) := by
  unfold adjSlew
  repeat' with_reducible first | assumption | (intro) | apply Stays.ite | exact hL.of rfl | refine Stays.record ?_ hL

-- OpOut

theorem readRanges_stays {L : List Field} {a s : State} {n1 n2 : _} (h : Stays L a s)
    (hL : Sub [.hostMem, .hst, .ras, .core] L) :
    PStays L a (readRanges s n1 n2) := by
  induction n2 generalizing s with
  | nil =>
    rw [readRanges]
    repeat' with_reducible first
        | assumption | (intro) | apply sramRead_stays | apply PStays.fst | dsimp only | refine PStays.get ‹_› ?_ | split
        | apply PStays.mk
  | cons x t ih =>
    obtain ⟨_, _⟩ := x; rw [readRanges]
    repeat' with_reducible first
        | assumption | apply ih | (intro) | apply sramRead_stays | apply PStays.fst | dsimp only | refine PStays.get ‹_› ?_
        | split | apply PStays.mk

theorem computeOp_stays {L : List Field} {a s : State} {n1 n2 n3 f4 : _} (h : Stays L a s)
    (hL : Sub [.hostMem, .hst, .ras, .core] L) :
    PStays L a (computeOp s n1 n2 n3 f4) := by
  unfold computeOp
  repeat' with_reducible first
    | assumption | (intro) | apply readRanges_stays | apply PStays.ite | apply Stays.ite | apply PStays.fst | dsimp only
    | refine PStays.get ‹_› ?_ | split | apply PStays.mk

-- Mesh

theorem returnCredit_stays {L : List Field} {a s : State} {n1 n2 n3 : _} (h : Stays L a s) (hL : Sub [.stream] L) :
    Stays L a (returnCredit s n1 n2 n3) := by
  unfold returnCredit
  repeat' with_reducible first | assumption | apply modStream_stays | split

theorem putWire_stays {L : List Field} {a s : State} {n1 n2 n3 n4 : _} (h : Stays L a s) (hL : Sub [.time, .lnk, .stream] L) :
    Stays L a (putWire s n1 n2 n3 n4) := by
  unfold putWire
  repeat' with_reducible first | assumption | apply modStream_stays | apply pumpPort_stays | split | exact hL.of rfl

theorem serveTurn_stays {L : List Field} {a s : State} {n1 n2 n3 : _} (h : Stays L a s) (hL : Sub [.turn] L) :
    Stays L a (serveTurn s n1 n2 n3) := by
  unfold serveTurn
  repeat' with_reducible first | assumption | (intro) | exact hL.of rfl | refine Stays.record ?_ hL

theorem sendLine_stays {L : List Field} {a s : State} {n1 n2 n3 n4 n5 : _} (h : Stays L a s)
    (hL : Sub [.time, .lnk, .stream, .turn] L) :
    Stays L a (sendLine s n1 n2 n3 n4 n5) := by
  unfold sendLine
  repeat' with_reducible first
    | assumption | (intro) | apply serveTurn_stays | apply setStream_stays | apply putWire_stays | apply Stays.ite
    | dsimp only | exact hL.of rfl

theorem streamRecord_stays {L : List Field} {a s : State} {n1 n2 n3 n4 : _} (h : Stays L a s)
    (hL : Sub [.hostMem, .hst, .ras] L) :
    Stays L a (streamRecord s n1 n2 n3 n4) := by
  unfold streamRecord
  repeat' with_reducible first | assumption | apply report_stays

theorem dropOrphans_stays {L : List Field} {a s : State} {n1 n2 n3 : _} (h : Stays L a s)
    (hL : Sub [.hostMem, .hst, .ras, .stream] L) :
    Stays L a (dropOrphans s n1 n2 n3) := by
  unfold dropOrphans
  repeat' with_reducible first
    | assumption | (intro) | apply setStream_stays | apply streamRecord_stays | apply returnCredit_stays | apply Stays.ite
    | apply Stays.foldl | exact hL.of rfl

theorem takeHead_stays {L : List Field} {a s : State} {n1 n2 n3 : _} (h : Stays L a s) (hL : Sub [.stream] L) :
    OQStays L a (takeHead s n1 n2 n3) := by
  unfold takeHead
  repeat' with_reducible first
    | assumption | apply returnCredit_stays | apply setStream_stays | dsimp only | split | apply OQStays.none
    | apply OQStays.some

theorem updRun_stays {L : List Field} {a s : State} {n1 n2 : _} (h : Stays L a s) (hL : Sub [.core] L) :
    Stays L a (updRun s n1 n2) := by
  unfold updRun
  repeat' with_reducible first | assumption | apply modCore_stays

theorem writeLine_stays {L : List Field} {a s : State} {n1 n2 n3 n4 : _} (h : Stays L a s)
    (hL : Sub [.mem, .hostMem, .err, .hst, .ras, .core] L) :
    PStays L a (writeLine s n1 n2 n3 n4) := by
  unfold writeLine
  repeat' with_reducible first
    | assumption | (intro) | apply sramWrite_stays | apply PStays.fst | dsimp only | refine PStays.get ‹_› ?_ | split
    | apply PStays.mk

theorem moveSnd_stays {L : List Field} {a s : State} {n1 n2 : _} (h : Stays L a s)
    (hL : Sub [.hostMem, .hst, .time, .ras, .lnk, .core, .stream, .turn] L) :
    OStays L a (moveSnd s n1 n2) := by
  unfold moveSnd
  repeat' with_reducible first
    | assumption | (intro) | apply sramRead_stays | apply updRun_stays | apply sendLine_stays | apply OStays.none
    | apply OStays.some | apply OStays.ite | apply PStays.ite | apply Stays.ite | apply PStays.fst | dsimp only
    | refine PStays.get ‹_› ?_ | split | apply PStays.mk | exact hL.of rfl

theorem moveRcv_stays {L : List Field} {a s : State} {n1 n2 : _} (h : Stays L a s)
    (hL : Sub [.mem, .hostMem, .err, .hst, .ras, .core, .stream] L) :
    OStays L a (moveRcv s n1 n2) := by
  unfold moveRcv
  repeat' with_reducible first
    | assumption | apply takeHead_stays | apply writeLine_stays | apply updRun_stays | apply OStays.none | apply OStays.some
    | apply PStays.fst | dsimp only | refine OQStays.get ‹_› ?_ | split | exact hL.of rfl

theorem takeHeads_stays {L : List Field} {a s : State} {n1 n2 n3 : _} (h : Stays L a s) (hL : Sub [.stream] L) :
    OQStays L a (takeHeads s n1 n2 n3) := by
  induction n3 generalizing s with
  | nil =>
    rw [takeHeads]
    repeat' with_reducible first
        | assumption | (intro) | apply takeHead_stays | refine OQStays.get ‹_› ?_ | split | apply OQStays.none
        | apply OQStays.some
  | cons x t ih =>
    rw [takeHeads]
    repeat' with_reducible first
        | assumption | apply ih | (intro) | apply takeHead_stays | refine OQStays.get ‹_› ?_ | split | apply OQStays.none
        | apply OQStays.some

theorem moveRed_stays {L : List Field} {a s : State} {n1 n2 : _} (h : Stays L a s)
    (hL : Sub [.mem, .hostMem, .err, .hst, .time, .ras, .lnk, .core, .stream, .turn] L) :
    OStays L a (moveRed s n1 n2) := by
  unfold moveRed
  repeat' with_reducible first
    | assumption | (intro) | apply sramRead_stays | apply takeHeads_stays | apply updRun_stays | apply sendLine_stays
    | apply writeLine_stays | apply OStays.none | apply OStays.some | apply OStays.ite | apply PStays.ite | apply Stays.ite
    | apply Stays.foldl | apply PStays.foldl | apply PStays.fst | dsimp only | refine OQStays.get ‹_› ?_
    | refine PStays.get ‹_› ?_ | split | apply PStays.mk | exact hL.of rfl

theorem moveLine_stays {L : List Field} {a s : State} {n1 n2 : _} (h : Stays L a s)
    (hL : Sub [.mem, .hostMem, .err, .hst, .time, .ras, .lnk, .core, .stream, .turn] L) :
    OStays L a (moveLine s n1 n2) := by
  unfold moveLine
  repeat' with_reducible first
    | assumption | (intro) | apply moveSnd_stays | apply moveRcv_stays | apply moveRed_stays | apply OStays.none
    | apply OStays.some | apply OStays.ite | apply Stays.ite | refine OStays.get ‹_› ?_ | split | exact hL.of rfl

theorem pumpCore_stays {L : List Field} {a s : State} {n0 n2 : _} (h : Stays L a s)
    (hL : Sub [.mem, .hostMem, .err, .hst, .time, .ras, .lnk, .core, .stream, .turn] L) :
    Stays L a (pumpCore n0 s n2) := by
  induction n0 generalizing s with
  | zero =>
    rw [pumpCore]
    repeat' with_reducible first
        | assumption
  | succ n ih =>
    rw [pumpCore]
    repeat' with_reducible first
        | assumption | apply ih | (intro) | apply moveLine_stays | apply OStays.findSome | exact OStays.none
        | apply OStays.ite | apply Stays.ite | dsimp only | refine OStays.get ‹_› ?_ | split

theorem pumpAll_stays {L : List Field} {a s : State} {n1 : _} (h : Stays L a s)
    (hL : Sub [.mem, .hostMem, .err, .hst, .time, .ras, .lnk, .core, .stream, .turn] L) :
    Stays L a (pumpAll s n1) := by
  unfold pumpAll
  repeat' with_reducible first | assumption | (intro) | apply pumpCore_stays

theorem placeCheck_stays {L : List Field} {a s : State} {n1 n2 n3 n4 n5 : _} (h : Stays L a s)
    (hL : Sub [.time, .lnk, .core, .stream] L) :
    Stays L a (placeCheck s n1 n2 n3 n4 n5) := by
  unfold placeCheck
  repeat' with_reducible first
    | assumption | (intro) | apply setStream_stays | apply putWire_stays | apply updRun_stays | apply Stays.ite | dsimp only
    | split | exact hL.of rfl

theorem countRoute_stays {L : List Field} {a s : State} {n1 : _} (h : Stays L a s) (hL : Sub [.routes] L) :
    Stays L a (countRoute s n1) := by
  unfold countRoute
  repeat' with_reducible first | assumption | apply Stays.ite | exact hL.of rfl | refine Stays.record ?_ hL

theorem forwardLine_stays {L : List Field} {a s : State} {n1 n2 n3 : _} (h : Stays L a s)
    (hL : Sub [.time, .lnk, .stream, .turn] L) :
    Stays L a (forwardLine s n1 n2 n3) := by
  unfold forwardLine
  repeat' with_reducible first
    | assumption | (intro) | apply serveTurn_stays | apply modStream_stays | apply putWire_stays | apply Stays.ite
    | dsimp only | split | exact hL.of rfl

theorem endSramLap_stays {L : List Field} {a s : State} {n1 : _} (h : Stays L a s) (hL : Sub [.memc, .core] L) :
    Stays L a (endSramLap s n1) := by
  unfold endSramLap
  repeat' with_reducible first
    | assumption | apply modCore_stays | apply Stays.ite | exact hL.of rfl | refine Stays.record ?_ hL

theorem scrubSram_stays {L : List Field} {a s : State} {n1 n2 : _} (h : Stays L a s)
    (hL : Sub [.hostMem, .err, .hst, .ras, .memc, .core] L) :
    Stays L a (scrubSram s n1 n2) := by
  unfold scrubSram
  repeat' with_reducible first
    | assumption | (intro) | apply sramCorrected_stays | apply endSramLap_stays | apply modCore_stays | apply Stays.foldl
    | exact hL.of rfl | refine Stays.record ?_ hL

-- Nbu

theorem enqueueCmd_stays {L : List Field} {a s : State} {n1 n2 n3 n4 : _} (h : Stays L a s) (hL : Sub [.region] L) :
    WStays L a (enqueueCmd s n1 n2 n3 n4) := by
  unfold enqueueCmd
  repeat' with_reducible first
    | assumption | apply setNbu_stays | apply WStays.done | apply WStays.fail | apply WStays.full | apply WStays.ite

theorem writeQuery_stays {L : List Field} {a s : State} {n1 n2 n3 n4 n5 : _} (h : Stays L a s) (hL : Sub [.region] L) :
    WStays L a (writeQuery s n1 n2 n3 n4 n5) := by
  unfold writeQuery
  repeat' with_reducible first
    | assumption | apply setNbu_stays | apply WStays.done | apply WStays.fail | apply WStays.ite

theorem writeQueryAll_stays {L : List Field} {a s : State} {n1 n2 n3 n4 : _} (h : Stays L a s) (hL : Sub [.region] L) :
    WStays L a (writeQueryAll s n1 n2 n3 n4) := by
  unfold writeQueryAll
  repeat' with_reducible first
    | assumption | (intro) | apply modNbu_stays | apply WStays.done | apply WStays.fail | apply WStays.ite
    | apply Stays.foldl

theorem writeParam_stays {L : List Field} {a s : State} {n1 n2 : _} (h : Stays L a s) (hL : Sub [.region] L) :
    WStays L a (writeParam s n1 n2) := by
  unfold writeParam
  repeat' with_reducible first
    | assumption | apply modRegion_stays | apply WStays.done | apply WStays.fail | apply WStays.ite

theorem windowWrite_stays {L : List Field} {a s : State} {n1 n2 n3 n4 n5 : _} (h : Stays L a s) (hL : Sub [.region] L) :
    WStays L a (windowWrite s n1 n2 n3 n4 n5) := by
  unfold windowWrite
  repeat' with_reducible first
    | assumption | apply enqueueCmd_stays | apply writeQuery_stays | apply writeQueryAll_stays | apply writeParam_stays
    | apply WStays.fail | apply WStays.ite

theorem consumeLine_stays {L : List Field} {a s : State} {n1 n2 n3 : _} (h : Stays L a s) (hL : Sub [.region] L) :
    QStays L a (consumeLine s n1 n2 n3) := by
  unfold consumeLine
  repeat' with_reducible first | assumption | apply modNbu_stays | apply QStays.ite | apply QStays.mk

theorem startRound_stays {L : List Field} {a s : State} {n1 n2 : _} (h : Stays L a s) (hL : Sub [.region] L) :
    Stays L a (startRound s n1 n2) := by
  unfold startRound
  repeat' with_reducible first | assumption | apply setRegion_stays | apply Stays.ite

-- ChimneyOps

theorem dramReads_stays {L : List Field} {a s : State} {n1 n2 : _} (h : Stays L a s)
    (hL : Sub [.hostMem, .hst, .ras, .memc, .region] L) :
    PStays L a (dramReads s n1 n2) := by
  induction n2 generalizing s with
  | nil =>
    rw [dramReads]
    repeat' with_reducible first
        | assumption | (intro) | apply dramRead_stays | apply PStays.fst | dsimp only | refine PStays.get ‹_› ?_ | split
        | apply PStays.mk
  | cons x t ih =>
    obtain ⟨_, _⟩ := x; rw [dramReads]
    repeat' with_reducible first
        | assumption | apply ih | (intro) | apply dramRead_stays | apply PStays.fst | dsimp only | refine PStays.get ‹_› ?_
        | split | apply PStays.mk

theorem computeDram_stays {L : List Field} {a s : State} {n1 n2 n3 n4 f5 : _} (h : Stays L a s)
    (hL : Sub [.hostMem, .hst, .ras, .memc, .core, .region] L) :
    PStays L a (computeDram s n1 n2 n3 n4 f5) := by
  unfold computeDram
  repeat' with_reducible first
    | assumption | apply dramReads_stays | apply computeOp_stays | apply PStays.fst | split | apply PStays.mk
    | exact hL.of rfl

theorem commitRange_stays {L : List Field} {a s : State} {n1 n2 n3 : _} (h : Stays L a s)
    (hL : Sub [.mem, .hostMem, .err, .hst, .ras, .memc] L) :
    PStays L a (commitRange s n1 n2 n3) := by
  unfold commitRange
  repeat' with_reducible first
    | assumption | apply dramWrite_stays | apply PStays.fst | split | apply PStays.mk

theorem commitDram_stays {L : List Field} {a s : State} {n1 n2 : _} (h : Stays L a s)
    (hL : Sub [.mem, .hostMem, .err, .hst, .ras, .memc] L) :
    PStays L a (commitDram s n1 n2) := by
  induction n2 generalizing s with
  | nil =>
    rw [commitDram]
    repeat' with_reducible first
        | assumption | (intro) | apply commitRange_stays | apply PStays.fst | dsimp only | refine PStays.get ‹_› ?_ | split
        | apply PStays.mk
  | cons x t ih =>
    obtain ⟨_, _⟩ := x; rw [commitDram]
    repeat' with_reducible first
        | assumption | apply ih | (intro) | apply commitRange_stays | apply PStays.fst | dsimp only | refine PStays.get ‹_› ?_
        | split | apply PStays.mk

theorem nbcCmdMove_stays {L : List Field} {a s : State} {n1 n2 : _} (h : Stays L a s)
    (hL : Sub [.hostMem, .hst, .ras, .core, .region] L) :
    OStays L a (nbcCmdMove s n1 n2) := by
  unfold nbcCmdMove
  repeat' with_reducible first
    | assumption | (intro) | apply windowWrite_stays | apply updRun_stays | apply sramRead_stays | apply OStays.none
    | apply OStays.some | apply PStays.fst | dsimp only | refine PStays.get ‹_› ?_ | refine WStays.get_done ‹_› ?_ | split
    | apply PStays.mk | exact hL.of rfl

theorem nbcTake_stays {L : List Field} {a s : State} {n1 n2 n3 : _} (h : Stays L a s)
    (hL : Sub [.mem, .hostMem, .err, .hst, .ras, .core] L) :
    Stays L a (nbcTake s n1 n2 n3) := by
  unfold nbcTake
  repeat' with_reducible first
    | assumption | apply writeLine_stays | apply updRun_stays | apply PStays.fst | exact hL.of rfl

theorem nbcResultMove_stays {L : List Field} {a s : State} {n1 n2 : _} (h : Stays L a s)
    (hL : Sub [.mem, .hostMem, .err, .hst, .ras, .core, .region] L) :
    OStays L a (nbcResultMove s n1 n2) := by
  unfold nbcResultMove
  repeat' with_reducible first
    | assumption | apply startRound_stays | apply consumeLine_stays | apply nbcTake_stays | apply OStays.none
    | apply OStays.some | apply QStays.snd | split | exact hL.of rfl

theorem nbcMove_stays {L : List Field} {a s : State} {n1 : _} (h : Stays L a s)
    (hL : Sub [.mem, .hostMem, .err, .hst, .ras, .core, .region] L) :
    OStays L a (nbcMove s n1) := by
  unfold nbcMove
  repeat' with_reducible first
    | assumption | apply nbcCmdMove_stays | apply updRun_stays | apply nbcResultMove_stays | apply OStays.none
    | apply OStays.some | split | exact hL.of rfl

theorem pumpNbc_stays {L : List Field} {a s : State} {n0 n2 : _} (h : Stays L a s)
    (hL : Sub [.mem, .hostMem, .err, .hst, .ras, .core, .region] L) :
    Stays L a (pumpNbc n0 s n2) := by
  induction n0 generalizing s with
  | zero =>
    rw [pumpNbc]
    repeat' with_reducible first
        | assumption
  | succ n ih =>
    rw [pumpNbc]
    repeat' with_reducible first
        | assumption | apply ih | (intro) | apply nbcMove_stays | refine OStays.get ‹_› ?_ | split

theorem pumpChimney_stays {L : List Field} {a s : State} {n1 : _} (h : Stays L a s)
    (hL : Sub [.mem, .hostMem, .err, .hst, .ras, .core, .region] L) :
    Stays L a (pumpChimney s n1) := by
  unfold pumpChimney
  repeat' with_reducible first | assumption | apply pumpNbc_stays

-- Table

theorem writeOwn_stays {L : List Field} {a s : State} {n1 n2 n3 : _} (h : Stays L a s)
    (hL : Sub [.mem, .hostMem, .err, .hst, .ras] L) :
    Stays L a (writeOwn s n1 n2 n3) := by
  have k := dramWritePage_stays (n1 := n1) (n2 := n2) (n3 := n3.length) h (hL.of rfl)
  unfold writeOwn
  refine ⟨k.pending, k.flash, k.land, fun F hF => ?_, fun w => Mem.wf_wrBytes _ _ _ (h.wfMem w), k.wfHost⟩
  have e := k.frame F hF
  cases F <;> first | exact e | exact absurd (hL.has rfl) hF

theorem writeMirror_stays {L : List Field} {a s : State} {n1 n2 : _} (h : Stays L a s)
    (hL : Sub [.mem, .hostMem, .err, .hst, .ras] L) :
    Stays L a (writeMirror s n1 n2) := by
  unfold writeMirror
  repeat' with_reducible first | assumption | (intro) | apply writeOwn_stays | apply Stays.foldl | split

theorem editTable_stays {L : List Field} {a s : State} {n1 n2 : _} (h : Stays L a s)
    (hL : Sub [.mem, .hostMem, .err, .hst, .ras, .region] L) :
    Stays L a (editTable s n1 n2) := by
  unfold editTable
  repeat' with_reducible first
    | assumption | apply writeMirror_stays | apply modRegion_stays | apply Stays.ite | exact hL.of rfl

theorem releaseHeld_stays {L : List Field} {a s : State} {n1 : _} (h : Stays L a s)
    (hL : Sub [.mem, .hostMem, .err, .hst, .ras, .region] L) :
    Stays L a (releaseHeld s n1) := by
  unfold releaseHeld
  repeat' with_reducible first | assumption | apply editTable_stays

theorem replaceTable_stays {L : List Field} {a s : State} {n1 n2 : _} (h : Stays L a s)
    (hL : Sub [.mem, .hostMem, .err, .hst, .ras, .region] L) :
    Stays L a (replaceTable s n1 n2) := by
  unfold replaceTable
  repeat' with_reducible first
    | assumption | apply writeMirror_stays | apply modRegion_stays | apply Stays.ite | exact hL.of rfl

-- Barriers

theorem advance_stays {L : List Field} {a s : State} {n1 : _} (h : Stays L a s) (hL : Sub [.core] L) :
    Stays L a (advance s n1) := by
  unfold advance
  repeat' with_reducible first | assumption | apply modCore_stays

theorem bumpCnt_stays {L : List Field} {a s : State} {n1 n2 n3 : _} (h : Stays L a s)
    (hL : Sub [.hostMem, .hst, .ras, .lnk, .core, .stream, .linkCorr, .routes, .part, .bars, .snaps] L) :
    Stays L a (bumpCnt s n1 n2 n3) := by
  unfold bumpCnt
  repeat' with_reducible first
    | assumption | (intro) | apply opFault_stays | apply modCore_stays | apply Stays.ite | dsimp only | exact hL.of rfl

theorem doneRec_stays {L : List Field} {a s : State} {n1 n2 n3 : _} (h : Stays L a s)
    (hL : Sub [.hostMem, .hst, .ras, .lnk, .core, .stream, .linkCorr, .routes, .part, .bars, .snaps] L) :
    Stays L a (doneRec s n1 n2 n3) := by
  unfold doneRec
  repeat' with_reducible first | assumption | apply bumpCnt_stays | apply Stays.ite

theorem sendToken_stays {L : List Field} {a s : State} {n1 n2 n3 n4 n5 : _} (h : Stays L a s)
    (hL : Sub [.time, .lnk, .stream] L) :
    Stays L a (sendToken s n1 n2 n3 n4 n5) := by
  unfold sendToken
  repeat' with_reducible first | assumption | (intro) | apply sendControl_stays

theorem sendMembers_stays {L : List Field} {a s : State} {n1 n2 n3 n4 : _} (h : Stays L a s)
    (hL : Sub [.time, .lnk, .stream] L) :
    Stays L a (sendMembers s n1 n2 n3 n4) := by
  unfold sendMembers
  repeat' with_reducible first
    | assumption | (intro) | apply sendToken_stays | apply Stays.foldl | apply PStays.foldl | dsimp only | split

theorem sendDown_stays {L : List Field} {a s : State} {n1 n2 : _} (h : Stays L a s) (hL : Sub [.time, .lnk, .stream] L) :
    Stays L a (sendDown s n1 n2) := by
  unfold sendDown
  repeat' with_reducible first
    | assumption | (intro) | apply sendToken_stays | apply Stays.foldl | apply PStays.foldl | dsimp only | split

theorem sendUpEdge_stays {L : List Field} {a s : State} {n1 n2 : _} (h : Stays L a s) (hL : Sub [.time, .lnk, .stream] L) :
    Stays L a (sendUpEdge s n1 n2) := by
  unfold sendUpEdge
  repeat' with_reducible first
    | assumption | (intro) | apply sendToken_stays | split

theorem setBar_stays {L : List Field} {a s : State} {n1 : _} (h : Stays L a s) (hL : Sub [.bars] L) :
    Stays L a (setBar s n1) := by
  unfold setBar
  repeat' with_reducible first | assumption | apply Stays.ite | exact hL.of rfl | refine Stays.record ?_ hL

theorem dropBar_stays {L : List Field} {a s : State} {n1 n2 : _} (h : Stays L a s) (hL : Sub [.bars] L) :
    Stays L a (dropBar s n1 n2) := by
  unfold dropBar
  repeat' with_reducible first | assumption | exact hL.of rfl | refine Stays.record ?_ hL

theorem stepBar_stays {L : List Field} {a s : State} {n1 : _} (h : Stays L a s) (hL : Sub [.time, .lnk, .stream, .bars] L) :
    Stays L a (stepBar s n1) := by
  unfold stepBar
  repeat' with_reducible first
    | assumption | (intro) | apply setBar_stays | apply sendMembers_stays | apply sendDown_stays | apply sendUpEdge_stays
    | apply Stays.ite | dsimp only | split | exact hL.of rfl

theorem writeHeaders_stays {L : List Field} {a s : State} {n1 : _} (h : Stays L a s)
    (hL : Sub [.mem, .hostMem, .err, .hst, .ras] L) :
    Stays L a (writeHeaders s n1) := by
  unfold writeHeaders
  repeat' with_reducible first
    | assumption | (intro) | apply writeOwn_stays | apply Stays.foldl

theorem freeBytes_stays {L : List Field} {a s : State} {n1 n2 : _} (h : Stays L a s) (hL : Sub [.free, .mem] L) :
    Stays L a (freeBytes s n1 n2) := by
  unfold freeBytes
  exact Stays.record h hL (wm := (Mem.wf_wrBytes _ _ _))

theorem fillArea_stays {L : List Field} {a s : State} {n1 : _} (h : Stays L a s) (hL : Sub [.free, .mem] L) :
    Stays L a (fillArea s n1) := by
  unfold fillArea
  exact freeBytes_stays (Stays.record (freeBytes_stays (Stays.record h hL (wm := (Mem.wf_copyMem _ _ _ _))) (hL.of rfl)) hL (wm := (Mem.wf_wrBytes _ _ _))) (hL.of rfl)

theorem freshArea_stays {L : List Field} {a s : State} {n1 n2 n3 : _} (h : Stays L a s)
    (hL : Sub [.hostMem, .err, .hst, .ras] L) :
    Stays L a (freshArea s n1 n2 n3) := by
  unfold freshArea
  repeat' with_reducible first | assumption | (intro) | apply dramWritePage_stays | apply Stays.foldl

theorem putSnap_stays {L : List Field} {a s : State} {n1 : _} (h : Stays L a s) (hL : Sub [.snaps] L) :
    Stays L a (putSnap s n1) := by
  unfold putSnap
  repeat' with_reducible first | assumption | exact hL.of rfl | refine Stays.record ?_ hL

theorem copyReads_stays {L : List Field} {a s : State} {n1 : _} (h : Stays L a s) (hL : Sub [.hostMem, .hst, .ras, .core] L) :
    PStays L a (copyReads s n1) := by
  induction n1 generalizing s with
  | nil =>
    rw [copyReads]
    repeat' with_reducible first
        | assumption | (intro) | apply sramRead_stays | apply PStays.fst | dsimp only | refine PStays.get ‹_› ?_ | split
        | apply PStays.mk
  | cons x t ih =>
    rw [copyReads]
    repeat' with_reducible first
        | assumption | apply ih | (intro) | apply sramRead_stays | apply PStays.fst | dsimp only | refine PStays.get ‹_› ?_
        | split | apply PStays.mk

theorem sramLost_stays {L : List Field} {a s : State} {n1 n2 : _} (h : Stays L a s)
    (hL : Sub [.hostMem, .hst, .ras, .lnk, .core, .stream, .linkCorr, .routes, .part, .bars, .snaps] L) :
    Stays L a (sramLost s n1 n2) := by
  unfold sramLost
  repeat' with_reducible first | assumption | (intro) | apply opFault_stays | apply noteBank_stays | exact hL.of rfl

theorem beginCopy_stays {L : List Field} {a s : State} {n1 n2 : _} (h : Stays L a s)
    (hL : Sub [.free, .mem, .hostMem, .err, .hst, .ras, .lnk, .core, .stream, .linkCorr, .routes, .part, .bars, .snaps] L) :
    Stays L a (beginCopy s n1 n2) := by
  unfold beginCopy
  repeat' with_reducible first
    | assumption | (intro) | apply copyReads_stays | apply sramLost_stays | apply fillArea_stays | apply freshArea_stays
    | apply putSnap_stays | apply writeHeaders_stays | apply Stays.foldl | apply PStays.foldl | apply PStays.fst
    | dsimp only | refine PStays.get ‹_› ?_ | split | apply PStays.mk | exact hL.of rfl

theorem takeSnap_stays {L : List Field} {a s : State} {n1 : _} (h : Stays L a s)
    (hL : Sub [.mem, .hostMem, .err, .hst, .ras, .region, .part, .snaps] L) :
    Stays L a (takeSnap s n1) := by
  unfold takeSnap
  repeat' with_reducible first
    | assumption | (intro) | apply writeHeaders_stays | apply releaseHeld_stays | apply finishEvery_stays
    | apply modPart_stays | apply Stays.ite | apply Stays.foldl | apply PStays.foldl | dsimp only | split | exact hL.of rfl
    | refine Stays.record ?_ hL

theorem syncCore_stays {L : List Field} {a s : State} {n1 : _} (h : Stays L a s) (hL : Sub [.core] L) :
    Stays L a (syncCore s n1) := by
  unfold syncCore
  repeat' with_reducible first | assumption | apply modCore_stays

theorem syncAll_stays {L : List Field} {a s : State} {n1 : _} (h : Stays L a s) (hL : Sub [.core] L) :
    Stays L a (syncAll s n1) := by
  unfold syncAll
  repeat' with_reducible first
    | assumption | (intro) | apply syncCore_stays | apply Stays.ite | apply Stays.foldl | apply PStays.foldl | split

theorem passBar_stays {L : List Field} {a s : State} {n0 n1 n3 : _} (h : Stays L a s)
    (hL : Sub [.hostMem, .hst, .ras, .lnk, .core, .stream, .linkCorr, .routes, .part, .bars, .snaps] L) :
    Stays L a (passBar n0 n1 s n3) := by
  unfold passBar
  repeat' with_reducible first
    | assumption | (intro) | apply modCore_stays | apply doneRec_stays | apply advance_stays | apply Stays.ite
    | apply PStays.fst | dsimp only | split | exact hL.of rfl

theorem passAll_stays {L : List Field} {a s : State} {n1 n2 : _} (h : Stays L a s)
    (hL : Sub [.hostMem, .hst, .ras, .lnk, .core, .stream, .linkCorr, .routes, .part, .bars, .snaps] L) :
    Stays L a (passAll s n1 n2) := by
  unfold passAll
  repeat' with_reducible first
    | assumption | (intro) | apply dropBar_stays | apply passBar_stays | apply Stays.foldl | apply PStays.foldl | split
    | exact hL.of rfl

theorem startRotation_stays {L : List Field} {a s : State} {n1 : _} (h : Stays L a s) (hL : Sub [.part] L) :
    Stays L a (startRotation s n1) := by
  unfold startRotation
  repeat' with_reducible first
    | assumption | (intro) | apply modPart_stays | apply PStays.fst | dsimp only | split

theorem exchangeStream_stays {L : List Field} {a s : State} {n0 n1 n2 n4 : _} (h : Stays L a s) (hL : Sub [.stream] L) :
    Stays L a (exchangeStream n0 n1 n2 s n4) := by
  unfold exchangeStream
  repeat' with_reducible first
    | assumption | (intro) | apply setStream_stays

theorem exchangePlaces_stays {L : List Field} {a s : State} {n1 n2 n3 : _} (h : Stays L a s) (hL : Sub [.routes, .bars] L) :
    Stays L a (exchangePlaces s n1 n2 n3) := by
  unfold exchangePlaces
  repeat' with_reducible first
    | assumption | (intro) | apply Stays.ite | dsimp only | exact hL.of rfl | refine Stays.record ?_ hL

theorem exchangeCores_stays {L : List Field} {a s : State} {n1 n2 n3 : _} (h : Stays L a s)
    (hL : Sub [.mem, .err, .core, .stream, .routes, .bars] L) :
    Stays L a (exchangeCores s n1 n2 n3) := by
  unfold exchangeCores
  refine Stays.foldl _ (fun x y k => matchCredit_stays k (hL.of rfl)) (exchangePlaces_stays (Stays.foldl _ (fun x y k =>
    exchangeStream_stays k (hL.of rfl)) (setCore_stays (setCore_stays (Stays.record h (T := [.mem, .err]) (hL.of rfl)
      (wm := (fun w => ?_))) (hL.of rfl)) (hL.of rfl))) (hL.of rfl))
  exact Mem.wf_foldl_wrByte _ _ _ _ (Mem.wf_foldl_wrByte _ _ _ _ (Mem.wf_clearMem _ _ _ (Mem.wf_clearMem _ _ _ w)))

theorem copyAt_stays {L : List Field} {a s : State} {n1 : _} (h : Stays L a s)
    (hL : Sub [.free, .mem, .hostMem, .err, .hst, .ras, .lnk, .core, .stream, .linkCorr, .routes, .part, .bars, .snaps] L) :
    Stays L a (copyAt s n1) := by
  unfold copyAt
  repeat' with_reducible first
    | assumption | (intro) | apply beginCopy_stays | apply setBar_stays | apply syncAll_stays | apply Stays.ite
    | exact hL.of rfl

theorem goOn_stays {L : List Field} {a s : State} {n1 n2 : _} (h : Stays L a s)
    (hL : Sub [.hostMem, .hst, .ras, .lnk, .core, .stream, .linkCorr, .routes, .part, .bars, .snaps] L) :
    Stays L a (goOn s n1 n2) := by
  unfold goOn
  repeat' with_reducible first | assumption | (intro) | apply startRotation_stays | apply passAll_stays | exact hL.of rfl

theorem arrive_stays {L : List Field} {a s : State} {n1 n2 : _} (h : Stays L a s)
    (hL : Sub [.free, .mem, .hostMem, .err, .hst, .time, .ras, .lnk, .core, .stream, .linkCorr, .routes, .part, .bars,
      .snaps] L) :
    Stays L a (arrive s n1 n2) := by
  unfold arrive
  repeat' with_reducible first
    | assumption | (intro) | apply setBar_stays | apply copyAt_stays | apply stepBar_stays | apply Stays.ite | dsimp only
    | split | exact hL.of rfl

theorem afterDrain_stays {L : List Field} {a s : State} {n1 : _} (h : Stays L a s)
    (hL : Sub [.free, .mem, .hostMem, .err, .hst, .time, .ras, .lnk, .core, .stream, .linkCorr, .routes, .part, .bars,
      .snaps] L) :
    Stays L a (afterDrain s n1) := by
  unfold afterDrain
  repeat' with_reducible first
    | assumption | apply arrive_stays | apply modCore_stays | apply Stays.ite | split | exact hL.of rfl

theorem tokenAt_stays {L : List Field} {a s : State} {n1 n2 n3 n4 : _} (h : Stays L a s)
    (hL : Sub [.time, .lnk, .stream, .bars] L) :
    Stays L a (tokenAt s n1 n2 n3 n4) := by
  unfold tokenAt
  repeat' with_reducible first | assumption | apply stepBar_stays | apply setBar_stays | exact hL.of rfl

theorem takeArrive_stays {L : List Field} {a s : State} {n1 n2 : _} (h : Stays L a s)
    (hL : Sub [.time, .lnk, .stream, .bars] L) :
    Stays L a (takeArrive s n1 n2) := by
  unfold takeArrive
  repeat' with_reducible first
    | assumption | (intro) | apply tokenAt_stays | apply sendMembers_stays | apply Stays.ite | apply Stays.foldl
    | apply PStays.foldl | dsimp only | exact hL.of rfl

theorem takeRelease_stays {L : List Field} {a s : State} {n1 n2 : _} (h : Stays L a s)
    (hL : Sub [.time, .lnk, .stream, .bars] L) :
    Stays L a (takeRelease s n1 n2) := by
  unfold takeRelease
  repeat' with_reducible first
    | assumption | (intro) | apply sendMembers_stays | apply sendDown_stays | apply setBar_stays | apply Stays.ite
    | apply Stays.foldl | apply PStays.foldl | dsimp only | split | exact hL.of rfl

-- Sequencer

theorem fetched_stays {L : List Field} {a s : State} {n1 f2 : _} (h : Stays L a s) (hf2 : ∀ x0, Stays L a x0 → Stays L a (f2 x0))
    (hL : Sub [.hostMem, .hst, .ras, .lnk, .core, .stream, .linkCorr, .routes, .part, .bars, .snaps] L) :
    Stays L a (fetched s n1 f2) := by
  unfold fetched
  repeat' with_reducible first
    | assumption | (intro) | apply sramRead_stays | apply opFault_stays | apply noteBank_stays | apply hf2
    | apply PStays.fst | dsimp only | refine PStays.get ‹_› ?_ | split | apply PStays.mk | exact hL.of rfl

theorem stallShared_stays {L : List Field} {a s : State} {n1 n2 n3 n4 : _} (h : Stays L a s) (hL : Sub [.core] L) :
    Stays L a (stallShared s n1 n2 n3 n4) := by
  unfold stallShared
  repeat' with_reducible first
    | assumption | (intro) | apply modCore_stays | apply Stays.ite

theorem decideMode_stays {L : List Field} {a s : State} {n1 n2 : _} (h : Stays L a s) (hL : Sub [.pwr, .region] L) :
    MStays L a (decideMode s n1 n2) := by
  unfold decideMode
  repeat' with_reducible first
    | assumption | apply modPwr_stays | apply modRegion_stays | apply MStays.now | apply MStays.admission | apply MStays.ite
    | split | exact hL.of rfl

theorem requestMode_stays {L : List Field} {a s : State} {n1 n2 : _} (h : Stays L a s) (hL : Sub [.pwr, .region] L) :
    MStays L a (requestMode s n1 n2) := by
  unfold requestMode
  repeat' with_reducible first
    | assumption | (intro) | apply modRegion_stays | apply decideMode_stays | apply MStays.now | apply MStays.admission
    | apply MStays.ite | apply Stays.ite | dsimp only | refine MStays.get_now ‹_› ?_ | refine MStays.get_admission ‹_› ?_
    | split | exact hL.of rfl

theorem xfwdOutcome_stays {L : List Field} {a s : State} {n1 n2 : _} (h : Stays L a s)
    (hL : Sub [.hostMem, .hst, .ras, .stream, .routes] L) :
    PStays L a (xfwdOutcome s n1 n2) := by
  unfold xfwdOutcome
  repeat' with_reducible first
    | assumption | apply dropOrphans_stays | split | apply PStays.mk | exact hL.of rfl | refine Stays.record ?_ hL

theorem computeRec_stays {L : List Field} {a s : State} {n1 n2 : _} (h : Stays L a s)
    (hL : Sub [.hostMem, .hst, .pwr, .ras, .memc, .core, .region] L) :
    PStays L a (computeRec s n1 n2) := by
  unfold computeRec
  repeat' with_reducible first
    | assumption | (intro) | apply computeOp_stays | apply computeDram_stays | apply requestMode_stays | apply PStays.ite
    | apply Stays.ite | apply PStays.fst | dsimp only | refine MStays.get_now ‹_› ?_ | refine MStays.get_admission ‹_› ?_
    | refine PStays.get ‹_› ?_ | split | apply PStays.mk | exact hL.of rfl

theorem startRec_stays {L : List Field} {a s : State} {n1 n2 n3 n4 : _} (h : Stays L a s)
    (hL : Sub [.hostMem, .hst, .pwr, .ras, .memc, .core, .region] L) :
    Stays L a (startRec s n1 n2 n3 n4) := by
  unfold startRec
  repeat' with_reducible first
    | assumption | apply computeRec_stays | apply modCore_stays | apply PStays.fst | exact hL.of rfl

theorem overlapStall_stays {L : List Field} {a s : State} {n1 n2 : _} (h : Stays L a s) (hL : Sub [.core] L) :
    Stays L a (overlapStall s n1 n2) := by
  unfold overlapStall
  repeat' with_reducible first
    | assumption | (intro) | apply stallShared_stays | apply Stays.ite | apply Stays.foldl

theorem startQueued_stays {L : List Field} {a s : State} {n0 n2 : _} (h : Stays L a s)
    (hL : Sub [.hostMem, .hst, .pwr, .ras, .memc, .core, .region] L) :
    Stays L a (startQueued n0 s n2) := by
  induction n0 generalizing s with
  | zero => exact h
  | succ n ih =>
    rw [startQueued]; split
    · exact ih (startRec_stays (modCore_stays (overlapStall_stays h (hL.of rfl)) (hL.of rfl)) (hL.of rfl))
    · exact h

theorem startAtReadout_stays {L : List Field} {a s : State} {n1 : _} (h : Stays L a s)
    (hL : Sub [.hostMem, .hst, .pwr, .ras, .memc, .core, .region] L) :
    Stays L a (startAtReadout s n1) := by
  unfold startAtReadout
  repeat' with_reducible first
    | assumption | (intro) | apply modCore_stays | apply startQueued_stays | dsimp only | exact hL.of rfl

theorem settle_stays {L : List Field} {a s : State} {n1 : _} (h : Stays L a s)
    (hL : Sub [.mem, .hostMem, .err, .hst, .time, .pwr, .ras, .lnk, .memc, .core, .stream, .turn, .region] L) :
    Stays L a (settle s n1) := by
  unfold settle
  repeat' with_reducible first
    | assumption | apply pumpChimney_stays | apply pumpAll_stays | apply startQueued_stays | exact hL.of rfl

theorem issueOp_stays {L : List Field} {a s : State} {n1 : _} (h : Stays L a s)
    (hL : Sub [.mem, .hostMem, .err, .hst, .time, .pwr, .ras, .lnk, .memc, .core, .stream, .turn, .region] L) :
    Stays L a (issueOp s n1) := by
  unfold issueOp
  repeat' with_reducible first
    | assumption | (intro) | apply startAtReadout_stays | apply modCore_stays | apply settle_stays | apply advance_stays
    | dsimp only | exact hL.of rfl

theorem issueTile_stays {L : List Field} {a s : State} {n1 n2 n3 : _} (h : Stays L a s)
    (hL : Sub [.mem, .hostMem, .err, .hst, .time, .pwr, .ras, .lnk, .memc, .core, .stream, .linkCorr, .turn, .routes,
      .region, .part, .bars, .snaps] L) :
    Stays L a (issueTile s n1 n2 n3) := by
  unfold issueTile
  repeat' with_reducible first
    | assumption | (intro) | apply fetched_stays | apply issueOp_stays | apply Stays.ite | exact hL.of rfl

theorem countRun_stays {L : List Field} {a s : State} {n1 n2 : _} (h : Stays L a s) (hL : Sub [.core] L) :
    Stays L a (countRun s n1 n2) := by
  unfold countRun
  repeat' with_reducible first
    | assumption | (intro) | apply modCore_stays

theorem commitSram_stays {L : List Field} {a s : State} {n1 n2 : _} (h : Stays L a s)
    (hL : Sub [.mem, .hostMem, .err, .hst, .ras, .core] L) :
    PStays L a (commitSram s n1 n2) := by
  induction n2 generalizing s with
  | nil =>
    rw [commitSram]
    repeat' with_reducible first
        | assumption | (intro) | apply sramWrite_stays | apply PStays.fst | dsimp only | refine PStays.get ‹_› ?_ | split
        | apply PStays.mk
  | cons x t ih =>
    obtain ⟨_, _⟩ := x; rw [commitSram]
    repeat' with_reducible first
        | assumption | apply ih | (intro) | apply sramWrite_stays | apply PStays.fst | dsimp only | refine PStays.get ‹_› ?_
        | split | apply PStays.mk

theorem failRun_stays {L : List Field} {a s : State} {n1 n2 n3 : _} (h : Stays L a s)
    (hL : Sub [.free, .mem, .hostMem, .err, .hst, .time, .pwr, .ras, .lnk, .memc, .core, .stream, .linkCorr, .turn,
      .routes, .region, .part, .bars, .snaps] L) :
    Stays L a (failRun s n1 n2 n3) := by
  unfold failRun
  repeat' with_reducible first
    | assumption | apply countRun_stays | apply noteBank_stays | apply afterDrain_stays | apply settle_stays
    | apply endOp_stays | apply Stays.ite | exact hL.of rfl

theorem readoutStall_stays {L : List Field} {a s : State} {n1 n2 : _} (h : Stays L a s) (hL : Sub [.core] L) :
    Stays L a (readoutStall s n1 n2) := by
  unfold readoutStall
  repeat' with_reducible first
    | assumption | (intro) | apply modCore_stays | apply stallShared_stays | apply Stays.ite | dsimp only | split

theorem chimneyDelay_stays {L : List Field} {a s : State} {n1 n2 : _} (h : Stays L a s) (hL : Sub [.free, .core] L) :
    Stays L a (chimneyDelay s n1 n2) := by
  unfold chimneyDelay
  repeat' with_reducible first
    | assumption | (intro) | apply modCore_stays | apply draw_stays | apply Stays.ite | dsimp only | split | exact hL.of rfl

theorem finishRun_stays {L : List Field} {a s : State} {n1 n2 : _} (h : Stays L a s)
    (hL : Sub [.free, .mem, .hostMem, .err, .hst, .time, .pwr, .ras, .lnk, .memc, .core, .stream, .linkCorr, .turn,
      .routes, .region, .part, .bars, .snaps] L) :
    Stays L a (finishRun s n1 n2) := by
  unfold finishRun
  repeat' with_reducible first
    | assumption | (intro) | apply commitSram_stays | apply failRun_stays | apply commitDram_stays
    | apply readoutStall_stays | apply countRun_stays | apply chimneyDelay_stays | apply modCore_stays | apply report_stays
    | apply afterDrain_stays | apply settle_stays | apply doneRec_stays | apply Stays.foldl | apply PStays.foldl
    | apply PStays.fst | dsimp only | refine PStays.get ‹_› ?_ | split | apply PStays.mk | exact hL.of rfl

theorem restartRun_stays {L : List Field} {a s : State} {n1 n2 n3 : _} (h : Stays L a s)
    (hL : Sub [.hostMem, .hst, .pwr, .ras, .memc, .core, .region] L) :
    Stays L a (restartRun s n1 n2 n3) := by
  unfold restartRun
  repeat' with_reducible first
    | assumption | (intro) | apply computeRec_stays | apply modCore_stays | apply PStays.ite | apply Stays.ite
    | apply PStays.fst | dsimp only | refine PStays.get ‹_› ?_ | apply PStays.mk | exact hL.of rfl

theorem residueRun_stays {L : List Field} {a s : State} {n1 n2 n3 n4 n5 n6 : _} (h : Stays L a s)
    (hL : Sub [.free, .mem, .hostMem, .err, .dev, .hst, .time, .pwr, .ras, .lnk, .memc, .core, .stream, .linkCorr, .turn,
      .routes, .region, .part, .bars, .snaps] L) :
    Stays L a (residueRun s n1 n2 n3 n4 n5 n6) := by
  unfold residueRun
  repeat' with_reducible first
    | assumption | (intro) | apply modCore_stays | apply quarantineCore_stays | apply countRun_stays | apply settle_stays
    | apply restartRun_stays | apply afterDrain_stays | apply opFault_stays | apply Stays.ite | dsimp only | exact hL.of rfl

theorem countCrc_stays {L : List Field} {a s : State} {n1 n2 n3 : _} (h : Stays L a s) (hL : Sub [.chim] L) :
    Stays L a (countCrc s n1 n2 n3) := by
  unfold countCrc
  repeat' with_reducible first
    | assumption | (intro) | apply setChim_stays

theorem countCrcs_stays {L : List Field} {a s : State} {n1 n2 : _} (h : Stays L a s) (hL : Sub [.chim] L) :
    Stays L a (countCrcs s n1 n2) := by
  unfold countCrcs
  repeat' with_reducible first
    | assumption | (intro) | apply countCrc_stays | apply Stays.ite | apply Stays.foldl

theorem endRun_stays {L : List Field} {a s : State} {n1 n2 : _} (h : Stays L a s)
    (hL : Sub [.free, .mem, .hostMem, .err, .dev, .hst, .time, .pwr, .ras, .lnk, .memc, .core, .stream, .linkCorr, .turn,
      .routes, .region, .part, .bars, .snaps] L) :
    Stays L a (endRun s n1 n2) := by
  unfold endRun
  repeat' with_reducible first
    | assumption | (intro) | apply xfwdOutcome_stays | apply finishRun_stays | apply failRun_stays | apply residueRun_stays
    | apply commitSram_stays | apply PStays.ite | apply Stays.ite | apply PStays.fst | dsimp only | refine PStays.get ‹_› ?_
    | split | apply PStays.mk | exact hL.of rfl

theorem opEnds_stays {L : List Field} {a s : State} {n0 n1 n2 : _} (h : Stays L a s)
    (hL : Sub [.free, .mem, .hostMem, .err, .dev, .hst, .time, .pwr, .ras, .lnk, .memc, .core, .stream, .linkCorr, .turn,
      .routes, .region, .chim, .part, .bars, .snaps] L) :
    RStays L a (opEnds n0 n1 n2 s) := by
  unfold opEnds
  repeat' with_reducible first
    | assumption | (intro) | apply endRun_stays | apply residueRun_stays | apply countCrcs_stays | apply failRun_stays
    | apply RStays.next | apply RStays.fault | apply RStays.ite | apply Stays.ite | dsimp only | split | exact hL.of rfl

theorem endWait_stays {L : List Field} {a s : State} {n1 n2 n3 n4 : _} (h : Stays L a s)
    (hL : Sub [.hostMem, .hst, .ras, .lnk, .core, .stream, .linkCorr, .routes, .part, .bars, .snaps] L) :
    Stays L a (endWait s n1 n2 n3 n4) := by
  unfold endWait
  repeat' with_reducible first
    | assumption | apply modCore_stays | apply doneRec_stays | apply advance_stays | apply Stays.ite | exact hL.of rfl

theorem holdIssue_stays {L : List Field} {a s : State} {n1 n2 : _} (h : Stays L a s) (hL : Sub [.core] L) :
    Stays L a (holdIssue s n1 n2) := by
  unfold holdIssue
  repeat' with_reducible first | assumption | apply modCore_stays

theorem startWait_stays {L : List Field} {a s : State} {n1 : _} (h : Stays L a s)
    (hL : Sub [.hostMem, .hst, .ras, .lnk, .core, .stream, .linkCorr, .routes, .part, .bars, .snaps] L) :
    Stays L a (startWait s n1) := by
  unfold startWait
  repeat' with_reducible first
    | assumption | apply modCore_stays | apply endWait_stays | apply holdIssue_stays | apply Stays.ite | exact hL.of rfl

theorem startBar_stays {L : List Field} {a s : State} {n1 : _} (h : Stays L a s)
    (hL : Sub [.free, .mem, .hostMem, .err, .hst, .time, .ras, .lnk, .core, .stream, .linkCorr, .routes, .part, .bars,
      .snaps] L) :
    Stays L a (startBar s n1) := by
  unfold startBar
  repeat' with_reducible first
    | assumption | apply modCore_stays | apply arrive_stays | apply advance_stays | apply afterDrain_stays
    | apply holdIssue_stays | apply Stays.ite | exact hL.of rfl

theorem startIdle_stays {L : List Field} {a s : State} {n1 : _} (h : Stays L a s)
    (hL : Sub [.free, .mem, .hostMem, .err, .hst, .time, .ras, .lnk, .core, .stream, .linkCorr, .routes, .part, .bars,
      .snaps] L) :
    Stays L a (startIdle s n1) := by
  unfold startIdle
  repeat' with_reducible first
    | assumption | apply afterDrain_stays | apply holdIssue_stays | apply modCore_stays | exact hL.of rfl

theorem endIdle_stays {L : List Field} {a s : State} {n1 : _} (h : Stays L a s)
    (hL : Sub [.free, .hostMem, .hst, .ras, .lnk, .core, .stream, .linkCorr, .routes, .part, .bars, .snaps] L) :
    Stays L a (endIdle s n1) := by
  unfold endIdle
  repeat' with_reducible first
    | assumption | apply modCore_stays | apply doneRec_stays | apply advance_stays | exact hL.of rfl
    | refine Stays.record ?_ hL

theorem runLoop_stays {L : List Field} {a s : State} {n1 : _} (h : Stays L a s) (hL : Sub [.core] L) :
    Stays L a (runLoop s n1) := by
  unfold runLoop
  repeat' with_reducible first
    | assumption | apply setCore_stays | apply advance_stays | dsimp only | split

theorem endSig_stays {L : List Field} {a s : State} {n1 n2 : _} (h : Stays L a s)
    (hL : Sub [.hostMem, .hst, .ras, .lnk, .core, .stream, .linkCorr, .routes, .part, .bars, .snaps] L) :
    Stays L a (endSig s n1 n2) := by
  unfold endSig
  repeat' with_reducible first | assumption | apply modCore_stays | apply bumpCnt_stays | apply Stays.ite | exact hL.of rfl

theorem dropSig_stays {L : List Field} {a s : State} {n1 n2 : _} (h : Stays L a s)
    (hL : Sub [.hostMem, .hst, .ras, .lnk, .core, .stream, .linkCorr, .routes, .part, .bars, .snaps] L) :
    Stays L a (dropSig s n1 n2) := by
  unfold dropSig
  repeat' with_reducible first | assumption | apply endSig_stays | apply report_stays | exact hL.of rfl

theorem deliverSig_stays {L : List Field} {a s : State} {n1 : _} (h : Stays L a s)
    (hL : Sub [.hostMem, .hst, .ras, .lnk, .core, .stream, .linkCorr, .routes, .part, .bars, .snaps] L) :
    Stays L a (deliverSig s n1) := by
  unfold deliverSig
  repeat' with_reducible first
    | assumption | apply modChan_stays | apply putRecord_stays | apply endSig_stays | apply raiseChannel_stays
    | apply dropSig_stays | apply Stays.ite | split | exact hL.of rfl

theorem deliverSigs_stays {L : List Field} {a s : State} (h : Stays L a s)
    (hL : Sub [.hostMem, .hst, .ras, .lnk, .core, .stream, .linkCorr, .routes, .part, .bars, .snaps] L) :
    Stays L a (deliverSigs s) := by
  unfold deliverSigs
  repeat' with_reducible first | assumption | (intro) | apply deliverSig_stays | apply Stays.foldl

theorem startSig_stays {L : List Field} {a s : State} {n1 : _} (h : Stays L a s)
    (hL : Sub [.hostMem, .hst, .ras, .lnk, .core, .stream, .linkCorr, .routes, .part, .bars, .snaps] L) :
    Stays L a (startSig s n1) := by
  unfold startSig
  repeat' with_reducible first
    | assumption | apply modCore_stays | apply deliverSig_stays | apply advance_stays | exact hL.of rfl

theorem timeoutNext_stays {L : List Field} {a s : State} {n1 : _} (h : Stays L a s)
    (hL : Sub [.hostMem, .hst, .ras, .lnk, .core, .stream, .linkCorr, .routes, .part, .bars, .snaps] L) :
    Stays L a (timeoutNext s n1) := by
  unfold timeoutNext
  repeat' with_reducible first
    | assumption | (intro) | apply opFault_stays | apply Stays.ite

theorem failQueued_stays {L : List Field} {a s : State} {n1 n2 : _} (h : Stays L a s)
    (hL : Sub [.free, .mem, .hostMem, .err, .hst, .time, .pwr, .ras, .lnk, .memc, .core, .stream, .linkCorr, .turn,
      .routes, .region, .part, .bars, .snaps] L) :
    Stays L a (failQueued s n1 n2) := by
  unfold failQueued
  repeat' with_reducible first
    | assumption | (intro) | apply modCore_stays | apply afterDrain_stays | apply settle_stays | apply opFault_stays
    | dsimp only | exact hL.of rfl

-- Pcie

theorem modAer_stays {L : List Field} {a s : State} {n1 : _} (h : Stays L a s) (hL : Sub [.hst] L) :
    Stays L a (modAer s n1) := by
  unfold modAer
  repeat' with_reducible first | assumption | (intro) | exact hL.of rfl | refine Stays.record ?_ hL

theorem noteUnsupported_stays {L : List Field} {a s : State} {n0 : _} (h : Stays L a s) (hL : Sub [.hst] L) :
    Stays L a (noteUnsupported n0 s) := by
  unfold noteUnsupported
  repeat' with_reducible first
    | assumption | (intro) | apply modAer_stays

theorem noteTimeout_stays {L : List Field} {a s : State} (h : Stays L a s) (hL : Sub [.hst] L) :
    Stays L a (noteTimeout s) := by
  unfold noteTimeout
  repeat' with_reducible first
    | assumption | (intro) | apply modAer_stays

theorem sendPending_stays {L : List Field} {a s : State} (h : Stays L a s) (hL : Sub [.hst] L) :
    Stays L a (sendPending s) := by
  unfold sendPending
  repeat' with_reducible first
    | assumption | (intro) | apply Stays.ite | apply Stays.foldl | apply PStays.foldl | dsimp only | exact hL.of rfl
    | refine Stays.record ?_ hL

theorem releaseHeldWrites_stays {L : List Field} {a s : State} (h : Stays L a s) (hL : Sub [.hostMem, .hst, .ras] L) :
    Stays L a (releaseHeldWrites s) := by
  unfold releaseHeldWrites; dsimp only; split
  · exact h
  · exact sendPending_stays (flushLog_stays (Stays.foldl _ (fun x y k => raiseVector_stays k (hL.of rfl)) (Stays.record h hL (wh := (Mem.wf_foldl_wrBytes _ _ _ _)))) (hL.of rfl)) (hL.of rfl)

theorem writeCfg_stays {L : List Field} {a s : State} {n1 n2 : _} (h : Stays L a s) (hL : Sub [.hostMem, .hst, .ras] L) :
    Stays L a (writeCfg s n1 n2) := by
  unfold writeCfg
  repeat' with_reducible first
    | assumption | (intro) | apply releaseHeldWrites_stays | apply sendPending_stays | apply modAer_stays | apply Stays.ite
    | dsimp only | split | exact hL.of rfl | refine Stays.record ?_ hL

theorem writeBar4_stays {L : List Field} {a s : State} {n1 n2 : _} (h : Stays L a s) (hL : Sub [.hst] L) :
    Stays L a (writeBar4 s n1 n2) := by
  unfold writeBar4
  repeat' with_reducible first
    | assumption | (intro) | apply sendPending_stays | apply Stays.ite | exact hL.of rfl | refine Stays.record ?_ hL

-- Dpa

theorem reportFail_stays {L : List Field} {a s : State} {n1 : _} (h : Stays L a s) (hL : Sub [.hostMem, .hst, .ras] L) :
    Stays L a (reportFail s n1) := by
  unfold reportFail
  repeat' with_reducible first | assumption | apply report_stays

theorem reportDesc_stays {L : List Field} {a s : State} {n1 n2 n3 : _} (h : Stays L a s) (hL : Sub [.hostMem, .hst, .ras] L) :
    Stays L a (reportDesc s n1 n2 n3) := by
  unfold reportDesc
  repeat' with_reducible first | assumption | (intro) | apply report_stays

theorem hearthWr_stays {L : List Field} {a s : State} {n1 n2 : _} (h : Stays L a s) (hL : Sub [.mem] L) :
    Stays L a (hearthWr s n1 n2) := by
  unfold hearthWr
  exact Stays.record h hL (wm := (Mem.wf_wrBytes _ _ _))

theorem readSram_stays {L : List Field} {a s : State} {n1 n2 n3 : _} (h : Stays L a s)
    (hL : Sub [.hostMem, .hst, .ras, .core] L) :
    PStays L a (readSram s n1 n2 n3) := by
  unfold readSram
  repeat' with_reducible first
    | assumption | (intro) | apply sramRead_stays | apply noteBank_stays | apply PStays.fst | dsimp only
    | refine PStays.get ‹_› ?_ | split | apply PStays.mk | exact hL.of rfl

theorem readDram_stays {L : List Field} {a s : State} {n1 n2 n3 : _} (h : Stays L a s)
    (hL : Sub [.hostMem, .hst, .ras, .memc, .region] L) :
    PStays L a (readDram s n1 n2 n3) := by
  unfold readDram
  repeat' with_reducible first
    | assumption | (intro) | apply dramRead_stays | apply PStays.ite | apply Stays.ite | apply PStays.fst | dsimp only
    | refine PStays.get ‹_› ?_ | split | apply PStays.mk

theorem readWindow_stays {L : List Field} {a s : State} {n1 n2 n3 : _} (h : Stays L a s) (hL : Sub [.free] L) :
    PStays L a (readWindow s n1 n2 n3) := by
  unfold readWindow
  repeat' with_reducible first | assumption | apply draw_stays | apply PStays.ite | apply PStays.mk

theorem readPiece_stays {L : List Field} {a s : State} {n1 n2 : _} (h : Stays L a s)
    (hL : Sub [.free, .hostMem, .hst, .ras, .memc, .core, .region] L) :
    PStays L a (readPiece s n1 n2) := by
  unfold readPiece
  repeat' with_reducible first
    | assumption | (intro) | apply readWindow_stays | apply readDram_stays | apply readSram_stays | apply PStays.fst
    | refine PStays.get ‹_› ?_ | split | apply PStays.mk | exact hL.of rfl

theorem readPieces_stays {L : List Field} {a s : State} {n1 : _} (h : Stays L a s)
    (hL : Sub [.free, .hostMem, .hst, .ras, .memc, .core, .region] L) :
    PStays L a (readPieces s n1) := by
  induction n1 generalizing s with
  | nil =>
    rw [readPieces]
    repeat' with_reducible first
        | assumption | (intro) | apply readPiece_stays | apply PStays.fst | dsimp only | refine PStays.get ‹_› ?_ | split
        | apply PStays.mk
  | cons x t ih =>
    obtain ⟨_, _⟩ := x; rw [readPieces]
    repeat' with_reducible first
        | assumption | apply ih | (intro) | apply readPiece_stays | apply PStays.fst | dsimp only | refine PStays.get ‹_› ?_
        | split | apply PStays.mk

theorem dpaRead_stays {L : List Field} {a s : State} {n1 n2 : _} (h : Stays L a s)
    (hL : Sub [.free, .hostMem, .hst, .ras, .memc, .core, .region] L) :
    PStays L a (dpaRead s n1 n2) := by
  unfold dpaRead
  repeat' with_reducible first | assumption | apply readPieces_stays

theorem writeDram_stays {L : List Field} {a s : State} {n1 n2 n3 : _} (h : Stays L a s)
    (hL : Sub [.mem, .hostMem, .err, .hst, .ras, .memc] L) :
    DStays L a (writeDram s n1 n2 n3) := by
  unfold writeDram
  repeat' with_reducible first
    | assumption | (intro) | apply dramWrite_stays | apply DStays.done | apply DStays.fail | apply DStays.full
    | apply PStays.fst | dsimp only | refine PStays.get ‹_› ?_ | split

theorem writeSram_stays {L : List Field} {a s : State} {n1 n2 n3 : _} (h : Stays L a s)
    (hL : Sub [.mem, .hostMem, .err, .hst, .ras, .core] L) :
    DStays L a (writeSram s n1 n2 n3) := by
  unfold writeSram
  repeat' with_reducible first
    | assumption | (intro) | apply sramWrite_stays | apply noteBank_stays | apply DStays.done | apply DStays.fail
    | apply DStays.full | apply PStays.fst | dsimp only | refine PStays.get ‹_› ?_ | split | apply PStays.mk
    | exact hL.of rfl

theorem writeWindow_stays {L : List Field} {a s : State} {n1 n2 n3 n4 : _} (h : Stays L a s) (hL : Sub [.region] L) :
    DStays L a (writeWindow s n1 n2 n3 n4) := by
  unfold writeWindow
  repeat' with_reducible first
    | assumption | apply DStays.done | apply windowWrite_stays | apply DStays.fail | apply DStays.full | apply DStays.ite
    | refine WStays.get_done ‹_› ?_ | split

theorem writePiece_stays {L : List Field} {a s : State} {n1 n2 n3 : _} (h : Stays L a s)
    (hL : Sub [.mem, .hostMem, .err, .hst, .ras, .memc, .core, .region] L) :
    DStays L a (writePiece s n1 n2 n3) := by
  unfold writePiece
  repeat' with_reducible first
    | assumption | (intro) | apply writeWindow_stays | apply writeDram_stays | apply writeSram_stays | apply DStays.done
    | apply DStays.fail | apply DStays.full | refine DStays.get_done ‹_› ?_ | refine DStays.get_fail ‹_› ?_ | split
    | exact hL.of rfl

theorem unwritten_stays {L : List Field} {a s s1 : State} (h : Stays L a s) (h1 : Stays L a s1) (hL : Sub [.ras, .memc] L) :
    Stays L a (unwritten s s1) := by
  unfold unwritten
  repeat' with_reducible first | assumption | exact hL.of rfl | refine Stays.record ?_ hL

theorem writePieces_stays {L : List Field} {a s s2 : State} {n1 n3 n4 : _} (h : Stays L a s) (h2 : Stays L a s2)
    (hL : Sub [.mem, .hostMem, .err, .hst, .ras, .memc, .core, .region] L) :
    DStays L a (writePieces s n1 s2 n3 n4) := by
  induction n3 generalizing s2 n4 with
  | nil =>
    rw [writePieces]
    repeat' with_reducible first
        | assumption | (intro) | apply unwritten_stays | apply writePiece_stays | apply DStays.done
  | cons x t ih =>
    obtain ⟨_, _⟩ := x; rw [writePieces]
    repeat' with_reducible first
        | assumption | apply ih | (intro) | apply unwritten_stays | apply writePiece_stays | apply DStays.done
        | apply DStays.fail | apply DStays.full | refine DStays.get_done ‹_› ?_ | refine DStays.get_fail ‹_› ?_ | split
        | exact hL.of rfl

theorem dpaWrite_stays {L : List Field} {a s : State} {n1 n2 : _} (h : Stays L a s)
    (hL : Sub [.mem, .hostMem, .err, .hst, .ras, .memc, .core, .region] L) :
    DStays L a (dpaWrite s n1 n2) := by
  unfold dpaWrite
  repeat' with_reducible first | assumption | apply writePieces_stays

theorem bar2Out_stays {L : List Field} {a s : State} {n1 n2 : _} (h : Stays L a s) (hL : Sub [.out] L) :
    Stays L a (bar2Out s n1 n2) := by
  unfold bar2Out
  repeat' with_reducible first | assumption | exact hL.of rfl | refine Stays.record ?_ hL

theorem bar2ReadNow_stays {L : List Field} {a s : State} {n1 n2 : _} (h : Stays L a s)
    (hL : Sub [.free, .hostMem, .hst, .ras, .memc, .core, .region, .out] L) :
    Stays L a (bar2ReadNow s n1 n2) := by
  unfold bar2ReadNow
  repeat' with_reducible first
    | assumption | (intro) | apply dpaRead_stays | apply bar2Out_stays | apply noteUnsupported_stays
    | apply reportFail_stays | apply PStays.fst | dsimp only | refine PStays.get ‹_› ?_ | split | apply PStays.mk
    | exact hL.of rfl

theorem waitWindow_stays {L : List Field} {a s : State} {n1 n2 n3 : _} (h : Stays L a s) (hL : Sub [.region] L) :
    Stays L a (waitWindow s n1 n2 n3) := by
  unfold waitWindow
  repeat' with_reducible first
    | assumption | (intro) | apply modNbu_stays

theorem bar2WriteNow_stays {L : List Field} {a s : State} {n1 n2 : _} (h : Stays L a s)
    (hL : Sub [.mem, .hostMem, .err, .hst, .ras, .memc, .core, .region, .out] L) :
    Stays L a (bar2WriteNow s n1 n2) := by
  unfold bar2WriteNow
  repeat' with_reducible first
    | assumption | (intro) | apply dpaWrite_stays | apply bar2Out_stays | apply reportFail_stays | apply waitWindow_stays
    | refine DStays.get_done ‹_› ?_ | refine DStays.get_fail ‹_› ?_ | split | exact hL.of rfl

theorem serviceFail_stays {L : List Field} {a s : State} {n1 n2 n3 : _} (h : Stays L a s)
    (hL : Sub [.hostMem, .hst, .ras] L) :
    Stays L a (serviceFail s n1 n2 n3) := by
  unfold serviceFail
  repeat' with_reducible first | assumption | apply report_stays

theorem windowNow_stays {L : List Field} {a s : State} {n1 n2 n3 n4 : _} (h : Stays L a s)
    (hL : Sub [.hostMem, .hst, .ras, .region] L) :
    Stays L a (windowNow s n1 n2 n3 n4) := by
  unfold windowNow
  repeat' with_reducible first
    | assumption | (intro) | apply windowWrite_stays | apply serviceFail_stays | apply waitWindow_stays
    | refine WStays.get_done ‹_› ?_ | split | exact hL.of rfl

theorem serveReq_stays {L : List Field} {a s : State} {n1 n2 : _} (h : Stays L a s)
    (hL : Sub [.free, .mem, .hostMem, .err, .hst, .ras, .memc, .core, .region, .out] L) :
    Stays L a (serveReq s n1 n2) := by
  cases n2 with
  | read a n => exact bar2ReadNow_stays h (hL.of rfl)
  | write a bs => exact bar2WriteNow_stays h (hL.of rfl)
  | window n line l => exact windowNow_stays h (hL.of rfl)

theorem drainPath_stays {L : List Field} {a s : State} {n0 n2 : _} (h : Stays L a s)
    (hL : Sub [.free, .mem, .hostMem, .err, .hst, .ras, .memc, .core, .region, .out] L) :
    Stays L a (drainPath n0 s n2) := by
  induction n0 generalizing s with
  | zero =>
    rw [drainPath]
    repeat' with_reducible first
        | assumption
  | succ n ih =>
    rw [drainPath]
    repeat' with_reducible first
        | assumption | apply ih | (intro) | apply modRegion_stays | apply serveReq_stays | apply Stays.ite | dsimp only
        | split | exact hL.of rfl

theorem settlePath_stays {L : List Field} {a s : State} {n1 : _} (h : Stays L a s)
    (hL : Sub [.free, .mem, .hostMem, .err, .hst, .ras, .memc, .core, .region, .out] L) :
    Stays L a (settlePath s n1) := by
  unfold settlePath
  repeat' with_reducible first | assumption | (intro) | apply drainPath_stays

theorem settlePaths_stays {L : List Field} {a s : State} (h : Stays L a s)
    (hL : Sub [.free, .mem, .hostMem, .err, .hst, .ras, .memc, .core, .region, .out] L) :
    Stays L a (settlePaths s) := by
  unfold settlePaths
  repeat' with_reducible first
    | assumption | (intro) | apply settlePath_stays | apply Stays.foldl

theorem acceptReq_stays {L : List Field} {a s : State} {n1 n2 : _} (h : Stays L a s)
    (hL : Sub [.free, .mem, .hostMem, .err, .hst, .ras, .memc, .core, .region, .out] L) :
    Stays L a (acceptReq s n1 n2) := by
  unfold acceptReq
  repeat' with_reducible first
    | assumption | (intro) | apply settlePath_stays | apply serveReq_stays | apply modRegion_stays | apply Stays.ite
    | dsimp only | exact hL.of rfl

-- NbuOps

theorem readEach_stays {L : List Field} {a s : State} {n1 n2 n3 : _} (h : Stays L a s)
    (hL : Sub [.hostMem, .hst, .ras, .memc, .region] L) :
    PStays L a (readEach s n1 n2 n3) := by
  induction n3 generalizing s with
  | nil =>
    rw [readEach]
    repeat' with_reducible first
        | assumption | (intro) | apply dramRead_stays | apply PStays.fst | dsimp only | refine PStays.get ‹_› ?_ | split
        | apply PStays.mk
  | cons x t ih =>
    rw [readEach]
    repeat' with_reducible first
        | assumption | apply ih | (intro) | apply dramRead_stays | apply PStays.fst | dsimp only | refine PStays.get ‹_› ?_
        | split | apply PStays.mk

theorem readAfter_stays {L : List Field} {a s : State} {n1 n2 n3 n4 : _} (h : Stays L a s)
    (hL : Sub [.hostMem, .err, .hst, .ras, .memc, .region] L) :
    PStays L a (readAfter s n1 n2 n3 n4) := by
  unfold readAfter
  repeat' with_reducible first
    | assumption | (intro) | apply readEach_stays | apply freshPages_stays | apply PStays.fst | dsimp only
    | refine PStays.get ‹_› ?_ | split | apply PStays.mk | exact hL.of rfl

theorem readWords_stays {L : List Field} {a s : State} {n1 n2 n3 : _} (h : Stays L a s)
    (hL : Sub [.hostMem, .err, .hst, .ras, .memc, .region] L) :
    PStays L a (readWords s n1 n2 n3) := by
  unfold readWords
  repeat' with_reducible first
    | assumption | (intro) | apply readAfter_stays

theorem afterReads_stays {L : List Field} {a s : State} {n1 n2 n3 f4 : _} (h : Stays L a s)
    (hL : Sub [.free, .hostMem, .err, .hst, .ras, .memc, .region] L) :
    PStays L a (afterReads s n1 n2 n3 f4) := by
  unfold afterReads
  repeat' with_reducible first
    | assumption | apply readWords_stays | apply draw_stays | apply PStays.fst | split | apply PStays.mk | exact hL.of rfl

theorem attpRun_stays {L : List Field} {a s : State} {n1 n2 n3 : _} (h : Stays L a s)
    (hL : Sub [.free, .hostMem, .err, .hst, .ras, .memc, .region] L) :
    PStays L a (attpRun s n1 n2 n3) := by
  unfold attpRun
  repeat' with_reducible first | assumption | apply afterReads_stays

theorem attqkRun_stays {L : List Field} {a s : State} {n1 n2 n3 : _} (h : Stays L a s)
    (hL : Sub [.free, .hostMem, .err, .hst, .ras, .memc, .region] L) :
    PStays L a (attqkRun s n1 n2 n3) := by
  unfold attqkRun
  repeat' with_reducible first | assumption | apply afterReads_stays

theorem attavRun_stays {L : List Field} {a s : State} {n1 n2 n3 : _} (h : Stays L a s)
    (hL : Sub [.free, .hostMem, .err, .hst, .ras, .memc, .region] L) :
    PStays L a (attavRun s n1 n2 n3) := by
  unfold attavRun
  repeat' with_reducible first | assumption | apply afterReads_stays

theorem kvappRun_stays {L : List Field} {a s : State} {n1 n2 n3 : _} (h : Stays L a s)
    (hL : Sub [.free, .hostMem, .err, .hst, .ras, .memc, .region] L) :
    PStays L a (kvappRun s n1 n2 n3) := by
  unfold kvappRun
  repeat' with_reducible first | assumption | apply afterReads_stays

theorem someWrites_stays {L : List Field} {a s : State} {n1 : _} (h : Stays L a s) (hL : Sub [.free] L) :
    PStays L a (someWrites s n1) := by
  induction n1 generalizing s with
  | nil =>
    rw [someWrites]
    repeat' with_reducible first
        | assumption | (intro) | apply drawBool_stays | apply PStays.ite | apply Stays.ite | apply QStays.snd
        | apply PStays.fst | dsimp only | refine QStays.get ‹_› ?_ | apply PStays.mk
  | cons x t ih =>
    rw [someWrites]
    repeat' with_reducible first
        | assumption | apply ih | (intro) | apply drawBool_stays | apply PStays.ite | apply Stays.ite | apply QStays.snd
        | apply PStays.fst | dsimp only | refine QStays.get ‹_› ?_ | apply PStays.mk

theorem moveWords_stays {L : List Field} {a s : State} {n1 n2 n3 n4 : _} (h : Stays L a s)
    (hL : Sub [.free, .hostMem, .err, .hst, .ras, .memc, .region] L) :
    PStays L a (moveWords s n1 n2 n3 n4) := by
  unfold moveWords
  repeat' with_reducible first
    | assumption | (intro) | apply readAfter_stays | apply someWrites_stays | apply PStays.fst | dsimp only
    | refine PStays.get ‹_› ?_ | split | apply PStays.mk | exact hL.of rfl

theorem kvdecayRun_stays {L : List Field} {a s : State} {n1 n2 n3 : _} (h : Stays L a s)
    (hL : Sub [.free, .hostMem, .err, .hst, .ras, .memc, .region] L) :
    PStays L a (kvdecayRun s n1 n2 n3) := by
  unfold kvdecayRun
  repeat' with_reducible first
    | assumption | (intro) | apply moveWords_stays | apply PStays.ite | apply Stays.ite | apply Stays.foldl
    | apply PStays.foldl | apply PStays.fst | dsimp only | refine PStays.get ‹_› ?_ | apply PStays.mk

theorem fillRun_stays {L : List Field} {a s : State} {n1 n2 n3 : _} (h : Stays L a s) :
    PStays L a (fillRun s n1 n2 n3) := by
  unfold fillRun
  repeat' with_reducible first | assumption | apply PStays.mk

theorem copyRun_stays {L : List Field} {a s : State} {n1 n2 n3 : _} (h : Stays L a s)
    (hL : Sub [.free, .hostMem, .err, .hst, .ras, .memc, .region] L) :
    PStays L a (copyRun s n1 n2 n3) := by
  unfold copyRun
  repeat' with_reducible first
    | assumption | (intro) | apply moveWords_stays

theorem indexRun_stays {L : List Field} {a s : State} {n1 n2 n3 n4 : _} (h : Stays L a s)
    (hL : Sub [.free, .hostMem, .err, .hst, .ras, .memc, .region] L) :
    PStays L a (indexRun s n1 n2 n3 n4) := by
  unfold indexRun
  repeat' with_reducible first
    | assumption | (intro) | apply readWords_stays | apply moveWords_stays | apply PStays.fst | dsimp only
    | refine PStays.get ‹_› ?_ | split | apply PStays.mk | exact hL.of rfl

theorem gatherRun_stays {L : List Field} {a s : State} {n1 n2 n3 : _} (h : Stays L a s)
    (hL : Sub [.free, .hostMem, .err, .hst, .ras, .memc, .region] L) :
    PStays L a (gatherRun s n1 n2 n3) := by
  unfold gatherRun
  repeat' with_reducible first | assumption | apply indexRun_stays

theorem scatterRun_stays {L : List Field} {a s : State} {n1 n2 n3 : _} (h : Stays L a s)
    (hL : Sub [.free, .hostMem, .err, .hst, .ras, .memc, .region] L) :
    PStays L a (scatterRun s n1 n2 n3) := by
  unfold scatterRun
  repeat' with_reducible first | assumption | apply indexRun_stays

theorem rsumRun_stays {L : List Field} {a s : State} {n1 n2 n3 : _} (h : Stays L a s)
    (hL : Sub [.free, .hostMem, .err, .hst, .ras, .memc, .region] L) :
    PStays L a (rsumRun s n1 n2 n3) := by
  unfold rsumRun
  repeat' with_reducible first | assumption | apply afterReads_stays

theorem bchkReads_stays {L : List Field} {a s : State} {n1 n2 : _} (h : Stays L a s)
    (hL : Sub [.hostMem, .err, .hst, .ras, .memc, .region] L) :
    PStays L a (bchkReads s n1 n2) := by
  unfold bchkReads
  repeat' with_reducible first
    | assumption | (intro) | apply dramReads_stays | apply freshPages_stays | apply PStays.fst | dsimp only
    | refine PStays.get ‹_› ?_ | apply PStays.mk | exact hL.of rfl

theorem bchkRun_stays {L : List Field} {a s : State} {n1 n2 n3 : _} (h : Stays L a s)
    (hL : Sub [.hostMem, .err, .hst, .ras, .memc, .region] L) :
    PStays L a (bchkRun s n1 n2 n3) := by
  unfold bchkRun
  repeat' with_reducible first
    | assumption | (intro) | apply bchkReads_stays | apply countUe_stays | apply PStays.ite | apply Stays.ite
    | apply PStays.fst | dsimp only | refine PStays.get ‹_› ?_ | split | apply PStays.mk | exact hL.of rfl

theorem recompBlock_stays {L : List Field} {a : State} {n0 n1 p2 n3 : _} (hp2 : PStays L a p2)
    (hL : Sub [.mem, .hostMem, .err, .hst, .ras, .memc, .region] L) :
    PStays L a (recompBlock n0 n1 p2 n3) := by
  unfold recompBlock
  repeat' with_reducible first
    | assumption | (intro) | apply dramRead_stays | apply freshPages_stays | apply dramWrite_stays | apply PStays.ite
    | apply Stays.ite | apply PStays.fst | dsimp only | refine PStays.get ‹_› ?_ | split | apply PStays.mk | exact hL.of rfl

theorem commitPage_stays {L : List Field} {a s : State} {n0 n1 n3 : _} (h : Stays L a s)
    (hL : Sub [.hostMem, .err, .hst, .ras] L) :
    Stays L a (commitPage n0 n1 s n3) := by
  unfold commitPage
  repeat' with_reducible first
    | assumption | (intro) | apply dramWritePage_stays | apply Stays.ite | apply Stays.foldl

theorem commitNbu_stays {L : List Field} {a s : State} {n1 n2 : _} (h : Stays L a s)
    (hL : Sub [.mem, .hostMem, .err, .hst, .ras] L) :
    Stays L a (commitNbu s n1 n2) := by
  unfold commitNbu
  exact Stays.record (Stays.foldl _ (fun x y k => commitPage_stays k (hL.of rfl)) h) hL (wm := (Mem.wf_foldl_wrBytes _ _ _ _))

theorem chimneyFail_stays {L : List Field} {a s : State} {n1 n2 n3 : _} (h : Stays L a s) (hL : Sub [.core] L) :
    Stays L a (chimneyFail s n1 n2 n3) := by
  unfold chimneyFail
  repeat' with_reducible first | assumption | apply updRun_stays | split

theorem windowRow_stays {L : List Field} {a s : State} {n1 n2 n3 n4 n5 : _} (h : Stays L a s)
    (hL : Sub [.free, .mem, .hostMem, .err, .hst, .ras, .memc, .core, .region, .out] L) :
    RStays L a (windowRow s n1 n2 n3 n4 n5) := by
  unfold windowRow
  repeat' with_reducible first
    | assumption | (intro) | apply acceptReq_stays | apply windowWrite_stays | apply chimneyFail_stays | apply RStays.next
    | apply RStays.fault | refine WStays.get_done ‹_› ?_ | split | exact hL.of rfl

theorem endWaitDesc_stays {L : List Field} {a s : State} {n1 n2 n3 : _} (h : Stays L a s)
    (hL : Sub [.hostMem, .hst, .ras] L) :
    Stays L a (endWaitDesc s n1 n2 n3) := by
  unfold endWaitDesc
  repeat' with_reducible first | assumption | apply report_stays | apply finishDesc_stays | exact hL.of rfl

theorem runNbu_stays {L : List Field} {a s : State} {n1 n2 n3 f4 : _} (h : Stays L a s) (hf4 : ∀ x0 x1 x2 x3, Stays L a x0 → PStays L a (f4 x0 x1 x2 x3))
    (hL : Sub [.region] L) :
    RStays L a (runNbu s n1 n2 n3 f4) := by
  unfold runNbu
  repeat' with_reducible first
    | assumption | apply modNbu_stays | apply hf4 | apply RStays.next | apply PStays.fst | split

theorem appendToken_stays {L : List Field} {a s : State} {n1 n2 n3 : _} (h : Stays L a s)
    (hL : Sub [.mem, .hostMem, .err, .hst, .ras, .region, .kv] L) :
    Stays L a (appendToken s n1 n2 n3) := by
  unfold appendToken
  repeat' with_reducible first
    | assumption | apply report_stays | apply editTable_stays | split | exact hL.of rfl | refine Stays.record ?_ hL

theorem countFailed_stays {L : List Field} {a s : State} {n1 n2 : _} (h : Stays L a s) (hL : Sub [.region] L) :
    Stays L a (countFailed s n1 n2) := by
  unfold countFailed
  repeat' with_reducible first | assumption | apply modRegion_stays

theorem standWrites_stays {L : List Field} {a s : State} {n1 n2 : _} (h : Stays L a s)
    (hL : Sub [.mem, .hostMem, .err, .hst, .ras] L) :
    PStays L a (standWrites s n1 n2) := by
  unfold standWrites
  repeat' with_reducible first
    | assumption | (intro) | apply commitNbu_stays | apply PStays.ite | apply Stays.ite | dsimp only | apply PStays.mk

theorem commitRun_stays {L : List Field} {a s : State} {n1 n2 : _} (h : Stays L a s)
    (hL : Sub [.mem, .hostMem, .err, .hst, .ras, .memc, .region] L) :
    PStays L a (commitRun s n1 n2) := by
  unfold commitRun
  repeat' with_reducible first
    | assumption | (intro) | apply recompBlock_stays | apply Stays.foldl | apply PStays.foldl | apply PStays.fst
    | dsimp only | refine PStays.get ‹_› ?_ | split | apply PStays.mk

theorem admitWaiting_stays {L : List Field} {a s : State} {n1 n2 : _} (h : Stays L a s) (hL : Sub [.region] L) :
    Stays L a (admitWaiting s n1 n2) := by
  unfold admitWaiting
  repeat' with_reducible first | assumption | apply setNbu_stays | dsimp only | split

theorem afterCommand_stays {L : List Field} {a s : State} {n1 n2 n3 : _} (h : Stays L a s)
    (hL : Sub [.mem, .hostMem, .err, .hst, .ras, .lnk, .core, .stream, .linkCorr, .routes, .region, .part, .bars, .snaps,
      .kv] L) :
    Stays L a (afterCommand s n1 n2 n3) := by
  unfold afterCommand
  repeat' with_reducible first
    | assumption | apply appendToken_stays | apply bumpCnt_stays | apply countFailed_stays | apply opFault_stays
    | apply report_stays | apply Stays.ite | split | exact hL.of rfl

theorem endCommand_stays {L : List Field} {a s : State} {n1 n2 n3 : _} (h : Stays L a s)
    (hL : Sub [.free, .mem, .hostMem, .err, .hst, .ras, .lnk, .memc, .core, .stream, .linkCorr, .routes, .region, .part,
      .bars, .snaps, .kv, .out] L) :
    Stays L a (endCommand s n1 n2 n3) := by
  unfold endCommand
  repeat' with_reducible first
    | assumption | (intro) | apply commitRun_stays | apply setNbu_stays | apply settlePath_stays | apply pumpChimney_stays
    | apply admitWaiting_stays | apply afterCommand_stays | apply PStays.ite | apply Stays.ite | apply PStays.fst
    | dsimp only | refine PStays.get ‹_› ?_ | apply PStays.mk | exact hL.of rfl

-- Cache

theorem fragmentScore_stays {L : List Field} {a : State} {p0 n1 n2 n3 n4 : _} (hp0 : PStays L a p0)
    (hL : Sub [.hostMem, .hst, .ras, .memc, .region] L) :
    PStays L a (fragmentScore p0 n1 n2 n3 n4) := by
  unfold fragmentScore
  repeat' with_reducible first
    | assumption | (intro) | apply dramRead_stays | apply report_stays | apply PStays.ite | apply Stays.ite
    | apply PStays.fst | dsimp only | refine PStays.get ‹_› ?_ | split | apply PStays.mk | exact hL.of rfl

theorem pageScore_stays {L : List Field} {a s : State} {n1 n2 : _} (h : Stays L a s)
    (hL : Sub [.hostMem, .hst, .ras, .memc, .region] L) :
    PStays L a (pageScore s n1 n2) := by
  unfold pageScore
  repeat' with_reducible first
    | assumption | (intro) | apply fragmentScore_stays | apply PStays.foldl | apply PStays.fst | apply PStays.mk

theorem pickVictim_stays {L : List Field} {a s : State} {n1 : _} (h : Stays L a s)
    (hL : Sub [.hostMem, .hst, .ras, .memc, .region] L) :
    PStays L a (pickVictim s n1) := by
  unfold pickVictim
  repeat' with_reducible first
    | assumption | (intro) | apply pageScore_stays | apply Stays.ite | apply PStays.foldl | apply PStays.fst | split
    | apply PStays.mk

theorem evictFrom_stays {L : List Field} {a s : State} {n1 n2 n3 n4 : _} (h : Stays L a s)
    (hL : Sub [.mem, .hostMem, .err, .hst, .ras, .memc, .region] L) :
    Stays L a (evictFrom s n1 n2 n3 n4) := by
  unfold evictFrom
  repeat' with_reducible first
    | assumption | (intro) | apply pickVictim_stays | apply editTable_stays | apply PStays.fst | dsimp only | split
    | exact hL.of rfl

theorem dropOverflow_stays {L : List Field} {a s : State} {n1 : _} (h : Stays L a s)
    (hL : Sub [.hostMem, .hst, .ras, .kv] L) :
    Stays L a (dropOverflow s n1) := by
  unfold dropOverflow
  repeat' with_reducible first
    | assumption | (intro) | apply report_stays | apply dropKvSeq_stays | apply Stays.foldl | exact hL.of rfl

theorem answerBatch_stays {L : List Field} {a s : State} {n1 n2 n3 : _} (h : Stays L a s)
    (hL : Sub [.mem, .hostMem, .err, .hst, .ras, .lnk, .core, .stream, .linkCorr, .routes, .part, .bars, .snaps] L) :
    Stays L a (answerBatch s n1 n2 n3) := by
  unfold answerBatch
  repeat' with_reducible first
    | assumption | (intro) | apply endSig_stays | apply sramWrite_stays | apply opFault_stays | apply noteBank_stays
    | apply bumpCnt_stays | apply PStays.fst | dsimp only | refine PStays.get ‹_› ?_ | split | apply PStays.mk
    | exact hL.of rfl

theorem holdFormed_stays {L : List Field} {a s : State} {n1 n2 n3 : _} (h : Stays L a s) (hL : Sub [.part, .kv] L) :
    PStays L a (holdFormed s n1 n2 n3) := by
  unfold holdFormed
  repeat' with_reducible first
    | assumption | (intro) | apply modKvSeq_stays | apply setPart_stays | apply Stays.foldl | split | apply PStays.mk
    | exact hL.of rfl

theorem formBatch_stays {L : List Field} {a s : State} {n1 n2 n3 n4 n5 n6 n7 : _} (h : Stays L a s)
    (hL : Sub [.mem, .hostMem, .err, .hst, .ras, .lnk, .core, .stream, .linkCorr, .routes, .part, .bars, .snaps, .kv] L) :
    Stays L a (formBatch s n1 n2 n3 n4 n5 n6 n7) := by
  unfold formBatch
  repeat' with_reducible first
    | assumption | apply answerBatch_stays | apply holdFormed_stays | apply PStays.fst | split | exact hL.of rfl

-- Channels

theorem openCh0_stays {L : List Field} {a s : State} (h : Stays L a s) (hL : Sub [.hst] L) : Stays L a (openCh0 s) := by
  unfold openCh0
  repeat' with_reducible first | assumption | apply setChan_stays | apply Stays.ite

theorem setScanEn_stays {L : List Field} {a s : State} {n1 : _} (h : Stays L a s) (hL : Sub [.hostMem, .hst, .ras] L) :
    Stays L a (setScanEn s n1) := by
  unfold setScanEn
  repeat' with_reducible first
    | assumption | (intro) | apply openCh0_stays | apply drainEvents_stays | apply Stays.ite | dsimp only | exact hL.of rfl
    | refine Stays.record ?_ hL

theorem clearScanEn_stays {L : List Field} {a s : State} (h : Stays L a s) (hL : Sub [.hst] L) :
    Stays L a (clearScanEn s) := by
  unfold clearScanEn
  repeat' with_reducible first | assumption | (intro) | apply Stays.ite | exact hL.of rfl | refine Stays.record ?_ hL

theorem takeWord_stays {L : List Field} {a : State} {n0 p1 n2 : _} (hp1 : PStays L a p1) (hL : Sub [.hostMem] L) :
    PStays L a (takeWord n0 p1 n2) := by
  unfold takeWord; dsimp only; split
  · exact hp1.fst
  · exact PStays.mk (Stays.record hp1.fst hL (wh := (Mem.wf_wrNat _ _ _ _)))

theorem fetchNew_stays {L : List Field} {a s : State} {n1 : _} (h : Stays L a s) (hL : Sub [.hst] L) :
    Stays L a (fetchNew s n1) := by
  unfold fetchNew
  repeat' with_reducible first
    | assumption | (intro) | apply setChan_stays

theorem serveBell_stays {L : List Field} {a s : State} {n1 : _} (h : Stays L a s)
    (hL : Sub [.hostMem, .hst, .ras, .lnk, .core, .stream, .linkCorr, .routes, .part, .bars, .snaps] L) :
    Stays L a (serveBell s n1) := by
  unfold serveBell
  repeat' with_reducible first
    | assumption | (intro) | apply setChan_stays | apply reportContained_stays | apply drainEvents_stays
    | apply deliverSigs_stays | apply fetchNew_stays | apply Stays.ite | dsimp only | split | exact hL.of rfl
    | refine Stays.record ?_ hL

theorem bellTurn_stays {L : List Field} {a : State} {p0 n1 : _} (hp0 : PStays L a p0)
    (hL : Sub [.hostMem, .hst, .ras, .lnk, .core, .stream, .linkCorr, .routes, .part, .bars, .snaps] L) :
    PStays L a (bellTurn p0 n1) := by
  unfold bellTurn
  repeat' with_reducible first
    | assumption | (intro) | apply serveBell_stays | apply PStays.ite | apply Stays.ite | apply PStays.fst
    | refine PStays.get ‹_› ?_ | split | apply PStays.mk

theorem scanWord2_stays {L : List Field} {a : State} {n0 p1 n2 : _} (hp1 : PStays L a p1)
    (hL : Sub [.hostMem, .hst, .ras, .lnk, .core, .stream, .linkCorr, .routes, .part, .bars, .snaps] L) :
    PStays L a (scanWord2 n0 p1 n2) := by
  unfold scanWord2
  repeat' with_reducible first
    | assumption | (intro) | apply takeWord_stays | apply bellTurn_stays | apply Stays.foldl | apply PStays.foldl
    | apply PStays.fst | dsimp only | refine PStays.get ‹_› ?_ | apply PStays.mk | exact hL.of rfl

theorem scanWord1_stays {L : List Field} {a : State} {n0 p1 n2 : _} (hp1 : PStays L a p1)
    (hL : Sub [.hostMem, .hst, .ras, .lnk, .core, .stream, .linkCorr, .routes, .part, .bars, .snaps] L) :
    PStays L a (scanWord1 n0 p1 n2) := by
  unfold scanWord1
  repeat' with_reducible first
    | assumption | (intro) | apply takeWord_stays | apply scanWord2_stays | apply Stays.foldl | apply PStays.foldl
    | apply PStays.fst | dsimp only | refine PStays.get ‹_› ?_ | apply PStays.mk | exact hL.of rfl

theorem scanSafe_stays {L : List Field} {a : State} {p0 : _} (hp0 : PStays L a p0)
    (hL : Sub [.hostMem, .hst, .ras, .lnk, .core, .stream, .linkCorr, .routes, .part, .bars, .snaps] L) :
    PStays L a (scanSafe p0) := by
  unfold scanSafe; dsimp only; split
  · exact bellTurn_stays (PStays.mk (Stays.record hp0.fst (T := [.hostMem]) (hL.of rfl) (wh := (Mem.wf_wrNat _ _ _ _)))) (hL.of rfl)
  · exact hp0

theorem fetchTurns_stays {L : List Field} {a s : State} (h : Stays L a s) (hL : Sub [.hst] L) :
    Stays L a (fetchTurns s) := by
  unfold fetchTurns
  repeat' with_reducible first
    | assumption | (intro) | apply fetchNew_stays | apply Stays.foldl

theorem scanBells_stays {L : List Field} {a s : State} {n0 : _} (h : Stays L a s)
    (hL : Sub [.hostMem, .hst, .ras, .lnk, .core, .stream, .linkCorr, .routes, .part, .bars, .snaps] L) :
    Stays L a (scanBells n0 s) := by
  unfold scanBells
  repeat' with_reducible first
    | assumption | (intro) | apply fetchTurns_stays | apply scanSafe_stays | apply takeWord_stays | apply scanWord1_stays
    | apply PStays.ite | apply Stays.ite | apply Stays.foldl | apply PStays.foldl | apply PStays.fst | dsimp only
    | refine PStays.get ‹_› ?_ | apply PStays.mk | exact hL.of rfl
    | refine Stays.record ?_ hL

theorem markGroup_stays {L : List Field} {a s : State} {n1 n2 : _} (h : Stays L a s) (hL : Sub [.hst] L) :
    Stays L a (markGroup s n1 n2) := by
  unfold markGroup
  repeat' with_reducible first | assumption | apply modChan_stays

theorem freeLoading_stays {L : List Field} {a s : State} {n1 : _} (h : Stays L a s) (hL : Sub [.part] L) :
    Stays L a (freeLoading s n1) := by
  unfold freeLoading
  repeat' with_reducible first
    | assumption | (intro) | apply modPart_stays | apply Stays.ite

theorem hostReadFails_stays {L : List Field} {a s : State} {n1 n2 : _} (h : Stays L a s)
    (hL : Sub [.hostMem, .hst, .ras, .lnk, .core, .stream, .linkCorr, .routes, .part, .bars, .snaps] L) :
    Stays L a (hostReadFails s n1 n2) := by
  unfold hostReadFails
  repeat' with_reducible first
    | assumption | (intro) | apply scanBells_stays | apply reportContained_stays | apply modChan_stays
    | apply markGroup_stays | apply freeLoading_stays | apply setChan_stays | dsimp only | split | exact hL.of rfl

theorem Eff.no_stays {L : List Field} {a s : State} {n1 : _} (h : Stays L a s) : EStays L a (Eff.no s n1) := by
  unfold Eff.no
  repeat' with_reducible first | assumption | apply EStays.fail

theorem Eff.done_stays {L : List Field} {a s : State} (h : Stays L a s) : EStays L a (Eff.done s) := by
  unfold Eff.done
  repeat' with_reducible first | assumption | apply EStays.ok

theorem runDesc_stays {L : List Field} {a s : State} {n1 n2 f3 : _} (h : Stays L a s) (hf3 : ∀ x0 x1 x2, Stays L a x0 → EStays L a (f3 x0 x1 x2))
    (hL : Sub [.hst] L) :
    Stays L a (runDesc s n1 n2 f3) := by
  unfold runDesc; dsimp only; split
  · exact h
  split
  · exact h
  split
  · exact modChan_stays (EStays.get_ok ‹_› (hf3 _ _ _ h)) (hL.of rfl)
  · exact modChan_stays (EStays.get_fail ‹_› (hf3 _ _ _ h)) (hL.of rfl)
  · exact modChan_stays (EStays.get_run ‹_› (hf3 _ _ _ h)) (hL.of rfl)
  · exact h

theorem writeDone_stays {L : List Field} {a s : State} {n0 n2 : _} (h : Stays L a s) (hL : Sub [.hostMem, .hst] L) :
    Stays L a (writeDone n0 s n2) := by
  induction n0 generalizing s with
  | zero =>
    rw [writeDone]
    repeat' with_reducible first
        | assumption
  | succ n ih =>
    rw [writeDone]
    repeat' with_reducible first
        | assumption | apply ih | (intro) | apply setChan_stays | apply putRecord_stays | apply raiseChannel_stays
        | apply Stays.ite | dsimp only | split | exact hL.of rfl

-- Power

theorem powerFailPart_stays {L : List Field} {a s : State} {n1 n2 n3 : _} (h : Stays L a s)
    (hL : Sub [.hostMem, .hst, .ras, .lnk, .core, .stream, .linkCorr, .routes, .part, .bars, .snaps] L) :
    Stays L a (powerFailPart s n1 n2 n3) := by
  unfold powerFailPart
  repeat' with_reducible first
    | assumption | apply report_stays | apply modPart_stays | apply failPartition_stays | split | exact hL.of rfl

theorem stopLayer_stays {L : List Field} {a s : State} {n1 n2 : _} (h : Stays L a s)
    (hL : Sub [.hostMem, .hst, .clk, .pwr, .ras, .lnk, .core, .stream, .linkCorr, .routes, .part, .bars, .snaps] L) :
    Stays L a (stopLayer s n1 n2) := by
  unfold stopLayer
  repeat' with_reducible first
    | assumption | (intro) | apply modClk_stays | apply stopClock_stays | apply modPwr_stays | apply powerFailPart_stays
    | apply Stays.foldl | exact hL.of rfl

theorem failGroup_stays {L : List Field} {a s : State} {n1 : _} (h : Stays L a s)
    (hL : Sub [.hostMem, .dev, .hst, .clk, .pwr, .ras, .lnk, .core, .stream, .linkCorr, .routes, .part, .bars, .snaps] L) :
    Stays L a (failGroup s n1) := by
  unfold failGroup
  repeat' with_reducible first
    | assumption | apply checkDegraded_stays | apply stopLayer_stays | apply modPwr_stays | exact hL.of rfl

theorem moveToBypass_stays {L : List Field} {a s : State} {n1 : _} (h : Stays L a s)
    (hL : Sub [.hostMem, .dev, .hst, .clk, .ras] L) :
    Stays L a (moveToBypass s n1) := by
  unfold moveToBypass
  repeat' with_reducible first
    | assumption | apply modClk_stays | apply checkDegraded_stays | apply report_stays | exact hL.of rfl

theorem phaseRecord_stays {L : List Field} {a s : State} {n1 n2 : _} (h : Stays L a s) (hL : Sub [.hostMem, .hst, .ras] L) :
    Stays L a (phaseRecord s n1 n2) := by
  unfold phaseRecord
  repeat' with_reducible first | assumption | apply report_stays

theorem vctPhaseFails_stays {L : List Field} {a s : State} {n1 n2 : _} (h : Stays L a s)
    (hL : Sub [.hostMem, .dev, .hst, .clk, .pwr, .ras, .lnk, .core, .stream, .linkCorr, .routes, .part, .bars, .snaps] L) :
    Stays L a (vctPhaseFails s n1 n2) := by
  unfold vctPhaseFails
  repeat' with_reducible first
    | assumption | apply phaseRecord_stays | apply modPwr_stays | apply moveToBypass_stays | apply failGroup_stays
    | apply Stays.ite | exact hL.of rfl

theorem dramRailFails_stays {L : List Field} {a s : State} {n1 : _} (h : Stays L a s)
    (hL : Sub [.free, .mem, .hostMem, .err, .pins, .dev, .hst, .clk, .time, .pwr, .ras, .lnk, .memc, .weevil, .core,
      .stream, .linkCorr, .routes, .region, .part, .bars, .snaps] L) :
    Stays L a (dramRailFails s n1) := by
  unfold dramRailFails
  repeat' with_reducible first | assumption | apply enterSafe_stays | exact hL.of rfl | refine Stays.record ?_ hL

theorem regionOffOut_stays {L : List Field} {a s : State} {n1 : _} (h : Stays L a s) (hL : Sub [.out] L) :
    Stays L a (regionOffOut s n1) := by
  unfold regionOffOut
  repeat' with_reducible first | assumption | (intro) | exact hL.of rfl | refine Stays.record ?_ hL

theorem sumBubbles_stays {L : List Field} {a s : State} (h : Stays L a s) (hL : Sub [.pwr] L) :
    Stays L a (sumBubbles s) := by
  unfold sumBubbles
  repeat' with_reducible first | assumption | exact hL.of rfl | refine Stays.record ?_ hL

theorem takeEstimates_stays {L : List Field} {a s : State} {n1 : _} (h : Stays L a s) (hL : Sub [.pwr] L) :
    Stays L a (takeEstimates s n1) := by
  unfold takeEstimates
  repeat' with_reducible first
    | assumption | (intro) | apply Stays.foldl | apply PStays.foldl | apply PStays.fst | dsimp only | exact hL.of rfl
    | refine Stays.record ?_ hL

theorem setBubbles_stays {L : List Field} {a s : State} (h : Stays L a s) (hL : Sub [.pwr] L) :
    Stays L a (setBubbles s) := by
  unfold setBubbles
  repeat' with_reducible first
    | assumption | (intro) | apply Stays.ite | apply PStays.fst | dsimp only | exact hL.of rfl | refine Stays.record ?_ hL

theorem stepByBubbles_stays {L : List Field} {a s : State} {n1 : _} (h : Stays L a s) (hL : Sub [.clk] L) :
    Stays L a (stepByBubbles s n1) := by
  unfold stepByBubbles
  repeat' with_reducible first | assumption | apply requestStep_stays | apply Stays.ite

theorem rescale_stays {L : List Field} {a s : State} {n1 n2 : _} (h : Stays L a s) (hL : Sub [.pwr] L) :
    Stays L a (rescale s n1 n2) := by
  unfold rescale
  repeat' with_reducible first
    | assumption | (intro) | apply Stays.ite | apply Stays.foldl | apply PStays.foldl | apply PStays.fst | dsimp only
    | exact hL.of rfl | refine Stays.record ?_ hL

theorem integrateCaps_stays {L : List Field} {a s : State} (h : Stays L a s) (hL : Sub [.pwr] L) :
    Stays L a (integrateCaps s) := by
  unfold integrateCaps
  repeat' with_reducible first
    | assumption | (intro) | apply Stays.ite | apply Stays.foldl | apply PStays.foldl | apply PStays.fst | dsimp only
    | exact hL.of rfl | refine Stays.record ?_ hL

theorem closeMs_stays {L : List Field} {a s : State} (h : Stays L a s) (hL : Sub [.pwr] L) : Stays L a (closeMs s) := by
  unfold closeMs
  repeat' with_reducible first
    | assumption | (intro) | apply Stays.foldl | apply PStays.foldl | dsimp only | exact hL.of rfl
    | refine Stays.record ?_ hL

theorem powerOff_stays {L : List Field} {a s : State} (h : Stays L a s)
    (hL : Sub [.mem, .err, .repair, .strap, .pins, .dev, .boot, .hst, .clk, .time, .pwr, .thm, .ras, .sec, .lnk, .memc,
      .weevil, .tap, .core, .stream, .linkCorr, .turn, .routes, .region, .chim, .part, .bars, .snaps, .kv] L) :
    Stays L a (powerOff s) := by
  unfold powerOff; exact Stays.record h hL (wm := fun _ => rfl)

-- DescOps

theorem descRow_stays {L : List Field} {a s : State} {n1 n2 n3 f4 : _} (h : Stays L a s) (hf4 : ∀ x0 x1 x2, Stays L a x0 → EStays L a (f4 x0 x1 x2))
    (hL : Sub [.hst] L) :
    Stays L a (descRow s n1 n2 n3 f4) := by
  refine runDesc_stays h (fun x0 x1 x2 hx => ?_) hL
  split
  · exact Eff.no_stays hx
  split
  · exact EStays.hold
  · exact hf4 _ _ _ hx

theorem nopEff_stays {L : List Field} {a s : State} {n1 n2 : _} (h : Stays L a s) : EStays L a (nopEff s n1 n2) := by
  unfold nopEff
  repeat' with_reducible first | assumption | apply Eff.done_stays

theorem chCreateEff_stays {L : List Field} {a s : State} {n1 n2 : _} (h : Stays L a s) (hL : Sub [.hst] L) :
    EStays L a (chCreateEff s n1 n2) := by
  unfold chCreateEff
  repeat' with_reducible first
    | assumption | apply Eff.no_stays | apply setChan_stays | apply EStays.ok | apply EStays.ite | split

theorem dropWaits_stays {L : List Field} {a s : State} {n1 : _} (h : Stays L a s) (hL : Sub [.region] L) :
    Stays L a (dropWaits s n1) := by
  unfold dropWaits
  repeat' with_reducible first | assumption | exact hL.of rfl | refine Stays.record ?_ hL

theorem closeChannel_stays {L : List Field} {a s : State} {n1 n2 : _} (h : Stays L a s)
    (hL : Sub [.free, .mem, .hostMem, .err, .hst, .ras, .lnk, .memc, .core, .stream, .linkCorr, .routes, .region, .part,
      .bars, .snaps, .out] L) :
    Stays L a (closeChannel s n1 n2) := by
  unfold closeChannel
  repeat' with_reducible first
    | assumption | (intro) | apply joinFetched_stays | apply abortGroup_stays | apply modChan_stays
    | apply deliverSigs_stays | apply settlePaths_stays | apply dropWaits_stays | dsimp only | exact hL.of rfl

theorem chDestroyEff_stays {L : List Field} {a s : State} {n1 n2 : _} (h : Stays L a s)
    (hL : Sub [.free, .mem, .hostMem, .err, .hst, .ras, .lnk, .memc, .core, .stream, .linkCorr, .routes, .region, .part,
      .bars, .snaps, .out] L) :
    EStays L a (chDestroyEff s n1 n2) := by
  unfold chDestroyEff
  repeat' with_reducible first
    | assumption | (intro) | apply Eff.no_stays | apply closeChannel_stays | apply EStays.ok | apply EStays.fail
    | apply EStays.run | apply EStays.hold | apply EStays.ite | apply Stays.ite | refine EStays.get_ok ‹_› ?_
    | refine EStays.get_fail ‹_› ?_ | refine EStays.get_run ‹_› ?_ | split

theorem chResumeEff_stays {L : List Field} {a s : State} {n1 n2 : _} (h : Stays L a s)
    (hL : Sub [.hostMem, .hst, .ras, .lnk, .core, .stream, .linkCorr, .routes, .part, .bars, .snaps] L) :
    EStays L a (chResumeEff s n1 n2) := by
  unfold chResumeEff
  repeat' with_reducible first
    | assumption | (intro) | apply Eff.no_stays | apply deliverSigs_stays | apply setChan_stays | apply Eff.done_stays
    | apply drainEvents_stays | apply EStays.ok | apply EStays.fail | apply EStays.run | apply EStays.hold
    | apply EStays.ite | apply Stays.ite | dsimp only | refine EStays.get_ok ‹_› ?_ | refine EStays.get_fail ‹_› ?_
    | refine EStays.get_run ‹_› ?_ | split | exact hL.of rfl

theorem chQueryEff_stays {L : List Field} {a s : State} {n1 n2 : _} (h : Stays L a s) :
    EStays L a (chQueryEff s n1 n2) := by
  unfold chQueryEff
  repeat' with_reducible first | assumption | apply Eff.no_stays | apply EStays.ok | split

theorem chimneyQueryEff_stays {L : List Field} {a s : State} {n1 n2 : _} (h : Stays L a s) (hL : Sub [.hostMem, .hst] L) :
    EStays L a (chimneyQueryEff s n1 n2) := by
  unfold chimneyQueryEff
  repeat' with_reducible first
    | assumption | (intro) | apply Eff.done_stays | apply hostWrite_stays | apply EStays.ok | apply EStays.fail
    | apply EStays.run | apply EStays.hold | apply EStays.ite

theorem shiftTray_stays {L : List Field} {a s : State} {n1 n2 : _} (h : Stays L a s) (hL : Sub [.pwr] L) :
    Stays L a (shiftTray s n1 n2) := by
  unfold shiftTray
  repeat' with_reducible first | assumption | exact hL.of rfl | refine Stays.record ?_ hL

theorem setDevCap_stays {L : List Field} {a s : State} {n1 : _} (h : Stays L a s) (hL : Sub [.pwr] L) :
    Stays L a (setDevCap s n1) := by
  unfold setDevCap
  repeat' with_reducible first
    | assumption | (intro) | apply shiftTray_stays | apply Stays.ite | dsimp only | exact hL.of rfl
    | refine Stays.record ?_ hL

theorem pwrCapEff_stays {L : List Field} {a s : State} {n1 n2 : _} (h : Stays L a s) (hL : Sub [.pwr, .part] L) :
    EStays L a (pwrCapEff s n1 n2) := by
  unfold pwrCapEff
  repeat' with_reducible first
    | assumption | apply Eff.no_stays | apply setDevCap_stays | apply Eff.done_stays | apply setPart_stays
    | apply EStays.ite | split | exact hL.of rfl

theorem telemetryEff_stays {L : List Field} {a s : State} {n1 n2 : _} (h : Stays L a s) (hL : Sub [.hostMem, .hst] L) :
    EStays L a (telemetryEff s n1 n2) := by
  unfold telemetryEff
  repeat' with_reducible first
    | assumption | apply Eff.no_stays | apply hostWrite_stays | apply EStays.ok | apply EStays.ite

theorem devResetEff_stays {L : List Field} {a s : State} {n1 n2 : _} (h : Stays L a s) (hL : Sub [.dev] L) :
    EStays L a (devResetEff s n1 n2) := by
  unfold devResetEff
  repeat' with_reducible first
    | assumption | apply Eff.no_stays | apply Eff.done_stays | apply EStays.ite | exact hL.of rfl
    | refine Stays.record ?_ hL

-- CopyOps

theorem Eff.bad_stays {L : List Field} {a s : State} {n1 n2 n3 n4 : _} (h : Stays L a s) (hL : Sub [.hostMem, .hst, .ras] L) :
    EStays L a (Eff.bad s n1 n2 n3 n4) := by
  unfold Eff.bad
  repeat' with_reducible first
    | assumption | (intro) | apply reportDesc_stays | apply EStays.ok | apply EStays.fail

theorem waitAt_stays {L : List Field} {a s : State} {n1 n2 n3 : _} (h : Stays L a s) (hL : Sub [.region] L) :
    Stays L a (waitAt s n1 n2 n3) := by
  unfold waitAt
  repeat' with_reducible first | assumption | apply modNbu_stays | apply Stays.ite

theorem leaveWait_stays {L : List Field} {a s : State} {n1 n2 : _} (h : Stays L a s)
    (hL : Sub [.free, .mem, .hostMem, .err, .hst, .ras, .memc, .core, .region, .out] L) :
    Stays L a (leaveWait s n1 n2) := by
  unfold leaveWait
  repeat' with_reducible first
    | assumption | (intro) | apply settlePath_stays | apply dropWaits_stays | apply Stays.ite | split | exact hL.of rfl

theorem putUnit_stays {L : List Field} {a s : State} {n1 n2 n3 : _} (h : Stays L a s)
    (hL : Sub [.free, .mem, .hostMem, .err, .hst, .ras, .memc, .core, .region, .out] L) :
    UStays L a (putUnit s n1 n2 n3) := by
  unfold putUnit
  repeat' with_reducible first
    | assumption | (intro) | apply dpaWrite_stays | apply leaveWait_stays | apply waitAt_stays | apply UStays.moved
    | apply UStays.failed | apply UStays.waits | apply Stays.ite | apply UStays.ite | refine DStays.get_done ‹_› ?_
    | refine DStays.get_fail ‹_› ?_ | split | exact hL.of rfl

theorem moveUnits_stays {L : List Field} {a s : State} {n0 n1 f2 n3 n5 : _} (hf2 : ∀ x0 x1 x2, Stays L a x0 → UStays L a (f2 x0 x1 x2)) (h : Stays L a s)
    (hL : Sub [.hostMem, .hst, .ras] L) :
    EStays L a (moveUnits n0 n1 f2 n3 s n5) := by
  induction n3 generalizing s n5 with
  | zero => exact h
  | succ n ih =>
    rw [moveUnits]; split
    · exact Eff.done_stays h
    dsimp only; split
    · exact ih (UStays.get_moved ‹_› (hf2 _ _ _ h))
    · exact Eff.bad_stays (UStays.get_failed ‹_› (hf2 _ _ _ h)) (hL.of rfl)
    · exact UStays.get_waits ‹_› (hf2 _ _ _ h)

theorem copyOne_stays {L : List Field} {a s : State} {n0 n1 n3 n4 : _} (h : Stays L a s)
    (hL : Sub [.free, .mem, .hostMem, .err, .hst, .ras, .memc, .core, .region, .out] L) :
    UStays L a (copyOne n0 n1 s n3 n4) := by
  unfold copyOne
  repeat' with_reducible first
    | assumption | (intro) | apply dpaRead_stays | apply putUnit_stays | apply hostWrite_stays | apply UStays.moved
    | apply UStays.failed | apply UStays.waits | apply PStays.ite | apply Stays.ite | apply UStays.ite | apply PStays.fst
    | dsimp only | refine PStays.get ‹_› ?_ | refine UStays.get_moved ‹_› ?_ | refine UStays.get_failed ‹_› ?_
    | refine UStays.get_waits ‹_› ?_ | split | apply PStays.mk | exact hL.of rfl

theorem copyFrom_stays {L : List Field} {a s : State} {n1 n2 n3 : _} (h : Stays L a s)
    (hL : Sub [.free, .mem, .hostMem, .err, .hst, .ras, .memc, .core, .region, .out] L) :
    EStays L a (copyFrom s n1 n2 n3) := by
  unfold copyFrom
  repeat' with_reducible first
    | assumption | (intro) | apply moveUnits_stays | apply copyOne_stays | apply EStays.ok | apply EStays.fail
    | apply EStays.run | apply EStays.hold | refine EStays.get_ok ‹_› ?_ | refine EStays.get_fail ‹_› ?_
    | refine EStays.get_run ‹_› ?_ | refine UStays.get_moved ‹_› ?_ | refine UStays.get_failed ‹_› ?_
    | refine UStays.get_waits ‹_› ?_ | exact hL.of rfl

theorem cpCopyEff_stays {L : List Field} {a s : State} {n1 n2 : _} (h : Stays L a s)
    (hL : Sub [.free, .mem, .hostMem, .err, .hst, .ras, .memc, .core, .region, .out] L) :
    EStays L a (cpCopyEff s n1 n2) := by
  unfold cpCopyEff
  repeat' with_reducible first | assumption | apply Eff.no_stays | apply copyFrom_stays | apply EStays.ite

theorem fillOne_stays {L : List Field} {a s : State} {n0 n1 n3 n4 : _} (h : Stays L a s)
    (hL : Sub [.free, .mem, .hostMem, .err, .hst, .ras, .memc, .core, .region, .out] L) :
    UStays L a (fillOne n0 n1 s n3 n4) := by
  unfold fillOne
  repeat' with_reducible first | assumption | apply putUnit_stays

theorem fillFromPos_stays {L : List Field} {a s : State} {n1 n2 n3 : _} (h : Stays L a s)
    (hL : Sub [.free, .mem, .hostMem, .err, .hst, .ras, .memc, .core, .region, .out] L) :
    EStays L a (fillFromPos s n1 n2 n3) := by
  unfold fillFromPos
  repeat' with_reducible first
    | assumption | (intro) | apply moveUnits_stays | apply fillOne_stays | apply EStays.ok | apply EStays.fail
    | apply EStays.run | apply EStays.hold | refine EStays.get_ok ‹_› ?_ | refine EStays.get_fail ‹_› ?_
    | refine EStays.get_run ‹_› ?_ | refine UStays.get_moved ‹_› ?_ | refine UStays.get_failed ‹_› ?_
    | refine UStays.get_waits ‹_› ?_ | exact hL.of rfl

theorem cpFillEff_stays {L : List Field} {a s : State} {n1 n2 : _} (h : Stays L a s)
    (hL : Sub [.free, .mem, .hostMem, .err, .hst, .ras, .memc, .core, .region, .out] L) :
    EStays L a (cpFillEff s n1 n2) := by
  unfold cpFillEff
  repeat' with_reducible first
    | assumption | apply Eff.no_stays | apply fillFromPos_stays | apply EStays.ite

theorem cpPutEff_stays {L : List Field} {a s : State} {n1 n2 : _} (h : Stays L a s)
    (hL : Sub [.mem, .hostMem, .err, .hst, .ras, .core] L) :
    EStays L a (cpPutEff s n1 n2) := by
  unfold cpPutEff
  repeat' with_reducible first
    | assumption | (intro) | apply Eff.no_stays | apply writeSram_stays | apply Eff.bad_stays | apply EStays.ok
    | apply EStays.fail | apply EStays.run | apply EStays.hold | refine DStays.get_done ‹_› ?_
    | refine DStays.get_fail ‹_› ?_ | refine EStays.get_ok ‹_› ?_ | refine EStays.get_fail ‹_› ?_
    | refine EStays.get_run ‹_› ?_ | split | exact hL.of rfl

theorem putCount_stays {L : List Field} {a s : State} {n1 n2 : _} (h : Stays L a s)
    (hL : Sub [.hostMem, .hst, .ras, .lnk, .core, .stream, .linkCorr, .routes, .part, .bars, .snaps] L) :
    EStays L a (putCount s n1 n2) := by
  unfold putCount
  repeat' with_reducible first
    | assumption | (intro) | apply Eff.no_stays | apply Eff.done_stays | apply bumpCnt_stays | apply EStays.ok
    | apply EStays.fail | apply EStays.run | apply EStays.hold | refine EStays.get_ok ‹_› ?_ | refine EStays.get_fail ‹_› ?_
    | refine EStays.get_run ‹_› ?_ | split

theorem cpGetEff_stays {L : List Field} {a s : State} {n1 n2 : _} (h : Stays L a s)
    (hL : Sub [.hostMem, .hst, .ras, .core] L) :
    EStays L a (cpGetEff s n1 n2) := by
  unfold cpGetEff
  repeat' with_reducible first
    | assumption | (intro) | apply Eff.no_stays | apply readSram_stays | apply Eff.bad_stays | apply hostWrite_stays
    | apply EStays.ok | apply EStays.fail | apply EStays.run | apply EStays.hold | apply PStays.fst | dsimp only
    | refine EStays.get_ok ‹_› ?_ | refine EStays.get_fail ‹_› ?_ | refine EStays.get_run ‹_› ?_ | refine PStays.get ‹_› ?_
    | split | apply PStays.mk | exact hL.of rfl

theorem putResult_stays {L : List Field} {a s : State} {n1 n2 n3 : _} (h : Stays L a s) (hL : Sub [.hostMem, .hst] L) :
    Stays L a (putResult s n1 n2 n3) := by
  unfold putResult
  repeat' with_reducible first | assumption | apply hostWrite_stays

theorem resultFrom_stays {L : List Field} {a s : State} {n0 n1 n3 : _} (h : Stays L a s)
    (hL : Sub [.free, .hostMem, .hst, .region] L) :
    EStays L a (resultFrom n0 n1 s n3) := by
  induction n1 generalizing s n3 with
  | zero => exact h
  | succ n ih =>
    rw [resultFrom]; dsimp only; split
    · exact h
    split
    · exact h
    split
    · exact startRound_stays h (hL.of rfl)
    · exact ih (putResult_stays (draw_stays (consumeLine_stays h (hL.of rfl)).snd (hL.of rfl)) (hL.of rfl))

theorem kvResultEff_stays {L : List Field} {a s : State} {n1 n2 : _} (h : Stays L a s)
    (hL : Sub [.free, .hostMem, .hst, .ras, .region] L) :
    EStays L a (kvResultEff s n1 n2) := by
  unfold kvResultEff
  repeat' with_reducible first
    | assumption | (intro) | apply Eff.no_stays | apply resultFrom_stays | apply reportDesc_stays | apply EStays.ok
    | apply EStays.fail | apply EStays.run | apply EStays.hold | apply EStays.ite | apply Stays.ite
    | refine EStays.get_ok ‹_› ?_ | refine EStays.get_fail ‹_› ?_ | refine EStays.get_run ‹_› ?_ | split | exact hL.of rfl

theorem putEff_stays {L : List Field} {a s : State} {n0 n1 p2 : _} (hp2 : EStays L a p2) (h : Stays L a s)
    (hL : Sub [.hst] L) :
    Stays L a (putEff n0 n1 p2 s) := by
  unfold putEff; cases p2 <;> first | exact h | exact modChan_stays hp2 (hL.of rfl)

theorem resultStop_stays {L : List Field} {a s : State} {n1 : _} (h : Stays L a s) : EStays L a (resultStop s n1) := by
  unfold resultStop
  repeat' with_reducible first
    | assumption | (intro) | apply EStays.ok | apply EStays.fail

theorem continueDesc_stays {L : List Field} {a s : State} {n0 n2 : _} (h : Stays L a s)
    (hL : Sub [.free, .mem, .hostMem, .err, .hst, .ras, .lnk, .memc, .core, .stream, .linkCorr, .routes, .region, .part,
      .bars, .snaps, .out] L) :
    Stays L a (continueDesc n0 s n2) := by
  unfold continueDesc
  repeat' with_reducible first
    | assumption | (intro) | apply putEff_stays | apply copyFrom_stays | apply fillFromPos_stays | apply settlePath_stays
    | apply resultStop_stays | apply putCount_stays | apply Stays.ite | refine EStays.get_ok ‹_› ?_
    | refine EStays.get_fail ‹_› ?_ | refine EStays.get_run ‹_› ?_ | split | exact hL.of rfl

theorem continueAll_stays {L : List Field} {a s : State} {n1 : _} (h : Stays L a s)
    (hL : Sub [.free, .mem, .hostMem, .err, .hst, .ras, .lnk, .memc, .core, .stream, .linkCorr, .routes, .region, .part,
      .bars, .snaps, .out] L) :
    Stays L a (continueAll s n1) := by
  unfold continueAll
  repeat' with_reducible first | assumption | (intro) | apply continueDesc_stays | apply Stays.foldl

theorem takeFold_stays {L : List Field} {a s : State} {n0 n1 n2 n4 : _} (h : Stays L a s)
    (hL : Sub [.free, .hostMem, .hst, .region] L) :
    Stays L a (takeFold n0 n1 n2 s n4) := by
  unfold takeFold
  repeat' with_reducible first
    | assumption | apply putEff_stays | apply resultFrom_stays | apply putResult_stays | apply Stays.ite | exact hL.of rfl

theorem takeFolds_stays {L : List Field} {a s : State} {n1 n2 : _} (h : Stays L a s)
    (hL : Sub [.free, .mem, .hostMem, .err, .hst, .ras, .memc, .core, .region, .out] L) :
    Stays L a (takeFolds s n1 n2) := by
  unfold takeFolds
  repeat' with_reducible first
    | assumption | (intro) | apply settlePath_stays | apply takeFold_stays | apply Stays.foldl | apply PStays.foldl
    | apply PStays.fst | dsimp only | exact hL.of rfl

-- PartOps

theorem Eff.conflict_stays {L : List Field} {a s : State} (h : Stays L a s) : EStays L a (Eff.conflict s) := by
  unfold Eff.conflict
  repeat' with_reducible first | assumption | apply Eff.no_stays

theorem partCreateEff_stays {L : List Field} {a s : State} {n1 n2 : _} (h : Stays L a s) (hL : Sub [.part] L) :
    EStays L a (partCreateEff s n1 n2) := by
  unfold partCreateEff
  repeat' with_reducible first
    | assumption | apply Eff.no_stays | apply Eff.conflict_stays | apply Eff.done_stays | apply setPart_stays
    | apply EStays.fail | apply EStays.ite | split

theorem releaseSeqs_stays {L : List Field} {a s : State} {n1 : _} (h : Stays L a s) (hL : Sub [.core] L) :
    Stays L a (releaseSeqs s n1) := by
  unfold releaseSeqs
  repeat' with_reducible first | assumption | (intro) | apply modCore_stays | apply Stays.foldl

theorem runPart_stays {L : List Field} {a s : State} {n1 n2 : _} (h : Stays L a s) (hL : Sub [.core, .part] L) :
    EStays L a (runPart s n1 n2) := by
  unfold runPart
  repeat' with_reducible first
    | assumption | (intro) | apply Eff.done_stays | apply modPart_stays | apply releaseSeqs_stays | apply EStays.ok
    | apply EStays.fail | apply EStays.run | apply EStays.hold | dsimp only | refine EStays.get_ok ‹_› ?_
    | refine EStays.get_fail ‹_› ?_ | refine EStays.get_run ‹_› ?_ | split | exact hL.of rfl

theorem startEff_stays {L : List Field} {a s : State} {n1 : _} (h : Stays L a s) (hL : Sub [.core, .part] L) :
    EStays L a (startEff s n1) := by
  unfold startEff
  repeat' with_reducible first | assumption | apply runPart_stays | apply Eff.conflict_stays | split

theorem resumeEff_stays {L : List Field} {a s : State} {n1 : _} (h : Stays L a s) (hL : Sub [.core, .part] L) :
    EStays L a (resumeEff s n1) := by
  unfold resumeEff
  repeat' with_reducible first | assumption | apply runPart_stays | apply Eff.conflict_stays | split

theorem quiesceEff_stays {L : List Field} {a s : State} {n1 n2 : _} (h : Stays L a s) (hL : Sub [.part] L) :
    EStays L a (quiesceEff s n1 n2) := by
  unfold quiesceEff
  repeat' with_reducible first
    | assumption | apply modPart_stays | apply Eff.conflict_stays | apply EStays.run | split

theorem resetEff_stays {L : List Field} {a s : State} {n1 : _} (h : Stays L a s)
    (hL : Sub [.free, .mem, .hostMem, .err, .hst, .pwr, .ras, .lnk, .core, .stream, .linkCorr, .routes, .region, .part,
      .bars, .snaps, .kv] L) :
    EStays L a (resetEff s n1) := by
  unfold resetEff
  repeat' with_reducible first
    | assumption | (intro) | apply Eff.conflict_stays | apply resetPartition_stays | apply dropSnapReq_stays
    | apply endQuiesce_stays | apply Eff.done_stays | apply settleRouters_stays | apply modPart_stays | apply EStays.ok
    | apply EStays.fail | apply EStays.run | apply EStays.hold | apply EStays.ite | apply Stays.ite | dsimp only
    | refine EStays.get_ok ‹_› ?_ | refine EStays.get_fail ‹_› ?_ | refine EStays.get_run ‹_› ?_ | split | exact hL.of rfl

theorem unloadEff_stays {L : List Field} {a s : State} {n1 : _} (h : Stays L a s)
    (hL : Sub [.lnk, .stream, .routes, .part, .bars] L) :
    EStays L a (unloadEff s n1) := by
  unfold unloadEff
  repeat' with_reducible first
    | assumption | apply Eff.conflict_stays | apply Eff.done_stays | apply modPart_stays | apply clearArrivals_stays
    | apply removeRoutes_stays | apply resetStreams_stays | split | exact hL.of rfl

theorem partCtrlEff_stays {L : List Field} {a s : State} {n1 n2 : _} (h : Stays L a s)
    (hL : Sub [.free, .mem, .hostMem, .err, .hst, .pwr, .ras, .lnk, .core, .stream, .linkCorr, .routes, .region, .part,
      .bars, .snaps, .kv] L) :
    EStays L a (partCtrlEff s n1 n2) := by
  unfold partCtrlEff
  repeat' with_reducible first
    | assumption | apply startEff_stays | apply quiesceEff_stays | apply resumeEff_stays | apply resetEff_stays
    | apply unloadEff_stays | apply Eff.no_stays | split | exact hL.of rfl

theorem toNormal_stays {L : List Field} {a s : State} {n1 : _} (h : Stays L a s)
    (hL : Sub [.free, .mem, .hostMem, .err, .hst, .ras, .region] L) :
    Stays L a (toNormal s n1) := by
  unfold toNormal
  repeat' with_reducible first | assumption | apply stopRegion_stays | apply Stays.ite

theorem partDestroyEff_stays {L : List Field} {a s : State} {n1 n2 : _} (h : Stays L a s)
    (hL : Sub [.free, .mem, .hostMem, .err, .hst, .pwr, .ras, .region, .part] L) :
    EStays L a (partDestroyEff s n1 n2) := by
  unfold partDestroyEff
  repeat' with_reducible first
    | assumption | (intro) | apply Eff.conflict_stays | apply toNormal_stays | apply dropModeWaits_stays
    | apply Eff.done_stays | apply EStays.ok | apply EStays.fail | apply EStays.run | apply EStays.hold | apply EStays.ite
    | apply Stays.ite | apply Stays.foldl | apply PStays.foldl | dsimp only | refine EStays.get_ok ‹_› ?_
    | refine EStays.get_fail ‹_› ?_ | refine EStays.get_run ‹_› ?_ | split | exact hL.of rfl | refine Stays.record ?_ hL

theorem partQueryEff_stays {L : List Field} {a s : State} {n1 n2 : _} (h : Stays L a s) :
    EStays L a (partQueryEff s n1 n2) := by
  unfold partQueryEff
  repeat' with_reducible first | assumption | apply EStays.ok

theorem partSnapshotEff_stays {L : List Field} {a s : State} {n1 n2 : _} (h : Stays L a s) (hL : Sub [.part] L) :
    EStays L a (partSnapshotEff s n1 n2) := by
  unfold partSnapshotEff
  repeat' with_reducible first
    | assumption | apply Eff.conflict_stays | apply modPart_stays | apply EStays.run | split

theorem routerResetEff_stays {L : List Field} {a s : State} {n1 n2 : _} (h : Stays L a s)
    (hL : Sub [.lnk, .stream, .linkCorr] L) :
    EStays L a (routerResetEff s n1 n2) := by
  unfold routerResetEff
  repeat' with_reducible first
    | assumption | (intro) | apply Eff.conflict_stays | apply Eff.done_stays | apply resetRouter_stays | apply EStays.ok
    | apply EStays.fail | apply EStays.run | apply EStays.hold | apply EStays.ite

-- PlanLoad

theorem restoreStreams_stays {L : List Field} {a s : State} {n1 n2 : _} (h : Stays L a s) (hL : Sub [.stream] L) :
    Stays L a (restoreStreams s n1 n2) := by
  unfold restoreStreams
  repeat' with_reducible first
    | assumption | (intro) | apply matchCredit_stays | apply setStream_stays | apply Stays.ite | apply Stays.foldl
    | apply PStays.foldl | apply PStays.fst | dsimp only | split

theorem restoreCore_stays {L : List Field} {a s : State} {n0 n2 : _} (h : Stays L a s) (hL : Sub [.core] L) :
    Stays L a (restoreCore n0 s n2) := by
  unfold restoreCore
  repeat' with_reducible first
    | assumption | (intro) | apply modCore_stays

theorem restoreRoutes_stays {L : List Field} {a s : State} {n1 n2 n3 : _} (h : Stays L a s) (hL : Sub [.routes] L) :
    Stays L a (restoreRoutes s n1 n2 n3) := by
  unfold restoreRoutes
  repeat' with_reducible first | assumption | (intro) | dsimp only | exact hL.of rfl | refine Stays.record ?_ hL

theorem restoreSram_stays {L : List Field} {a s : State} {n0 n2 n3 : _} (h : Stays L a s) (hL : Sub [.mem, .err] L) :
    Stays L a (restoreSram n0 s n2 n3) := by
  unfold restoreSram
  refine Stays.record h hL (wm := fun w => ?_)
  cases x : n0.offsets.find? fun e => decide (e.1 = n2) with
  | none => exact w
  | some e => exact Mem.wf_foldl_wrByte _ _ _ _ (Mem.wf_clearMem _ _ _ w)

theorem restoreTable_stays {L : List Field} {a s : State} {n0 n2 : _} (h : Stays L a s)
    (hL : Sub [.mem, .hostMem, .err, .hst, .ras, .region] L) :
    Stays L a (restoreTable n0 s n2) := by
  unfold restoreTable
  repeat' with_reducible first | assumption | apply replaceTable_stays

theorem areaReads_stays {L : List Field} {a s : State} {n1 : _} (h : Stays L a s)
    (hL : Sub [.hostMem, .hst, .ras, .memc, .region] L) :
    PStays L a (areaReads s n1) := by
  induction n1 generalizing s with
  | nil =>
    rw [areaReads]
    repeat' with_reducible first
        | assumption | (intro) | apply dramRead_stays | apply PStays.fst | dsimp only | refine PStays.get ‹_› ?_ | split
        | apply PStays.mk
  | cons x t ih =>
    obtain ⟨_, _⟩ := x; rw [areaReads]
    repeat' with_reducible first
        | assumption | apply ih | (intro) | apply dramRead_stays | apply PStays.fst | dsimp only | refine PStays.get ‹_› ?_
        | split | apply PStays.mk

theorem stopBehind_stays {L : List Field} {a s : State} {n1 : _} (h : Stays L a s)
    (hL : Sub [.hostMem, .hst, .ras, .lnk, .core, .stream, .linkCorr, .routes, .part, .bars, .snaps] L) :
    Stays L a (stopBehind s n1) := by
  unfold stopBehind
  repeat' with_reducible first
    | assumption | apply doneRec_stays | apply advance_stays | apply modCore_stays | split | exact hL.of rfl

theorem quarantineBank_stays {L : List Field} {a s : State} {n1 : _} (h : Stays L a s)
    (hL : Sub [.hostMem, .dev, .hst, .ras, .lnk, .core, .stream, .linkCorr, .routes, .part, .bars, .snaps] L) :
    Stays L a (quarantineBank s n1) := by
  unfold quarantineBank
  repeat' with_reducible first
    | assumption | (intro) | apply fenceCore_stays | apply checkDegraded_stays | apply partFault_stays | apply report_stays
    | dsimp only | split | exact hL.of rfl

theorem applyBankQuar_stays {L : List Field} {a s : State} (h : Stays L a s)
    (hL : Sub [.hostMem, .dev, .hst, .ras, .lnk, .core, .stream, .linkCorr, .routes, .part, .bars, .snaps] L) :
    Stays L a (applyBankQuar s) := by
  unfold applyBankQuar
  repeat' with_reducible first
    | assumption | (intro) | apply quarantineBank_stays | apply Stays.foldl | apply PStays.foldl | dsimp only
    | exact hL.of rfl | refine Stays.record ?_ hL

theorem imageAt_stays {L : List Field} {a s : State} {n1 n2 n3 : _} (h : Stays L a s)
    (hL : Sub [.free, .hostMem, .hst, .ras, .memc, .core, .region] L) :
    PStays L a (imageAt s n1 n2 n3) := by
  unfold imageAt
  repeat' with_reducible first
    | assumption | apply dpaRead_stays | apply PStays.fst | split | apply PStays.mk

theorem imageOf_stays {L : List Field} {a s : State} {n1 : _} (h : Stays L a s)
    (hL : Sub [.free, .hostMem, .hst, .ras, .memc, .core, .region] L) :
    PStays L a (imageOf s n1) := by
  unfold imageOf
  repeat' with_reducible first | assumption | apply imageAt_stays

theorem writeSrams_stays {L : List Field} {a s : State} {n0 n1 : _} (h : Stays L a s)
    (hL : Sub [.mem, .hostMem, .err, .hst, .ras, .core] L) :
    Stays L a (writeSrams n0 n1 s) := by
  unfold writeSrams
  repeat' with_reducible first
    | assumption | (intro) | apply sramWrite_stays | apply Stays.foldl | apply PStays.fst

theorem writeDrams_stays {L : List Field} {a s : State} {n0 n2 : _} (h : Stays L a s)
    (hL : Sub [.mem, .hostMem, .err, .hst, .ras, .memc] L) :
    PStays L a (writeDrams n0 s n2) := by
  induction n2 generalizing s with
  | nil =>
    rw [writeDrams]
    repeat' with_reducible first
        | assumption | (intro) | apply writeDram_stays | refine DStays.get_done ‹_› ?_ | refine DStays.get_fail ‹_› ?_ | split
        | apply PStays.mk
  | cons x t ih =>
    rw [writeDrams]
    repeat' with_reducible first
        | assumption | apply ih | (intro) | apply writeDram_stays | refine DStays.get_done ‹_› ?_
        | refine DStays.get_fail ‹_› ?_ | split | apply PStays.mk

theorem freeSram_stays {L : List Field} {a s : State} {n1 : _} (h : Stays L a s) (hL : Sub [.free, .mem] L) :
    Stays L a (freeSram s n1) := by
  exact Stays.record h hL (wm := (Mem.wf_wrBytes _ _ _))

theorem detachSnaps_stays {L : List Field} {a s : State} {n1 : _} (h : Stays L a s) (hL : Sub [.snaps] L) :
    Stays L a (detachSnaps s n1) := by
  unfold detachSnaps
  repeat' with_reducible first | assumption | exact hL.of rfl | refine Stays.record ?_ hL

theorem attachSnap_stays {L : List Field} {a s : State} {n1 n2 : _} (h : Stays L a s) (hL : Sub [.part, .snaps] L) :
    Stays L a (attachSnap s n1 n2) := by
  unfold attachSnap
  repeat' with_reducible first | assumption | apply modPart_stays | exact hL.of rfl | refine Stays.record ?_ hL

theorem takeRestore_stays {L : List Field} {a s : State} {n1 n2 n3 n4 : _} (h : Stays L a s)
    (hL : Sub [.mem, .hostMem, .err, .hst, .ras, .lnk, .memc, .core, .stream, .linkCorr, .routes, .region, .part, .bars,
      .snaps] L) :
    PStays L a (takeRestore s n1 n2 n3 n4) := by
  unfold takeRestore
  repeat' with_reducible first
    | assumption | (intro) | apply areaReads_stays | apply restoreTable_stays | apply restoreSram_stays
    | apply restoreCore_stays | apply restoreRoutes_stays | apply restoreStreams_stays | apply stopBehind_stays
    | apply attachSnap_stays | apply Stays.foldl | apply PStays.foldl | apply PStays.fst | dsimp only
    | refine PStays.get ‹_› ?_ | split | apply PStays.mk | exact hL.of rfl

theorem applyImage_stays {L : List Field} {a s : State} {n1 n2 n3 n4 : _} (h : Stays L a s)
    (hL : Sub [.mem, .hostMem, .err, .hst, .ras, .lnk, .memc, .core, .stream, .linkCorr, .routes, .region, .part, .bars,
      .snaps] L) :
    PStays L a (applyImage s n1 n2 n3 n4) := by
  unfold applyImage
  repeat' with_reducible first
    | assumption | apply stopCores_stays | apply detachSnaps_stays | apply writeDrams_stays | apply writeSrams_stays
    | apply installDeclared_stays | apply removeRoutes_stays | apply setPart_stays | apply takeRestore_stays
    | apply PStays.fst | split | apply PStays.mk | exact hL.of rfl

theorem requestRegion_stays {L : List Field} {a s : State} {n1 : _} (h : Stays L a s) (hL : Sub [.pwr] L) :
    Stays L a (requestRegion s n1) := by
  unfold requestRegion
  repeat' with_reducible first | assumption | apply modPwr_stays | apply Stays.ite

theorem loadFails_stays {L : List Field} {a s : State} {n1 n2 n3 : _} (h : Stays L a s) (hL : Sub [.part] L) :
    EStays L a (loadFails s n1 n2 n3) := by
  unfold loadFails
  repeat' with_reducible first | assumption | apply modPart_stays | apply EStays.fail

theorem commitLoad_stays {L : List Field} {a s : State} {n1 n2 n3 n4 n5 n6 : _} (h : Stays L a s)
    (hL : Sub [.free, .mem, .hostMem, .err, .hst, .ras, .lnk, .memc, .core, .stream, .linkCorr, .routes, .region, .part,
      .bars, .snaps] L) :
    EStays L a (commitLoad s n1 n2 n3 n4 n5 n6) := by
  unfold commitLoad
  repeat' with_reducible first
    | assumption | (intro) | apply applyImage_stays | apply Eff.done_stays | apply reportDesc_stays | apply freeSram_stays
    | apply removeRoutes_stays | apply loadFails_stays | apply setPart_stays | apply EStays.ok | apply EStays.fail
    | apply EStays.run | apply EStays.hold | apply Stays.foldl | apply PStays.foldl | apply PStays.fst | dsimp only
    | refine EStays.get_ok ‹_› ?_ | refine EStays.get_fail ‹_› ?_ | refine EStays.get_run ‹_› ?_ | refine PStays.get ‹_› ?_
    | split | apply PStays.mk | exact hL.of rfl

theorem checkLoad_stays {L : List Field} {a s : State} {n1 n2 n3 n4 : _} (h : Stays L a s)
    (hL : Sub [.free, .hostMem, .hst, .ras, .memc, .core, .region] L) :
    PStays L a (checkLoad s n1 n2 n3 n4) := by
  unfold checkLoad
  repeat' with_reducible first
    | assumption | (intro) | apply imageOf_stays | apply reportDesc_stays | apply PStays.fst | dsimp only
    | refine PStays.get ‹_› ?_ | split | apply PStays.mk | exact hL.of rfl

theorem partLoadEff_stays {L : List Field} {a s : State} {n1 n2 : _} (h : Stays L a s)
    (hL : Sub [.free, .mem, .hostMem, .err, .dev, .hst, .pwr, .ras, .lnk, .memc, .core, .stream, .linkCorr, .routes,
      .region, .part, .bars, .snaps] L) :
    EStays L a (partLoadEff s n1 n2) := by
  unfold partLoadEff
  repeat' with_reducible first
    | assumption | (intro) | apply Eff.conflict_stays | apply modPart_stays | apply applyBankQuar_stays
    | apply checkLoad_stays | apply commitLoad_stays | apply requestRegion_stays | apply EStays.ok | apply EStays.fail
    | apply EStays.run | apply EStays.hold | apply EStays.ite | apply PStays.ite | apply Stays.ite | apply Stays.foldl
    | apply PStays.foldl | apply PStays.fst | dsimp only | refine EStays.get_ok ‹_› ?_ | refine EStays.get_fail ‹_› ?_
    | refine EStays.get_run ‹_› ?_ | refine PStays.get ‹_› ?_ | split | apply PStays.mk | exact hL.of rfl

theorem finishLoad_stays {L : List Field} {a s : State} {n1 n2 : _} (h : Stays L a s)
    (hL : Sub [.free, .mem, .hostMem, .err, .hst, .ras, .lnk, .memc, .core, .stream, .linkCorr, .routes, .region, .part,
      .bars, .snaps] L) :
    EStays L a (finishLoad s n1 n2) := by
  unfold finishLoad
  repeat' with_reducible first
    | assumption | (intro) | apply Eff.no_stays | apply checkLoad_stays | apply loadFails_stays | apply commitLoad_stays
    | apply EStays.ok | apply EStays.fail | apply EStays.run | apply EStays.hold | apply EStays.ite | apply PStays.ite
    | apply Stays.ite | apply PStays.fst | dsimp only | refine EStays.get_ok ‹_› ?_ | refine EStays.get_fail ‹_› ?_
    | refine EStays.get_run ‹_› ?_ | refine PStays.get ‹_› ?_ | split | apply PStays.mk | exact hL.of rfl

-- Modes

theorem regionModeEff_stays {L : List Field} {a s : State} {n1 n2 : _} (h : Stays L a s) (hL : Sub [.pwr, .region] L) :
    EStays L a (regionModeEff s n1 n2) := by
  unfold regionModeEff
  repeat' with_reducible first
    | assumption | (intro) | apply Eff.no_stays | apply requestMode_stays | apply Eff.done_stays | apply modRegion_stays
    | apply EStays.ok | apply EStays.fail | apply EStays.run | apply EStays.hold | apply EStays.ite | apply Stays.ite
    | dsimp only | refine EStays.get_ok ‹_› ?_ | refine EStays.get_fail ‹_› ?_ | refine EStays.get_run ‹_› ?_
    | refine MStays.get_now ‹_› ?_ | refine MStays.get_admission ‹_› ?_ | split | exact hL.of rfl

theorem modeRow_stays {L : List Field} {a s : State} {n1 n2 : _} (h : Stays L a s)
    (hL : Sub [.mem, .hostMem, .err, .hst, .time, .pwr, .ras, .lnk, .memc, .core, .stream, .linkCorr, .turn, .routes,
      .region, .part, .bars, .snaps] L) :
    Stays L a (modeRow s n1 n2) := by
  unfold modeRow
  repeat' with_reducible first
    | assumption | (intro) | apply issueTile_stays | apply descRow_stays | apply regionModeEff_stays | split
    | exact hL.of rfl

theorem dropAdmit_stays {L : List Field} {a s : State} {n1 n2 : _} (h : Stays L a s) (hL : Sub [.pwr] L) :
    Stays L a (dropAdmit s n1 n2) := by
  unfold dropAdmit
  repeat' with_reducible first | assumption | apply modPwr_stays

theorem setAdmit_stays {L : List Field} {a s : State} {n1 n2 n3 : _} (h : Stays L a s) (hL : Sub [.pwr] L) :
    Stays L a (setAdmit s n1 n2 n3) := by
  unfold setAdmit
  repeat' with_reducible first | assumption | apply modPwr_stays

theorem countAdmit_stays {L : List Field} {a s : State} {n1 : _} (h : Stays L a s) (hL : Sub [.pwr] L) :
    Stays L a (countAdmit s n1) := by
  unfold countAdmit
  repeat' with_reducible first | assumption | exact hL.of rfl | refine Stays.record ?_ hL

theorem endModeOp_stays {L : List Field} {a s : State} {n1 n2 : _} (h : Stays L a s) (hL : Sub [.core] L) :
    Stays L a (endModeOp s n1 n2) := by
  unfold endModeOp
  repeat' with_reducible first | assumption | apply modCore_stays

theorem answerGroup_stays {L : List Field} {a s : State} {n1 n2 n3 : _} (h : Stays L a s) (hL : Sub [.hst] L) :
    Stays L a (answerGroup s n1 n2 n3) := by
  unfold answerGroup
  repeat' with_reducible first
    | assumption | (intro) | apply modChan_stays

theorem answerMode_stays {L : List Field} {a s : State} {n1 n2 n3 : _} (h : Stays L a s) (hL : Sub [.hst, .core] L) :
    Stays L a (answerMode s n1 n2 n3) := by
  unfold answerMode
  repeat' with_reducible first
    | assumption | (intro) | apply endModeOp_stays | apply answerGroup_stays | apply finishDesc_stays | apply Stays.ite
    | split | exact hL.of rfl

theorem decideModes_stays {L : List Field} {a s : State} {n0 n1 : _} (h : Stays L a s)
    (hL : Sub [.hst, .pwr, .core, .region] L) :
    Stays L a (decideModes n0 n1 s) := by
  induction n1 generalizing s with
  | nil =>
    rw [decideModes]
    repeat' with_reducible first
        | assumption | (intro) | apply modRegion_stays | apply answerMode_stays | apply decideMode_stays | dsimp only
        | refine MStays.get_now ‹_› ?_ | refine MStays.get_admission ‹_› ?_ | split | exact hL.of rfl
  | cons x t ih =>
    rw [decideModes]
    repeat' with_reducible first
        | assumption | apply ih | (intro) | apply modRegion_stays | apply answerMode_stays | apply decideMode_stays
        | dsimp only | refine MStays.get_now ‹_› ?_ | refine MStays.get_admission ‹_› ?_ | split | exact hL.of rfl

theorem settleModes_stays {L : List Field} {a s : State} {n1 n2 : _} (h : Stays L a s)
    (hL : Sub [.hst, .pwr, .core, .region] L) :
    Stays L a (settleModes s n1 n2) := by
  unfold settleModes
  repeat' with_reducible first
    | assumption | (intro) | apply decideModes_stays | apply answerMode_stays | split | exact hL.of rfl

theorem grantNbu_stays {L : List Field} {a s : State} {n1 : _} (h : Stays L a s) (hL : Sub [.hst, .pwr, .core, .region] L) :
    Stays L a (grantNbu s n1) := by
  unfold grantNbu
  repeat' with_reducible first
    | assumption | (intro) | apply settleModes_stays | apply modRegion_stays | apply Stays.ite | dsimp only
    | exact hL.of rfl

theorem refuseNbu_stays {L : List Field} {a s : State} {n1 : _} (h : Stays L a s)
    (hL : Sub [.hostMem, .hst, .pwr, .ras, .lnk, .core, .stream, .linkCorr, .routes, .region, .part, .bars, .snaps] L) :
    Stays L a (refuseNbu s n1) := by
  unfold refuseNbu
  repeat' with_reducible first
    | assumption | (intro) | apply settleModes_stays | apply restartRecovery_stays | dsimp only | split | exact hL.of rfl

theorem stageStep_stays {L : List Field} {a s : State} {n1 n2 n3 : _} (h : Stays L a s) (hL : Sub [.pwr] L) :
    Stays L a (stageStep s n1 n2 n3) := by
  unfold stageStep
  repeat' with_reducible first
    | assumption | apply modPwr_stays | apply setAdmit_stays | apply countAdmit_stays | apply dropAdmit_stays | split

theorem foldToNbc_stays {L : List Field} {a s : State} {n1 n2 n3 : _} (h : Stays L a s)
    (hL : Sub [.mem, .hostMem, .err, .hst, .ras, .core] L) :
    Stays L a (foldToNbc s n1 n2 n3) := by
  unfold foldToNbc
  repeat' with_reducible first
    | assumption | (intro) | apply nbcTake_stays | apply Stays.ite | split

-- Ports

theorem startTraining_stays {L : List Field} {a s : State} {n1 : _} (h : Stays L a s)
    (hL : Sub [.hostMem, .hst, .time, .ras, .lnk, .stream] L) :
    Stays L a (startTraining s n1) := by
  unfold startTraining
  repeat' with_reducible first
    | assumption | (intro) | apply movePort_stays | apply Stays.ite

theorem trainingFails_stays {L : List Field} {a s : State} {n1 : _} (h : Stays L a s)
    (hL : Sub [.hostMem, .hst, .time, .ras, .lnk, .stream] L) :
    Stays L a (trainingFails s n1) := by
  unfold trainingFails
  repeat' with_reducible first | assumption | (intro) | apply movePort_stays

theorem laneRecords_stays {L : List Field} {a s : State} {n1 n2 : _} (h : Stays L a s) (hL : Sub [.hostMem, .hst, .ras] L) :
    Stays L a (laneRecords s n1 n2) := by
  unfold laneRecords
  repeat' with_reducible first
    | assumption | (intro) | apply report_stays | apply Stays.ite | apply Stays.foldl

theorem miswiredRecord_stays {L : List Field} {a s : State} {n1 : _} (h : Stays L a s) (hL : Sub [.hostMem, .hst, .ras] L) :
    Stays L a (miswiredRecord s n1) := by
  unfold miswiredRecord
  repeat' with_reducible first | assumption | apply reportContained_stays

theorem settlePort_stays {L : List Field} {a s s1 : State} {n2 n3 n4 n5 : _} (h : Stays L a s) (h1 : Stays L a s1)
    (hL : Sub [.hostMem, .hst, .time, .pwr, .ras, .lnk, .stream] L) :
    Stays L a (settlePort s s1 n2 n3 n4 n5) := by
  unfold settlePort
  repeat' with_reducible first
    | assumption | (intro) | apply updPort_stays | apply miswiredRecord_stays | apply pumpPort_stays | apply afterPort_stays
    | apply Stays.ite | dsimp only | exact hL.of rfl

theorem retrain_stays {L : List Field} {a s : State} {n1 : _} (h : Stays L a s)
    (hL : Sub [.hostMem, .hst, .time, .pwr, .ras, .lnk, .core, .stream, .linkCorr, .routes, .part, .bars, .snaps] L) :
    Stays L a (retrain s n1) := by
  unfold retrain
  repeat' with_reducible first
    | assumption | (intro) | apply reportContained_stays | apply leaveUp_stays | apply startTraining_stays | apply Stays.ite
    | dsimp only | exact hL.of rfl

theorem retrainBit_stays {L : List Field} {a s : State} {n0 n2 : _} (h : Stays L a s)
    (hL : Sub [.hostMem, .hst, .time, .pwr, .ras, .lnk, .core, .stream, .linkCorr, .routes, .part, .bars, .snaps] L) :
    Stays L a (retrainBit n0 s n2) := by
  unfold retrainBit
  repeat' with_reducible first
    | assumption | (intro) | apply retrain_stays | apply Stays.ite | split | exact hL.of rfl | refine Stays.record ?_ hL

theorem writeRetrain_stays {L : List Field} {a s : State} {n1 : _} (h : Stays L a s)
    (hL : Sub [.hostMem, .hst, .time, .pwr, .ras, .lnk, .core, .stream, .linkCorr, .routes, .part, .bars, .snaps] L) :
    Stays L a (writeRetrain s n1) := by
  unfold writeRetrain
  repeat' with_reducible first
    | assumption | (intro) | apply retrainBit_stays | apply Stays.ite | apply Stays.foldl

theorem applyIdent_stays {L : List Field} {a s : State} {n1 n2 : _} (h : Stays L a s)
    (hL : Sub [.hostMem, .hst, .time, .pwr, .ras, .lnk, .core, .stream, .linkCorr, .routes, .part, .bars, .snaps] L) :
    Stays L a (applyIdent s n1 n2) := by
  unfold applyIdent
  repeat' with_reducible first
    | assumption | (intro) | apply afterMaster_stays | apply updPort_stays | apply leaveUp_stays
    | apply miswiredRecord_stays | apply pumpPort_stays | apply settlePort_stays | apply Stays.ite | dsimp only
    | exact hL.of rfl

theorem resendIdent_stays {L : List Field} {a s : State} {n1 : _} (h : Stays L a s)
    (hL : Sub [.hostMem, .hst, .time, .pwr, .ras, .lnk, .core, .stream, .linkCorr, .routes, .part, .bars, .snaps] L) :
    Stays L a (resendIdent s n1) := by
  unfold resendIdent
  repeat' with_reducible first
    | assumption | (intro) | apply sendControl_stays | apply applyIdent_stays | apply Stays.ite | apply Stays.foldl
    | apply PStays.foldl | dsimp only | split | exact hL.of rfl

theorem writeIdentity_stays {L : List Field} {a s : State} {n1 : _} (h : Stays L a s)
    (hL : Sub [.hostMem, .hst, .time, .pwr, .ras, .lnk, .core, .stream, .linkCorr, .routes, .part, .bars, .snaps] L) :
    Stays L a (writeIdentity s n1) := by
  unfold writeIdentity
  repeat' with_reducible first
    | assumption | (intro) | apply resendIdent_stays | apply afterMaster_stays | apply Stays.ite | dsimp only
    | exact hL.of rfl | refine Stays.record ?_ hL

theorem takeTree_stays {L : List Field} {a s : State} {n1 n2 : _} (h : Stays L a s)
    (hL : Sub [.time, .pwr, .lnk, .stream] L) :
    Stays L a (takeTree s n1 n2) := by
  unfold takeTree
  repeat' with_reducible first
    | assumption | apply afterPort_stays | apply Stays.ite | exact hL.of rfl | refine Stays.record ?_ hL

theorem exchangeFails_stays {L : List Field} {a s : State} (h : Stays L a s) (hL : Sub [.hostMem, .hst, .time, .ras] L) :
    Stays L a (exchangeFails s) := by
  unfold exchangeFails
  repeat' with_reducible first
    | assumption | (intro) | apply reportContained_stays | apply failRun_stays | apply Stays.ite | dsimp only
    | exact hL.of rfl | refine Stays.record ?_ hL

theorem answerTime_stays {L : List Field} {a s : State} {n1 n2 : _} (h : Stays L a s) (hL : Sub [.time, .lnk, .stream] L) :
    Stays L a (answerTime s n1 n2) := by
  unfold answerTime
  repeat' with_reducible first | assumption | apply sendControl_stays

theorem takeOffset_stays {L : List Field} {a s : State} {n1 : _} (h : Stays L a s) (hL : Sub [.time] L) :
    Stays L a (takeOffset s n1) := by
  unfold takeOffset
  repeat' with_reducible first
    | assumption | (intro) | apply failRun_stays | apply Stays.ite | dsimp only | exact hL.of rfl
    | refine Stays.record ?_ hL

theorem takeResp_stays {L : List Field} {a s : State} {n1 n2 n3 n4 : _} (h : Stays L a s)
    (hL : Sub [.hostMem, .hst, .time, .ras] L) :
    Stays L a (takeResp s n1 n2 n3 n4) := by
  unfold takeResp
  repeat' with_reducible first
    | assumption | apply exchangeFails_stays | apply takeOffset_stays | apply Stays.ite | exact hL.of rfl

theorem recordSlack_stays {L : List Field} {a s : State} {n1 n2 : _} (h : Stays L a s) (hL : Sub [.pwr] L) :
    Stays L a (recordSlack s n1 n2) := by
  unfold recordSlack
  repeat' with_reducible first
    | assumption | (intro) | apply Stays.ite | dsimp only | exact hL.of rfl | refine Stays.record ?_ hL

theorem sendSlack_stays {L : List Field} {a s : State} {n0 n2 : _} (h : Stays L a s)
    (hL : Sub [.time, .pwr, .lnk, .stream] L) :
    Stays L a (sendSlack n0 s n2) := by
  unfold sendSlack
  repeat' with_reducible first
    | assumption | (intro) | apply recordSlack_stays | apply sendControl_stays | apply Stays.ite | dsimp only | split
    | exact hL.of rfl

theorem leaveJobs_stays {L : List Field} {a s : State} (h : Stays L a s) (hL : Sub [.pwr] L) : Stays L a (leaveJobs s) := by
  unfold leaveJobs
  repeat' with_reducible first
    | assumption | (intro) | apply Stays.ite | dsimp only | exact hL.of rfl | refine Stays.record ?_ hL

theorem sendAssign_stays {L : List Field} {a s : State} {n0 n1 n3 : _} (h : Stays L a s)
    (hL : Sub [.time, .pwr, .lnk, .stream] L) :
    Stays L a (sendAssign n0 n1 s n3) := by
  unfold sendAssign
  repeat' with_reducible first | assumption | apply sendControl_stays | split | exact hL.of rfl | refine Stays.record ?_ hL

-- Flits

theorem takeNak_stays {L : List Field} {a s : State} {n1 n2 : _} (h : Stays L a s)
    (hL : Sub [.hostMem, .hst, .time, .pwr, .ras, .lnk, .core, .stream, .linkCorr, .routes, .part, .bars, .snaps] L) :
    Stays L a (takeNak s n1 n2) := by
  unfold takeNak
  repeat' with_reducible first | assumption | apply setPort_stays | apply retrain_stays | apply Stays.ite | exact hL.of rfl

theorem flitItems_stays {L : List Field} {a s : State} {n1 n2 n3 n4 : _} (h : Stays L a s) (hL : Sub [.stream] L) :
    Stays L a (flitItems s n1 n2 n3 n4) := by
  unfold flitItems
  repeat' with_reducible first | assumption | apply modStream_stays

theorem takeControl_stays {L : List Field} {a s : State} {n1 n2 : _} (h : Stays L a s)
    (hL : Sub [.hostMem, .hst, .time, .pwr, .ras, .lnk, .core, .stream, .linkCorr, .routes, .part, .bars, .snaps] L) :
    Stays L a (takeControl s n1 n2) := by
  unfold takeControl
  repeat' with_reducible first
    | assumption | apply takeArrive_stays | apply takeRelease_stays | apply answerTime_stays | apply takeResp_stays
    | apply applyIdent_stays | apply recordSlack_stays | apply takeTree_stays | split | exact hL.of rfl
    | refine Stays.record ?_ hL

theorem takeHeader_stays {L : List Field} {a s : State} {n1 n2 : _} (h : Stays L a s)
    (hL : Sub [.hostMem, .hst, .time, .pwr, .ras, .lnk, .core, .stream, .linkCorr, .routes, .part, .bars, .snaps] L) :
    Stays L a (takeHeader s n1 n2) := by
  unfold takeHeader
  repeat' with_reducible first | assumption | apply modPort_stays | apply takeNak_stays | apply Stays.ite | exact hL.of rfl

theorem discardFlit_stays {L : List Field} {a s : State} {n1 : _} (h : Stays L a s) (hL : Sub [.lnk] L) :
    Stays L a (discardFlit s n1) := by
  unfold discardFlit
  repeat' with_reducible first
    | assumption | (intro) | apply modPort_stays

theorem acceptSeq_stays {L : List Field} {a s : State} {n1 n2 : _} (h : Stays L a s) (hL : Sub [.lnk] L) :
    Stays L a (acceptSeq s n1 n2) := by
  unfold acceptSeq
  repeat' with_reducible first | assumption | apply modPort_stays

theorem takeContents_stays {L : List Field} {a s : State} {n1 n2 n3 : _} (h : Stays L a s)
    (hL : Sub [.hostMem, .hst, .time, .pwr, .ras, .lnk, .core, .stream, .linkCorr, .routes, .part, .bars, .snaps] L) :
    Stays L a (takeContents s n1 n2 n3) := by
  unfold takeContents
  repeat' with_reducible first
    | assumption | apply flitItems_stays | apply takeControl_stays | apply modPort_stays | apply Stays.ite | exact hL.of rfl

theorem takeFlit_stays {L : List Field} {a s : State} {n1 n2 n3 : _} (h : Stays L a s)
    (hL : Sub [.hostMem, .hst, .time, .pwr, .ras, .lnk, .core, .stream, .linkCorr, .routes, .part, .bars, .snaps] L) :
    Stays L a (takeFlit s n1 n2 n3) := by
  unfold takeFlit
  repeat' with_reducible first
    | assumption | apply discardFlit_stays | apply takeHeader_stays | apply acceptSeq_stays | apply takeContents_stays
    | apply Stays.ite | exact hL.of rfl

theorem idleNak_stays {L : List Field} {a s : State} {n1 : _} (h : Stays L a s) (hL : Sub [.lnk] L) :
    Stays L a (idleNak s n1) := by
  unfold idleNak
  repeat' with_reducible first
    | assumption | (intro) | apply modPort_stays

-- Faults

theorem writeLogCfg_stays {L : List Field} {a s : State} {n1 : _} (h : Stays L a s) (hL : Sub [.hostMem, .ras] L) :
    Stays L a (writeLogCfg s n1) := by
  unfold writeLogCfg
  repeat' with_reducible first
    | assumption | apply flushLog_stays | apply Stays.ite | exact hL.of rfl | refine Stays.record ?_ hL

theorem writeSigCfg_stays {L : List Field} {a s : State} {n1 : _} (h : Stays L a s) (hL : Sub [.ras] L) :
    Stays L a (writeSigCfg s n1) := by
  unfold writeSigCfg
  repeat' with_reducible first | assumption | apply Stays.ite | exact hL.of rfl | refine Stays.record ?_ hL

theorem nextVisit_stays {L : List Field} {a s : State} (h : Stays L a s) (hL : Sub [.weevil] L) :
    Stays L a (nextVisit s) := by
  unfold nextVisit
  repeat' with_reducible first | assumption | split | exact hL.of rfl | refine Stays.record ?_ hL

theorem startSlice_stays {L : List Field} {a s : State} {n1 : _} (h : Stays L a s) (hL : Sub [.weevil] L) :
    Stays L a (startSlice s n1) := by
  unfold startSlice
  repeat' with_reducible first | assumption | exact hL.of rfl | refine Stays.record ?_ hL

theorem trySlice_stays {L : List Field} {a s : State} (h : Stays L a s) (hL : Sub [.weevil] L) :
    Stays L a (trySlice s) := by
  unfold trySlice
  repeat' with_reducible first | assumption | apply startSlice_stays | dsimp only | split

theorem writeWeevil_stays {L : List Field} {a s : State} {n1 : _} (h : Stays L a s) (hL : Sub [.weevil] L) :
    Stays L a (writeWeevil s n1) := by
  unfold writeWeevil
  repeat' with_reducible first | assumption | apply Stays.ite | exact hL.of rfl | refine Stays.record ?_ hL

theorem routerQuarantine_stays {L : List Field} {a s : State} {n1 n2 : _} (h : Stays L a s)
    (hL : Sub [.hostMem, .dev, .hst, .ras, .lnk, .core, .stream, .linkCorr, .routes, .part, .bars, .snaps] L) :
    Stays L a (routerQuarantine s n1 n2) := by
  unfold routerQuarantine
  repeat' with_reducible first
    | assumption | (intro) | apply report_stays | apply failPartition_stays | apply quarantineCore_stays | apply Stays.foldl
    | apply PStays.foldl | dsimp only | exact hL.of rfl

theorem routerFault_stays {L : List Field} {a s : State} {n1 n2 : _} (h : Stays L a s)
    (hL : Sub [.hostMem, .hst, .ras, .lnk, .core, .stream, .linkCorr, .routes, .part, .bars, .snaps] L) :
    Stays L a (routerFault s n1 n2) := by
  unfold routerFault
  repeat' with_reducible first
    | assumption | (intro) | apply report_stays | apply partFault_stays | apply settleRouters_stays | apply Stays.ite
    | apply Stays.foldl | apply PStays.foldl | apply PStays.fst | dsimp only | exact hL.of rfl | refine Stays.record ?_ hL

theorem recoveryReset_stays {L : List Field} {a s : State} {n1 : _} (h : Stays L a s)
    (hL : Sub [.free, .mem, .hostMem, .err, .hst, .pwr, .ras, .lnk, .core, .stream, .linkCorr, .routes, .region, .part,
      .bars, .snaps, .kv] L) :
    Stays L a (recoveryReset s n1) := by
  unfold recoveryReset
  repeat' with_reducible first
    | assumption | (intro) | apply resetPartition_stays | apply resetRouter_stays | apply Stays.foldl | apply PStays.foldl
    | apply PStays.fst | dsimp only | exact hL.of rfl | refine Stays.record ?_ hL

theorem areaFault_stays {L : List Field} {a s : State} {n1 n2 n3 : _} (h : Stays L a s)
    (hL : Sub [.hostMem, .dev, .hst, .ras] L) :
    Stays L a (areaFault s n1 n2 n3) := by
  unfold areaFault
  repeat' with_reducible first | assumption | apply report_stays | exact hL.of rfl | refine Stays.record ?_ hL

theorem restoreMode_stays {L : List Field} {a s : State} {n0 n2 : _} (h : Stays L a s) (hL : Sub [.pwr, .region] L) :
    Stays L a (restoreMode n0 s n2) := by
  unfold restoreMode
  repeat' with_reducible first | assumption | apply modRegion_stays | apply modPwr_stays | split | exact hL.of rfl

theorem restoreAll_stays {L : List Field} {a s : State} {n1 n2 n3 : _} (h : Stays L a s)
    (hL : Sub [.mem, .hostMem, .err, .hst, .time, .pwr, .ras, .lnk, .core, .stream, .routes, .region, .part, .bars] L) :
    Stays L a (restoreAll s n1 n2 n3) := by
  unfold restoreAll
  repeat' with_reducible first
    | assumption | (intro) | apply restoreTable_stays | apply restoreSram_stays | apply restoreCore_stays
    | apply restoreMode_stays | apply restoreRoutes_stays | apply restoreStreams_stays | apply modPart_stays
    | apply stepBar_stays | apply setBar_stays | apply Stays.foldl | apply PStays.foldl | dsimp only | split
    | exact hL.of rfl

theorem restoreFrom_stays {L : List Field} {a s : State} {n1 n2 n3 n4 : _} (h : Stays L a s)
    (hL : Sub [.mem, .hostMem, .err, .dev, .hst, .time, .pwr, .ras, .lnk, .memc, .core, .stream, .linkCorr, .routes,
      .region, .chim, .part, .bars, .snaps] L) :
    Stays L a (restoreFrom s n1 n2 n3 n4) := by
  unfold restoreFrom
  repeat' with_reducible first
    | assumption | (intro) | apply areaReads_stays | apply areaFault_stays | apply restoreAll_stays | apply countCrcs_stays
    | apply restartRecovery_stays | apply PStays.ite | apply Stays.ite | apply PStays.fst | dsimp only
    | refine PStays.get ‹_› ?_ | split | apply PStays.mk | exact hL.of rfl

theorem reloadPlan_stays {L : List Field} {a s : State} {n1 n2 n3 : _} (h : Stays L a s)
    (hL : Sub [.free, .mem, .hostMem, .err, .hst, .ras, .lnk, .memc, .core, .stream, .linkCorr, .routes, .region, .part,
      .bars, .snaps] L) :
    Stays L a (reloadPlan s n1 n2 n3) := by
  unfold reloadPlan
  repeat' with_reducible first
    | assumption | apply restartRecovery_stays | apply imageAt_stays | apply report_stays | apply failPartition_stays
    | apply writeDrams_stays | apply writeSrams_stays | apply modPart_stays | apply releaseSeqs_stays | apply PStays.fst
    | dsimp only | split | exact hL.of rfl

-- KvOps

theorem startMirror_stays {L : List Field} {a s : State} {n0 n2 : _} (h : Stays L a s)
    (hL : Sub [.mem, .hostMem, .err, .hst, .ras, .region] L) :
    Stays L a (startMirror n0 s n2) := by
  unfold startMirror
  repeat' with_reducible first
    | assumption | apply writeMirror_stays | apply modRegion_stays | apply Stays.ite | exact hL.of rfl

theorem kvSetupEff_stays {L : List Field} {a s : State} {n1 n2 : _} (h : Stays L a s)
    (hL : Sub [.free, .mem, .hostMem, .err, .hst, .ras, .region, .kv] L) :
    EStays L a (kvSetupEff s n1 n2) := by
  unfold kvSetupEff
  repeat' with_reducible first
    | assumption | (intro) | apply Eff.no_stays | apply draw_stays | apply Eff.done_stays | apply startMirror_stays
    | apply EStays.ok | apply EStays.fail | apply EStays.run | apply EStays.hold | apply EStays.ite | apply Stays.ite
    | apply Stays.foldl | apply PStays.foldl | dsimp only | refine EStays.get_ok ‹_› ?_ | refine EStays.get_fail ‹_› ?_
    | refine EStays.get_run ‹_› ?_ | split | exact hL.of rfl | refine Stays.record ?_ hL

theorem dropEntries_stays {L : List Field} {a s : State} {n0 n2 : _} (h : Stays L a s)
    (hL : Sub [.mem, .hostMem, .err, .hst, .ras, .region] L) :
    Stays L a (dropEntries n0 s n2) := by
  unfold dropEntries
  repeat' with_reducible first | assumption | apply editTable_stays

theorem endMirrors_stays {L : List Field} {a s : State} {n1 : _} (h : Stays L a s) (hL : Sub [.region] L) :
    Stays L a (endMirrors s n1) := by
  unfold endMirrors
  repeat' with_reducible first
    | assumption | (intro) | apply modRegion_stays | apply Stays.ite | apply Stays.foldl

theorem releaseCtxEntries_stays {L : List Field} {a s : State} {n1 n2 : _} (h : Stays L a s)
    (hL : Sub [.mem, .hostMem, .err, .hst, .ras, .region, .kv] L) :
    Stays L a (releaseCtxEntries s n1 n2) := by
  unfold releaseCtxEntries
  repeat' with_reducible first
    | assumption | (intro) | apply dropEntries_stays | apply dropKvSeq_stays | apply endMirrors_stays | apply Stays.foldl
    | exact hL.of rfl | refine Stays.record ?_ hL

theorem kvReleaseEff_stays {L : List Field} {a s : State} {n1 n2 : _} (h : Stays L a s)
    (hL : Sub [.mem, .hostMem, .err, .hst, .ras, .region, .kv] L) :
    EStays L a (kvReleaseEff s n1 n2) := by
  unfold kvReleaseEff
  repeat' with_reducible first
    | assumption | apply Eff.no_stays | apply Eff.done_stays | apply releaseCtxEntries_stays | split

theorem kvPteEff_stays {L : List Field} {a s : State} {n1 n2 : _} (h : Stays L a s)
    (hL : Sub [.mem, .hostMem, .err, .hst, .ras, .region] L) :
    EStays L a (kvPteEff s n1 n2) := by
  unfold kvPteEff
  repeat' with_reducible first
    | assumption | apply Eff.no_stays | apply editTable_stays | apply EStays.ok | apply EStays.ite

theorem seqRegister_stays {L : List Field} {a s : State} {n1 : _} (h : Stays L a s) (hL : Sub [.kv] L) :
    EStays L a (seqRegister s n1) := by
  unfold seqRegister
  repeat' with_reducible first
    | assumption | apply Eff.no_stays | apply EStays.ok | apply EStays.ite | exact hL.of rfl | refine Stays.record ?_ hL

theorem seqPause_stays {L : List Field} {a s : State} {n1 n2 : _} (h : Stays L a s) (hL : Sub [.kv] L) :
    EStays L a (seqPause s n1 n2) := by
  unfold seqPause
  repeat' with_reducible first
    | assumption | apply Eff.no_stays | apply modKvSeq_stays | apply EStays.ok | apply EStays.run | split

theorem seqResume_stays {L : List Field} {a s : State} {n1 : _} (h : Stays L a s) (hL : Sub [.kv] L) :
    EStays L a (seqResume s n1) := by
  unfold seqResume
  repeat' with_reducible first
    | assumption | apply Eff.no_stays | apply modKvSeq_stays | apply EStays.ok | split | exact hL.of rfl
    | refine Stays.record ?_ hL

theorem seqRemove_stays {L : List Field} {a s : State} {n1 n2 : _} (h : Stays L a s) (hL : Sub [.kv] L) :
    EStays L a (seqRemove s n1 n2) := by
  unfold seqRemove
  repeat' with_reducible first
    | assumption | apply Eff.no_stays | apply modKvSeq_stays | apply dropKvSeq_stays | apply EStays.ok | apply EStays.run
    | split

theorem kvSeqEff_stays {L : List Field} {a s : State} {n1 n2 : _} (h : Stays L a s) (hL : Sub [.kv] L) :
    EStays L a (kvSeqEff s n1 n2) := by
  unfold kvSeqEff
  repeat' with_reducible first
    | assumption | apply seqRegister_stays | apply seqPause_stays | apply seqResume_stays | apply seqRemove_stays
    | apply Eff.no_stays | split

-- Trust

theorem extendMeasure_stays {L : List Field} {a s : State} {n1 n2 : _} (h : Stays L a s) (hL : Sub [.boot] L) :
    Stays L a (extendMeasure s n1 n2) := by
  unfold extendMeasure
  repeat' with_reducible first | assumption | exact hL.of rfl | refine Stays.record ?_ hL

-- SecOps

theorem applyFeatures_stays {L : List Field} {a s : State} {n1 : _} (h : Stays L a s)
    (hL : Sub [.hostMem, .hst, .time, .pwr, .ras, .sec, .lnk, .core, .stream, .linkCorr, .routes, .part, .bars, .snaps] L) :
    Stays L a (applyFeatures s n1) := by
  unfold applyFeatures
  repeat' with_reducible first
    | assumption | (intro) | apply startTraining_stays | apply resendIdent_stays | apply Stays.ite | apply Stays.foldl
    | apply PStays.foldl | dsimp only | exact hL.of rfl | refine Stays.record ?_ hL

theorem licInstallEff_stays {L : List Field} {a s : State} {n0 n2 n3 : _} (h : Stays L a s)
    (hL : Sub [.hostMem, .hst, .time, .pwr, .ras, .sec, .lnk, .core, .stream, .linkCorr, .routes, .part, .bars, .snaps] L) :
    EStays L a (licInstallEff n0 s n2 n3) := by
  unfold licInstallEff
  repeat' with_reducible first
    | assumption | apply Eff.no_stays | apply applyFeatures_stays | apply EStays.ok | apply EStays.fail | apply EStays.ite
    | exact hL.of rfl | refine Stays.record ?_ hL

theorem storeImage_stays {L : List Field} {a s : State} {n0 n2 : _} (h : Stays L a s) (hL : Sub [.boot] L) :
    Stays L a (storeImage n0 s n2) := by
  unfold storeImage
  repeat' with_reducible first
    | assumption | (intro) | apply Stays.ite | apply Stays.foldl | apply PStays.foldl | dsimp only | exact hL.of rfl
    | refine Stays.record ?_ hL

theorem fwUpdateEff_stays {L : List Field} {a s : State} {n0 n2 n3 : _} (h : Stays L a s) (hL : Sub [.boot] L) :
    EStays L a (fwUpdateEff n0 s n2 n3) := by
  unfold fwUpdateEff
  repeat' with_reducible first
    | assumption | (intro) | apply Eff.no_stays | apply Eff.done_stays | apply storeImage_stays | apply extendMeasure_stays
    | apply EStays.ok | apply EStays.fail | apply EStays.run | apply EStays.hold | apply EStays.ite | apply Stays.ite
    | apply Stays.foldl | apply PStays.foldl | dsimp only | refine EStays.get_ok ‹_› ?_ | refine EStays.get_fail ‹_› ?_
    | refine EStays.get_run ‹_› ?_ | split

theorem attestEff_stays {L : List Field} {a s : State} {n1 n2 : _} (h : Stays L a s)
    (hL : Sub [.free, .hostMem, .hst, .sec] L) :
    EStays L a (attestEff s n1 n2) := by
  unfold attestEff
  repeat' with_reducible first
    | assumption | (intro) | apply draw_stays | apply hostWrite_stays | apply EStays.ok | apply EStays.fail
    | apply EStays.run | apply EStays.hold | apply EStays.ite | apply Stays.ite | dsimp only | split | exact hL.of rfl
    | refine Stays.record ?_ hL

theorem unlockDebug_stays {L : List Field} {a s : State} (h : Stays L a s) (hL : Sub [.hostMem, .dev, .hst, .ras, .sec] L) :
    Stays L a (unlockDebug s) := by
  unfold unlockDebug
  repeat' with_reducible first
    | assumption | (intro) | apply reportContained_stays | dsimp only | exact hL.of rfl | refine Stays.record ?_ hL

theorem failDebug_stays {L : List Field} {a s : State} (h : Stays L a s) (hL : Sub [.sec] L) : Stays L a (failDebug s) := by
  unfold failDebug
  repeat' with_reducible first | assumption | exact hL.of rfl | refine Stays.record ?_ hL

-- Groups

/-- A member of a group does what its opcode does alone (R280). -/
theorem groupEff_stays {L : List Field} {a s : State} {op : Nat} {f : State → DescEnv → Line → Eff} {x : DescEnv} {d : Line}
    (e : groupEff op = some f) (h : Stays L a s)
    (hL : Sub [.free, .mem, .hostMem, .err, .dev, .boot, .hst, .time, .pwr, .ras, .sec, .lnk, .memc, .core, .stream,
      .linkCorr, .routes, .region, .part, .bars, .snaps, .kv, .out] L) : EStays L a (f s x d) := by
  unfold groupEff at e
  split at e <;> cases e
  · exact nopEff_stays h
  · exact chCreateEff_stays h (hL.of rfl)
  · exact chDestroyEff_stays h (hL.of rfl)
  · exact partCreateEff_stays h (hL.of rfl)
  · exact partLoadEff_stays h (hL.of rfl)
  · exact partCtrlEff_stays h (hL.of rfl)
  · exact partDestroyEff_stays h (hL.of rfl)
  · exact regionModeEff_stays h (hL.of rfl)
  · exact licInstallEff_stays h (hL.of rfl)
  · exact fwUpdateEff_stays h (hL.of rfl)
  · exact pwrCapEff_stays h (hL.of rfl)
  · exact kvSetupEff_stays h (hL.of rfl)
  · exact kvReleaseEff_stays h (hL.of rfl)
  · exact kvPteEff_stays h (hL.of rfl)
  · exact kvSeqEff_stays h (hL.of rfl)

theorem memberEff_stays {L : List Field} {a s : State} {n1 n2 : _} (h : Stays L a s)
    (hL : Sub [.free, .mem, .hostMem, .err, .dev, .boot, .hst, .time, .pwr, .ras, .sec, .lnk, .memc, .core, .stream,
      .linkCorr, .routes, .region, .part, .bars, .snaps, .kv, .out] L) :
    XStays L a (memberEff s n1 n2) := by
  unfold memberEff; split
  · exact XStays.error
  split
  · exact XStays.error
  split
  · exact XStays.error
  split
  · exact XStays.ok (EStays.get_ok ‹_› (groupEff_stays ‹_› h (hL.of rfl)))
  · exact XStays.ok (EStays.get_run ‹_› (groupEff_stays ‹_› h (hL.of rfl)))
  · exact XStays.error
  · exact XStays.error

theorem stageLoad_stays {L : List Field} {a s : State} {n1 n2 : _} (h : Stays L a s)
    (hL : Sub [.free, .hostMem, .hst, .ras, .memc, .core, .region, .part] L) :
    Stays L a (stageLoad s n1 n2) := by
  unfold stageLoad
  repeat' with_reducible first
    | assumption | (intro) | apply checkLoad_stays | apply setPart_stays | apply PStays.fst | refine PStays.get ‹_› ?_
    | split | apply PStays.mk | exact hL.of rfl

theorem stageMember_stays {L : List Field} {a s : State} {n1 n2 : _} (h : Stays L a s)
    (hL : Sub [.free, .mem, .hostMem, .err, .dev, .boot, .hst, .time, .pwr, .ras, .sec, .lnk, .memc, .core, .stream,
      .linkCorr, .routes, .region, .part, .bars, .snaps, .kv, .out] L) :
    XStays L a (stageMember s n1 n2) := by
  unfold stageMember
  repeat' with_reducible first
    | assumption | (intro) | apply memberEff_stays | apply stageLoad_stays | apply Stays.ite | apply XStays.ite
    | refine XStays.get ‹_› ?_ | split | apply XStays.error | apply XStays.ok | exact hL.of rfl

theorem foldMembers_stays {L : List Field} {a s : State} {n0 n2 n3 n4 : _} (h : Stays L a s)
    (hL : Sub [.free, .mem, .hostMem, .err, .dev, .boot, .hst, .time, .pwr, .ras, .sec, .lnk, .memc, .core, .stream,
      .linkCorr, .routes, .region, .part, .bars, .snaps, .kv, .out] L) :
    XStays L a (foldMembers n0 s n2 n3 n4) := by
  induction n3 generalizing s n2 n4 with
  | nil => exact XStays.ok h
  | cons x t ih =>
    rw [foldMembers]; split
    · exact ih (XStays.get ‹_› (memberEff_stays h (hL.of rfl)))
    · exact XStays.error

theorem addMember_stays {L : List Field} {a s : State} {n1 n2 : _} (h : Stays L a s) (hL : Sub [.hst] L) :
    Stays L a (addMember s n1 n2) := by
  unfold addMember
  repeat' with_reducible first | assumption | apply modChan_stays

theorem stagedState_stays {L : List Field} {a s : State} {n1 n2 : _} (h : Stays L a s)
    (hL : Sub [.free, .mem, .hostMem, .err, .dev, .boot, .hst, .time, .pwr, .ras, .sec, .lnk, .memc, .core, .stream,
      .linkCorr, .routes, .region, .part, .bars, .snaps, .kv, .out] L) :
    Stays L a (stagedState s n1 n2) := by
  unfold stagedState
  repeat' with_reducible first
    | assumption | (intro) | apply stageMember_stays | apply Stays.foldl | apply PStays.foldl | dsimp only
    | refine XStays.get ‹_› ?_ | split

theorem checkGroup_stays {L : List Field} {a s : State} {n1 : _} (h : Stays L a s)
    (hL : Sub [.free, .mem, .hostMem, .err, .dev, .boot, .hst, .time, .pwr, .ras, .sec, .lnk, .memc, .core, .stream,
      .linkCorr, .routes, .region, .part, .bars, .snaps, .kv, .out] L) :
    Stays L a (checkGroup s n1) := by
  unfold checkGroup
  repeat' with_reducible first
    | assumption | (intro) | apply markGroup_stays | apply stageMember_stays | apply stagedState_stays | apply Stays.ite
    | dsimp only | refine XStays.get ‹_› ?_ | split | exact hL.of rfl

theorem mergeGens_stays {L : List Field} {a s s1 : State} (h : Stays L a s) (h1 : Stays L a s1)
    (hL : Sub [.mem, .hostMem, .err, .hst, .ras, .region] L) :
    Stays L a (mergeGens s s1) := by
  unfold mergeGens
  repeat' with_reducible first
    | assumption | (intro) | apply writeMirror_stays | apply modRegion_stays | apply Stays.ite | apply Stays.foldl
    | exact hL.of rfl

theorem scarLoad_stays {L : List Field} {a s : State} {n1 n2 n3 : _} (h : Stays L a s)
    (hL : Sub [.free, .mem, .hostMem, .hst, .ras] L) :
    Stays L a (scarLoad s n1 n2 n3) := by
  unfold scarLoad
  repeat' with_reducible first
    | assumption | (intro) | apply reportDesc_stays | apply freeSram_stays | apply Stays.foldl | apply PStays.foldl | split
    | exact hL.of rfl

theorem commitGroup_stays {L : List Field} {a s : State} {n1 : _} (h : Stays L a s)
    (hL : Sub [.free, .mem, .hostMem, .err, .dev, .boot, .hst, .time, .pwr, .ras, .sec, .lnk, .memc, .core, .stream,
      .linkCorr, .routes, .region, .part, .bars, .snaps, .kv, .out] L) :
    Stays L a (commitGroup s n1) := by
  unfold commitGroup
  repeat' with_reducible first
    | assumption | (intro) | apply foldMembers_stays | apply abortGroup_stays | apply scarLoad_stays | apply mergeGens_stays
    | apply modChan_stays | dsimp only | refine XStays.get ‹_› ?_ | split | exact hL.of rfl

theorem meetNeed_stays {L : List Field} {a s : State} {n1 n2 n3 n4 : _} (h : Stays L a s) (hL : Sub [.hst, .pwr, .region] L) :
    Stays L a (meetNeed s n1 n2 n3 n4) := by
  unfold meetNeed
  repeat' with_reducible first
    | assumption | (intro) | apply abortGroup_stays | apply modChan_stays | apply requestRegion_stays
    | apply requestMode_stays | apply answerGroup_stays | apply Stays.ite | apply Stays.foldl | apply PStays.foldl
    | dsimp only | refine MStays.get_now ‹_› ?_ | refine MStays.get_admission ‹_› ?_ | split | exact hL.of rfl

theorem endGroup_stays {L : List Field} {a s : State} {n1 : _} (h : Stays L a s)
    (hL : Sub [.free, .mem, .hostMem, .err, .dev, .boot, .hst, .time, .pwr, .ras, .sec, .lnk, .memc, .core, .stream,
      .linkCorr, .routes, .region, .part, .bars, .snaps, .kv, .out] L) :
    Stays L a (endGroup s n1) := by
  unfold endGroup
  repeat' with_reducible first
    | assumption | (intro) | apply abortGroup_stays | apply foldMembers_stays | apply scarLoad_stays | apply meetNeed_stays
    | apply commitGroup_stays | apply Stays.ite | refine XStays.get ‹_› ?_ | split | exact hL.of rfl

theorem beginEnd_stays {L : List Field} {a s : State} {n1 : _} (h : Stays L a s)
    (hL : Sub [.free, .mem, .hostMem, .err, .dev, .boot, .hst, .time, .pwr, .ras, .sec, .lnk, .memc, .core, .stream,
      .linkCorr, .routes, .region, .part, .bars, .snaps, .kv, .out] L) :
    Stays L a (beginEnd s n1) := by
  unfold beginEnd
  repeat' with_reducible first
    | assumption | (intro) | apply endGroup_stays | apply modChan_stays | dsimp only | exact hL.of rfl

theorem takeOutcome_stays {L : List Field} {a s : State} {n1 n2 n3 n4 : _} (h : Stays L a s)
    (hL : Sub [.free, .mem, .hostMem, .err, .dev, .boot, .hst, .time, .pwr, .ras, .sec, .lnk, .memc, .core, .stream,
      .linkCorr, .routes, .region, .part, .bars, .snaps, .kv, .out] L) :
    Stays L a (takeOutcome s n1 n2 n3 n4) := by
  unfold takeOutcome
  repeat' with_reducible first
    | assumption | (intro) | apply abortGroup_stays | apply endGroup_stays | apply modChan_stays | dsimp only | split
    | exact hL.of rfl

theorem putDone_stays {L : List Field} {a s : State} {n1 n2 n3 : _} (h : Stays L a s) (hL : Sub [.hst] L) :
    Stays L a (putDone s n1 n2 n3) := by
  unfold putDone
  repeat' with_reducible first | assumption | apply modChan_stays

theorem putReady_stays {L : List Field} {a s : State} {n1 n2 : _} (h : Stays L a s) (hL : Sub [.hst] L) :
    Stays L a (putReady s n1 n2) := by
  unfold putReady
  repeat' with_reducible first | assumption | apply modChan_stays

theorem openGroup_stays {L : List Field} {a s : State} {n1 n2 : _} (h : Stays L a s) (hL : Sub [.hst] L) :
    Stays L a (openGroup s n1 n2) := by
  unfold openGroup
  repeat' with_reducible first
    | assumption | (intro) | apply modChan_stays

theorem afterMember_stays {L : List Field} {a s : State} {n1 n2 : _} (h : Stays L a s)
    (hL : Sub [.free, .mem, .hostMem, .err, .dev, .boot, .hst, .time, .pwr, .ras, .sec, .lnk, .memc, .core, .stream,
      .linkCorr, .routes, .region, .part, .bars, .snaps, .kv, .out] L) :
    Stays L a (afterMember s n1 n2) := by
  unfold afterMember
  repeat' with_reducible first
    | assumption | (intro) | apply checkGroup_stays | apply beginEnd_stays | apply Stays.ite

theorem arriveAlone_stays {L : List Field} {a s : State} {n1 n2 : _} (h : Stays L a s)
    (hL : Sub [.free, .mem, .hostMem, .err, .dev, .boot, .hst, .time, .pwr, .ras, .sec, .lnk, .memc, .core, .stream,
      .linkCorr, .routes, .region, .part, .bars, .snaps, .kv, .out] L) :
    Stays L a (arriveAlone s n1 n2) := by
  unfold arriveAlone
  repeat' with_reducible first
    | assumption | apply afterMember_stays | apply openGroup_stays | apply putDone_stays | apply putReady_stays | split
    | exact hL.of rfl

theorem arriveInGroup_stays {L : List Field} {a s : State} {n1 n2 n3 : _} (h : Stays L a s)
    (hL : Sub [.free, .mem, .hostMem, .err, .dev, .boot, .hst, .time, .pwr, .ras, .sec, .lnk, .memc, .core, .stream,
      .linkCorr, .routes, .region, .part, .bars, .snaps, .kv, .out] L) :
    Stays L a (arriveInGroup s n1 n2 n3) := by
  unfold arriveInGroup
  repeat' with_reducible first
    | assumption | apply addMember_stays | apply abortGroup_stays | apply afterMember_stays | apply Stays.ite
    | exact hL.of rfl

theorem arriveWrong_stays {L : List Field} {a s : State} {n1 n2 : _} (h : Stays L a s) (hL : Sub [.hst] L) :
    Stays L a (arriveWrong s n1 n2) := by
  unfold arriveWrong
  repeat' with_reducible first
    | assumption | (intro) | apply abortGroup_stays | apply joinFetched_stays | apply modChan_stays | apply putDone_stays
    | apply Stays.ite | dsimp only | split

theorem failArriving_stays {L : List Field} {a s : State} {n1 n2 : _} (h : Stays L a s)
    (hL : Sub [.free, .mem, .hostMem, .err, .dev, .boot, .hst, .time, .pwr, .ras, .sec, .lnk, .memc, .core, .stream,
      .linkCorr, .routes, .region, .part, .bars, .snaps, .kv, .out] L) :
    Stays L a (failArriving s n1 n2) := by
  unfold failArriving
  repeat' with_reducible first
    | assumption | (intro) | apply setChan_stays | apply openGroup_stays | apply addMember_stays | apply markGroup_stays
    | apply beginEnd_stays | apply Stays.ite | dsimp only | split | exact hL.of rfl

theorem readFailure_stays {L : List Field} {a s : State} {n0 n1 : _} (h : Stays L a s)
    (hL : Sub [.free, .mem, .hostMem, .err, .dev, .boot, .hst, .time, .pwr, .ras, .sec, .lnk, .memc, .core, .stream,
      .linkCorr, .routes, .region, .part, .bars, .snaps, .kv, .out] L) :
    Stays L a (readFailure n0 n1 s) := by
  unfold readFailure
  repeat' with_reducible first
    | assumption | (intro) | apply noteTimeout_stays | apply failArriving_stays | apply hostReadFails_stays
    | apply Stays.ite | dsimp only | split | exact hL.of rfl

theorem continueLoad_stays {L : List Field} {a s : State} {n0 n2 : _} (h : Stays L a s)
    (hL : Sub [.free, .mem, .hostMem, .err, .hst, .ras, .lnk, .memc, .core, .stream, .linkCorr, .routes, .region, .part,
      .bars, .snaps] L) :
    Stays L a (continueLoad n0 s n2) := by
  unfold continueLoad
  repeat' with_reducible first
    | assumption | (intro) | apply putEff_stays | apply finishLoad_stays | refine EStays.get_ok ‹_› ?_
    | refine EStays.get_fail ‹_› ?_ | refine EStays.get_run ‹_› ?_ | exact hL.of rfl

-- Startup

theorem holdReset_stays {L : List Field} {a s : State} {n1 n2 n3 n4 : _} (h : Stays L a s)
    (hL : Sub [.hostMem, .pins, .dev, .boot, .hst, .clk, .ras] L) :
    Stays L a (holdReset s n1 n2 n3 n4) := by
  unfold holdReset
  repeat' with_reducible first
    | assumption | (intro) | apply report_stays | apply stopClock_stays | apply setDevState_stays | apply Stays.ite
    | apply Stays.foldl | exact hL.of rfl | refine Stays.record ?_ hL

theorem toStage_stays {L : List Field} {a s : State} {n1 : _} (h : Stays L a s) (hL : Sub [.boot] L) :
    Stays L a (toStage s n1) := by
  unfold toStage
  repeat' with_reducible first | assumption | exact hL.of rfl | refine Stays.record ?_ hL

theorem mailboxWait_stays {L : List Field} {a s : State} (h : Stays L a s) (hL : Sub [.boot] L) :
    Stays L a (mailboxWait s) := by
  unfold mailboxWait
  repeat' with_reducible first | assumption | (intro) | exact hL.of rfl | refine Stays.record ?_ hL

theorem startKindling_stays {L : List Field} {a s : State} (h : Stays L a s) (hL : Sub [.boot] L) :
    Stays L a (startKindling s) := by
  unfold startKindling
  repeat' with_reducible first
    | assumption | apply toStage_stays | apply mailboxWait_stays | apply Stays.ite

theorem pllsLocked_stays {L : List Field} {a s : State} (h : Stays L a s) (hL : Sub [.pins, .clk, .time] L) :
    Stays L a (pllsLocked s) := by
  unfold pllsLocked
  repeat' with_reducible first | assumption | apply setRef_stays | exact hL.of rfl | refine Stays.record ?_ hL

theorem bundleFails_stays {L : List Field} {a s : State} {n1 : _} (h : Stays L a s)
    (hL : Sub [.hostMem, .pins, .dev, .boot, .hst, .clk, .ras] L) :
    Stays L a (bundleFails s n1) := by
  unfold bundleFails
  repeat' with_reducible first
    | assumption | apply setDevState_stays | apply toStage_stays | apply mailboxWait_stays | apply holdReset_stays
    | apply Stays.ite | exact hL.of rfl | refine Stays.record ?_ hL

theorem applyBoard_stays {L : List Field} {a s : State} (h : Stays L a s) (hL : Sub [.boot, .lnk] L) :
    Stays L a (applyBoard s) := by
  unfold applyBoard
  repeat' with_reducible first
    | assumption | (intro) | apply modPort_stays | apply Stays.foldl | exact hL.of rfl | refine Stays.record ?_ hL

theorem takeMeasures_stays {L : List Field} {a s : State} {n1 : _} (h : Stays L a s) (hL : Sub [.boot] L) :
    Stays L a (takeMeasures s n1) := by
  unfold takeMeasures
  repeat' with_reducible first | assumption | exact hL.of rfl | refine Stays.record ?_ hL

theorem hearthRuns_stays {L : List Field} {a s : State} (h : Stays L a s)
    (hL : Sub [.hostMem, .dev, .boot, .hst, .ras, .lnk] L) :
    Stays L a (hearthRuns s) := by
  unfold hearthRuns
  repeat' with_reducible first
    | assumption | apply applyBoard_stays | apply takeMeasures_stays | apply setDevState_stays | apply toStage_stays
    | exact hL.of rfl | refine Stays.record ?_ hL

theorem kindle_stays {L : List Field} {a s : State} (h : Stays L a s)
    (hL : Sub [.hostMem, .pins, .dev, .boot, .hst, .clk, .ras, .lnk] L) :
    Stays L a (kindle s) := by
  unfold kindle
  repeat' with_reducible first
    | assumption | apply hearthRuns_stays | apply bundleFails_stays | apply Stays.ite | exact hL.of rfl
    | refine Stays.record ?_ hL

theorem securityRuns_stays {L : List Field} {a s : State} (h : Stays L a s) (hL : Sub [.hostMem, .hst, .ras, .sec] L) :
    Stays L a (securityRuns s) := by
  unfold securityRuns
  repeat' with_reducible first
    | assumption | (intro) | apply reportContained_stays | apply Stays.ite | apply Stays.foldl | apply PStays.foldl
    | dsimp only | exact hL.of rfl | refine Stays.record ?_ hL

theorem crossCheck_stays {L : List Field} {a s : State} {n0 : _} (h : Stays L a s)
    (hL : Sub [.hostMem, .pins, .dev, .boot, .hst, .clk, .thm, .ras] L) :
    Stays L a (crossCheck n0 s) := by
  unfold crossCheck
  repeat' with_reducible first
    | assumption | (intro) | apply holdReset_stays | apply toStage_stays | dsimp only | split | exact hL.of rfl
    | refine Stays.record ?_ hL

theorem excludeLanes_stays {L : List Field} {a s : State} {n0 : _} (h : Stays L a s) (hL : Sub [.lnk] L) :
    Stays L a (excludeLanes n0 s) := by
  unfold excludeLanes
  repeat' with_reducible first
    | assumption | (intro) | apply modPort_stays | apply Stays.foldl

theorem railsUp_stays {L : List Field} {a s : State} {n1 n2 n3 n4 : _} (h : Stays L a s)
    (hL : Sub [.hostMem, .boot, .hst, .clk, .pwr, .ras] L) :
    Stays L a (railsUp s n1 n2 n3 n4) := by
  unfold railsUp
  repeat' with_reducible first
    | assumption | (intro) | apply phaseRecord_stays | apply modPwr_stays | apply modClk_stays | apply Stays.foldl
    | apply PStays.foldl | dsimp only | exact hL.of rfl | refine Stays.record ?_ hL

theorem startBypass_stays {L : List Field} {a s : State} {n1 : _} (h : Stays L a s)
    (hL : Sub [.hostMem, .hst, .clk, .pwr, .ras] L) :
    Stays L a (startBypass s n1) := by
  unfold startBypass
  repeat' with_reducible first
    | assumption | apply modClk_stays | apply modPwr_stays | apply report_stays | apply stopClock_stays | apply Stays.ite
    | exact hL.of rfl

theorem fillMemory_stays {L : List Field} {a s : State} (h : Stays L a s) (hL : Sub [.mem, .err, .memc] L) :
    Stays L a (fillMemory s) := by
  exact Stays.record h hL (wm := (Mem.wf_clearMem _ _ _))

theorem repairGroup_stays {L : List Field} {a s : State} {n0 n2 : _} (h : Stays L a s) (hL : Sub [.chim] L) :
    Stays L a (repairGroup n0 s n2) := by
  unfold repairGroup
  repeat' with_reducible first | assumption | apply setChim_stays

theorem repairChimneys_stays {L : List Field} {a s : State} (h : Stays L a s) (hL : Sub [.chim] L) :
    Stays L a (repairChimneys s) := by
  unfold repairChimneys
  repeat' with_reducible first
    | assumption | (intro) | apply repairGroup_stays | apply Stays.foldl | exact hL.of rfl | refine Stays.record ?_ hL

theorem holdQuarantined_stays {L : List Field} {a s : State} (h : Stays L a s) (hL : Sub [.core] L) :
    Stays L a (holdQuarantined s) := by
  unfold holdQuarantined
  repeat' with_reducible first | assumption | (intro) | apply modCore_stays | apply Stays.foldl

theorem applyAgeing_stays {L : List Field} {a s : State} (h : Stays L a s) (hL : Sub [.clk] L) :
    Stays L a (applyAgeing s) := by
  unfold applyAgeing
  repeat' with_reducible first | assumption | (intro) | apply modClk_stays | apply Stays.foldl

theorem trainPorts_stays {L : List Field} {a s : State} (h : Stays L a s)
    (hL : Sub [.hostMem, .hst, .time, .ras, .lnk, .stream] L) :
    Stays L a (trainPorts s) := by
  unfold trainPorts
  repeat' with_reducible first
    | assumption | (intro) | apply startTraining_stays | apply modPort_stays | apply Stays.ite | apply Stays.foldl
    | exact hL.of rfl

theorem repairSites_stays {L : List Field} {a s : State} (h : Stays L a s) (hL : Sub [.repair] L) :
    Stays L a (repairSites s) := by
  unfold repairSites
  repeat' with_reducible first
    | assumption | (intro) | apply Stays.ite | apply Stays.foldl | apply PStays.foldl | dsimp only | exact hL.of rfl
    | refine Stays.record ?_ hL

theorem storeUcode_stays {L : List Field} {a s : State} (h : Stays L a s) (hL : Sub [.boot] L) :
    Stays L a (storeUcode s) := by
  unfold storeUcode
  repeat' with_reducible first | assumption | (intro) | dsimp only | exact hL.of rfl | refine Stays.record ?_ hL

theorem stepUp_stays {L : List Field} {a s : State} {n1 : _} (h : Stays L a s) (hL : Sub [.clk, .pwr] L) :
    Stays L a (stepUp s n1) := by
  unfold stepUp
  repeat' with_reducible first
    | assumption | (intro) | apply modPwr_stays | apply modClk_stays | apply Stays.ite | dsimp only | exact hL.of rfl
    | refine Stays.record ?_ hL

theorem readyRecords_stays {L : List Field} {a s : State} (h : Stays L a s) (hL : Sub [.hostMem, .hst, .ras] L) :
    Stays L a (readyRecords s) := by
  unfold readyRecords
  repeat' with_reducible first
    | assumption | (intro) | apply reportContained_stays | apply writeSignature_stays | apply Stays.ite | apply Stays.foldl
    | exact hL.of rfl | refine Stays.record ?_ hL

theorem restartMailbox_stays {L : List Field} {a s : State} {n1 : _} (h : Stays L a s) (hL : Sub [.boot] L) :
    Stays L a (restartMailbox s n1) := by
  unfold restartMailbox
  repeat' with_reducible first | assumption | apply mailboxWait_stays | exact hL.of rfl | refine Stays.record ?_ hL

theorem endMailbox_stays {L : List Field} {a s : State} (h : Stays L a s)
    (hL : Sub [.hostMem, .dev, .boot, .hst, .ras, .lnk] L) :
    Stays L a (endMailbox s) := by
  unfold endMailbox
  repeat' with_reducible first
    | assumption | apply hearthRuns_stays | apply restartMailbox_stays | apply Stays.ite | exact hL.of rfl
    | refine Stays.record ?_ hL

theorem takeChunk_stays {L : List Field} {a s : State} {n1 : _} (h : Stays L a s)
    (hL : Sub [.hostMem, .dev, .boot, .hst, .ras, .lnk] L) :
    Stays L a (takeChunk s n1) := by
  unfold takeChunk
  repeat' with_reducible first
    | assumption | apply restartMailbox_stays | apply endMailbox_stays | apply Stays.ite | exact hL.of rfl
    | refine Stays.record ?_ hL

theorem writeMboxCtrl_stays {L : List Field} {a s : State} {n1 : _} (h : Stays L a s)
    (hL : Sub [.hostMem, .dev, .boot, .hst, .ras, .lnk] L) :
    Stays L a (writeMboxCtrl s n1) := by
  unfold writeMboxCtrl
  repeat' with_reducible first
    | assumption | apply takeChunk_stays | apply Stays.ite | exact hL.of rfl | refine Stays.record ?_ hL

-- Resets

theorem pcieDown_stays {L : List Field} {a s : State} (h : Stays L a s) (hL : Sub [.hst] L) : Stays L a (pcieDown s) := by
  unfold pcieDown
  repeat' with_reducible first | assumption | (intro) | exact hL.of rfl | refine Stays.record ?_ hL

theorem wantReset_stays {L : List Field} {a s : State} {n1 : _} (h : Stays L a s) (hL : Sub [.dev] L) :
    Stays L a (wantReset s n1) := by
  unfold wantReset
  repeat' with_reducible first | assumption | exact hL.of rfl | refine Stays.record ?_ hL

theorem endPartitions_stays {L : List Field} {a s : State} (h : Stays L a s)
    (hL : Sub [.free, .mem, .hostMem, .err, .hst, .pwr, .ras, .core, .stream, .routes, .region, .part, .bars, .snaps, .kv]
      L) :
    Stays L a (endPartitions s) := by
  unfold endPartitions
  repeat' with_reducible first
    | assumption | (intro) | apply stopRegions_stays | dsimp only | exact hL.of rfl | refine Stays.record ?_ hL

theorem endChannels_stays {L : List Field} {a s : State} (h : Stays L a s) (hL : Sub [.hst] L) :
    Stays L a (endChannels s) := by
  unfold endChannels
  repeat' with_reducible first | assumption | exact hL.of rfl | refine Stays.record ?_ hL

theorem warmRegs_stays {L : List Field} {a s : State} (h : Stays L a s) (hL : Sub [.pwr, .ras, .lnk, .memc, .weevil] L) :
    Stays L a (warmRegs s) := by
  unfold warmRegs
  repeat' with_reducible first | assumption | (intro) | exact hL.of rfl | refine Stays.record ?_ hL

theorem warmClocks_stays {L : List Field} {a s : State} (h : Stays L a s) (hL : Sub [.boot, .clk, .time] L) :
    Stays L a (warmClocks s) := by
  unfold warmClocks
  repeat' with_reducible first
    | assumption | apply startKindling_stays | apply toStage_stays | split | exact hL.of rfl | refine Stays.record ?_ hL

theorem warmBoot_stays {L : List Field} {a s : State} (h : Stays L a s) (hL : Sub [.boot] L) : Stays L a (warmBoot s) := by
  unfold warmBoot
  repeat' with_reducible first | assumption | (intro) | apply Stays.ite | exact hL.of rfl | refine Stays.record ?_ hL

theorem beginWarmReset_stays {L : List Field} {a s : State} {n1 : _} (h : Stays L a s)
    (hL : Sub [.free, .mem, .hostMem, .err, .pins, .dev, .boot, .hst, .clk, .time, .pwr, .ras, .sec, .lnk, .memc, .weevil,
      .core, .stream, .linkCorr, .routes, .region, .part, .bars, .snaps, .kv] L) :
    Stays L a (beginWarmReset s n1) := by
  unfold beginWarmReset
  repeat' with_reducible first
    | assumption | (intro) | apply modClk_stays | apply stopClock_stays | apply warmRegs_stays | apply portsDown_stays
    | apply endChannels_stays | apply endPartitions_stays | apply warmClocks_stays | apply setDevState_stays
    | apply warmBoot_stays | apply Stays.foldl | apply PStays.foldl | dsimp only | exact hL.of rfl
    | refine Stays.record ?_ hL

theorem badStatusRecord_stays {L : List Field} {a s : State} (h : Stays L a s) (hL : Sub [.hostMem, .hst, .ras] L) :
    Stays L a (badStatusRecord s) := by
  unfold badStatusRecord
  repeat' with_reducible first | assumption | apply report_stays

theorem undefinedStatus_stays {L : List Field} {a s : State} (h : Stays L a s)
    (hL : Sub [.free, .mem, .hostMem, .err, .pins, .dev, .boot, .hst, .clk, .time, .pwr, .ras, .sec, .lnk, .memc, .weevil,
      .core, .stream, .linkCorr, .routes, .region, .part, .bars, .snaps, .kv] L) :
    Stays L a (undefinedStatus s) := by
  unfold undefinedStatus
  repeat' with_reducible first
    | assumption | (intro) | apply badStatusRecord_stays | apply beginWarmReset_stays | apply wantReset_stays
    | apply Stays.ite | dsimp only | exact hL.of rfl

theorem stopFirmware_stays {L : List Field} {a s : State} (h : Stays L a s) (hL : Sub [.dev] L) :
    Stays L a (stopFirmware s) := by
  unfold stopFirmware
  repeat' with_reducible first | assumption | (intro) | exact hL.of rfl | refine Stays.record ?_ hL

-- Thermal

theorem heatBalance_stays {L : List Field} {a s : State} {n1 n2 : _} (h : Stays L a s)
    (hL : Sub [.hostMem, .hst, .thm, .ras] L) :
    Stays L a (heatBalance s n1 n2) := by
  unfold heatBalance
  repeat' with_reducible first
    | assumption | apply report_stays | apply Stays.ite | exact hL.of rfl | refine Stays.record ?_ hL

theorem coolantRangeCheck_stays {L : List Field} {a s : State} {n1 : _} (h : Stays L a s)
    (hL : Sub [.hostMem, .hst, .thm, .ras] L) :
    Stays L a (coolantRangeCheck s n1) := by
  unfold coolantRangeCheck
  repeat' with_reducible first
    | assumption | apply reportContained_stays | apply Stays.ite | exact hL.of rfl | refine Stays.record ?_ hL

theorem shortenInterval_stays {L : List Field} {a s : State} {n1 : _} (h : Stays L a s) (hL : Sub [.memc] L) :
    Stays L a (shortenInterval s n1) := by
  unfold shortenInterval
  repeat' with_reducible first | assumption | apply Stays.ite | exact hL.of rfl | refine Stays.record ?_ hL

theorem suspectLayer_stays {L : List Field} {a s : State} {n1 : _} (h : Stays L a s)
    (hL : Sub [.hostMem, .hst, .thm, .ras] L) :
    Stays L a (suspectLayer s n1) := by
  unfold suspectLayer
  repeat' with_reducible first | assumption | apply report_stays | apply modLayer_stays | apply Stays.ite | exact hL.of rfl

theorem rotationRequests_stays {L : List Field} {a s : State} {n1 : _} (h : Stays L a s) (hL : Sub [.part] L) :
    Stays L a (rotationRequests s n1) := by
  unfold rotationRequests
  repeat' with_reducible first | assumption | exact hL.of rfl | refine Stays.record ?_ hL

theorem lowerLimit_stays {L : List Field} {a s : State} {n1 : _} (h : Stays L a s) (hL : Sub [.pwr] L) :
    Stays L a (lowerLimit s n1) := by
  unfold lowerLimit
  repeat' with_reducible first | assumption | apply modPwr_stays

theorem raiseLimit_stays {L : List Field} {a s : State} {n1 : _} (h : Stays L a s) (hL : Sub [.clk, .pwr] L) :
    Stays L a (raiseLimit s n1) := by
  unfold raiseLimit
  repeat' with_reducible first | assumption | apply modPwr_stays | apply modClk_stays | exact hL.of rfl

theorem slowerStep_stays {L : List Field} {a s : State} {n1 : _} (h : Stays L a s) (hL : Sub [.clk] L) :
    Stays L a (slowerStep s n1) := by
  unfold slowerStep
  repeat' with_reducible first
    | assumption | (intro) | apply modClk_stays | apply requestStep_stays | apply Stays.ite | dsimp only | split

theorem slowestStep_stays {L : List Field} {a s : State} {n1 : _} (h : Stays L a s) (hL : Sub [.clk, .pwr] L) :
    Stays L a (slowestStep s n1) := by
  unfold slowestStep
  repeat' with_reducible first | assumption | apply modPwr_stays | apply modClk_stays | exact hL.of rfl

theorem thermalSafe_stays {L : List Field} {a s : State} (h : Stays L a s)
    (hL : Sub [.free, .mem, .hostMem, .err, .pins, .dev, .hst, .clk, .time, .pwr, .ras, .lnk, .weevil, .core, .stream,
      .linkCorr, .routes, .region, .part, .bars, .snaps] L) :
    Stays L a (thermalSafe s) := by
  unfold thermalSafe
  repeat' with_reducible first | assumption | (intro) | apply enterSafe_stays | apply Stays.ite

theorem thermalTier_stays {L : List Field} {a s : State} {n1 : _} (h : Stays L a s) (hL : Sub [.clk, .pwr] L) :
    Stays L a (thermalTier s n1) := by
  unfold thermalTier
  repeat' with_reducible first
    | assumption | (intro) | apply lowerLimit_stays | apply raiseLimit_stays | apply slowerStep_stays
    | apply slowestStep_stays | apply Stays.ite | dsimp only | exact hL.of rfl

theorem modAge_stays {L : List Field} {a s : State} {n1 n2 : _} (h : Stays L a s) (hL : Sub [.thm] L) :
    Stays L a (modAge s n1 n2) := by
  unfold modAge
  repeat' with_reducible first | assumption | exact hL.of rfl | refine Stays.record ?_ hL

theorem loseStep_stays {L : List Field} {a s : State} {n1 n2 : _} (h : Stays L a s)
    (hL : Sub [.hostMem, .hst, .clk, .thm, .ras] L) :
    Stays L a (loseStep s n1 n2) := by
  unfold loseStep
  repeat' with_reducible first | assumption | apply modAge_stays | apply modClk_stays | apply report_stays | exact hL.of rfl

theorem refitStep_stays {L : List Field} {a s : State} {n0 n1 n3 : _} (h : Stays L a s)
    (hL : Sub [.hostMem, .hst, .clk, .thm, .ras] L) :
    Stays L a (refitStep n0 n1 s n3) := by
  unfold refitStep
  repeat' with_reducible first | assumption | apply modAge_stays | apply loseStep_stays | split | exact hL.of rfl

theorem ringRecord_stays {L : List Field} {a s : State} {n0 n1 n3 : _} (h : Stays L a s) (hL : Sub [.hostMem, .hst, .ras] L) :
    Stays L a (ringRecord n0 n1 s n3) := by
  unfold ringRecord
  repeat' with_reducible first | assumption | (intro) | apply report_stays | apply Stays.ite

-- TierMem

theorem writeWord_stays {L : List Field} {a s : State} {n1 : _} (h : Stays L a s) (hL : Sub [.mem, .err] L) :
    Stays L a (writeWord s n1) := by
  have k := clearDramMarks_stays (n1 := n1) (n2 := n1 + 1) (absorb_stays (n1 := wordPage n1) (n2 := n1) (n3 := n1 + 1) h (hL.of rfl)) (hL.of rfl)
  unfold writeWord; dsimp only; split
  · exact k
  · exact Stays.record k hL (wm := fun w => Mem.wf_wrLine _ _ _ w)

theorem writeBack_stays {L : List Field} {a s : State} {n1 n2 : _} (h : Stays L a s) (hL : Sub [.mem, .err, .memc] L) :
    Stays L a (writeBack s n1 n2) := by
  unfold writeBack
  repeat' with_reducible first
    | assumption | (intro) | apply writeWord_stays | apply countCe_stays | apply Stays.foldl | apply PStays.foldl
    | dsimp only | exact hL.of rfl

theorem scrubFails_stays {L : List Field} {a s : State} {n1 n2 n3 : _} (h : Stays L a s)
    (hL : Sub [.hostMem, .hst, .ras, .memc, .region] L) :
    Stays L a (scrubFails s n1 n2 n3) := by
  unfold scrubFails
  repeat' with_reducible first
    | assumption | (intro) | apply countUe_stays | apply report_stays | apply setRegion_stays | apply Stays.ite | dsimp only
    | exact hL.of rfl

theorem scrubDram_stays {L : List Field} {a s : State} {n1 n2 : _} (h : Stays L a s)
    (hL : Sub [.mem, .hostMem, .err, .hst, .ras, .memc, .region] L) :
    Stays L a (scrubDram s n1 n2) := by
  unfold scrubDram
  repeat' with_reducible first
    | assumption
    | exact Stays.record (parityFresh_stays (clearDramMarks_stays (writeBack_stays (countCe_stays h (hL.of rfl)) (hL.of rfl)) (hL.of rfl)) (hL.of rfl)) hL (wm := Mem.wf_wrLine _ _ _)
    | (intro) | apply setStale_stays | apply parityFresh_stays | apply writeBack_stays | apply countCe_stays
    | apply clearDramMarks_stays | apply report_stays | apply scrubFails_stays | apply Stays.ite | apply PStays.fst
    | dsimp only | split | exact hL.of rfl

theorem scrubClean_stays {L : List Field} {a s : State} {n1 n2 : _} (h : Stays L a s) (hL : Sub [.region] L) :
    Stays L a (scrubClean s n1 n2) := by
  unfold scrubClean
  repeat' with_reducible first | assumption | apply modRegion_stays

theorem endDeviceLap_stays {L : List Field} {a s : State} (h : Stays L a s) (hL : Sub [.memc, .region] L) :
    Stays L a (endDeviceLap s) := by
  unfold endDeviceLap
  repeat' with_reducible first
    | assumption | (intro) | apply Stays.ite | dsimp only | exact hL.of rfl | refine Stays.record ?_ hL

theorem endRegionLap_stays {L : List Field} {a s : State} {n1 : _} (h : Stays L a s) (hL : Sub [.memc, .region] L) :
    Stays L a (endRegionLap s n1) := by
  unfold endRegionLap
  repeat' with_reducible first
    | assumption | (intro) | apply endDeviceLap_stays | apply setRegion_stays | apply Stays.ite | apply PStays.fst
    | dsimp only | exact hL.of rfl

theorem logLines_stays {L : List Field} {a s : State} {n1 n2 n3 : _} (h : Stays L a s) (hL : Sub [.ras] L) :
    Stays L a (logLines s n1 n2 n3) := by
  unfold logLines
  repeat' with_reducible first
    | assumption | (intro) | apply keepStored_stays | dsimp only | exact hL.of rfl | refine Stays.record ?_ hL

theorem logDisabled_stays {L : List Field} {a s : State} {n1 n2 : _} (h : Stays L a s) (hL : Sub [.ras] L) :
    Stays L a (logDisabled s n1 n2) := by
  unfold logDisabled
  repeat' with_reducible first
    | assumption | (intro) | apply keepStored_stays | dsimp only | exact hL.of rfl | refine Stays.record ?_ hL

theorem disableGroup_stays {L : List Field} {a s : State} {n1 n2 n3 : _} (h : Stays L a s)
    (hL : Sub [.hostMem, .dev, .hst, .ras, .chim] L) :
    Stays L a (disableGroup s n1 n2 n3) := by
  unfold disableGroup
  repeat' with_reducible first
    | assumption | (intro) | apply setChim_stays | apply logDisabled_stays | apply checkDegraded_stays | apply report_stays
    | dsimp only | exact hL.of rfl

theorem endChimneyOps_stays {L : List Field} {a s : State} {n1 : _} (h : Stays L a s)
    (hL : Sub [.hostMem, .hst, .ras, .core] L) :
    Stays L a (endChimneyOps s n1) := by
  unfold endChimneyOps
  repeat' with_reducible first
    | assumption | (intro) | apply report_stays | apply modCore_stays | apply Stays.foldl | apply PStays.foldl | dsimp only
    | exact hL.of rfl

theorem failChimney_stays {L : List Field} {a s : State} {n1 n2 n3 : _} (h : Stays L a s)
    (hL : Sub [.hostMem, .dev, .hst, .ras, .lnk, .core, .stream, .linkCorr, .routes, .chim, .part, .bars, .snaps] L) :
    Stays L a (failChimney s n1 n2 n3) := by
  unfold failChimney
  repeat' with_reducible first
    | assumption | (intro) | apply setChim_stays | apply logDisabled_stays | apply quarantineCore_stays
    | apply endChimneyOps_stays | dsimp only | exact hL.of rfl

-- Registers

theorem writeHst_stays {L : List Field} {a s : State} {n1 n2 : _} (h : Stays L a s) (hL : Sub [.hostMem, .hst, .ras] L) :
    Stays L a (writeHst s n1 n2) := by
  unfold writeHst
  repeat' with_reducible first
    | assumption | (intro) | apply setScanEn_stays | apply clearScanEn_stays | apply Stays.ite | dsimp only | split
    | exact hL.of rfl | refine Stays.record ?_ hL

theorem writeClk_stays {L : List Field} {a s : State} {n1 n2 : _} (h : Stays L a s) (hL : Sub [.clk] L) :
    Stays L a (writeClk s n1 n2) := by
  unfold writeClk
  repeat' with_reducible first
    | assumption | apply requestSwitch_stays | apply writeStepCap_stays | split | exact hL.of rfl
    | refine Stays.record ?_ hL

theorem writePwr_stays {L : List Field} {a s : State} {n1 n2 : _} (h : Stays L a s) (hL : Sub [.pwr] L) :
    Stays L a (writePwr s n1 n2) := by
  unfold writePwr
  repeat' with_reducible first | assumption | split | exact hL.of rfl | refine Stays.record ?_ hL

theorem writeThm_stays {L : List Field} {a s : State} {n1 n2 : _} (h : Stays L a s) (hL : Sub [.thm] L) :
    Stays L a (writeThm s n1 n2) := by
  unfold writeThm
  repeat' with_reducible first | assumption | split | exact hL.of rfl | refine Stays.record ?_ hL

theorem writeRas_stays {L : List Field} {a s : State} {n1 n2 : _} (h : Stays L a s) (hL : Sub [.hostMem, .ras, .weevil] L) :
    Stays L a (writeRas s n1 n2) := by
  unfold writeRas
  repeat' with_reducible first
    | assumption | apply writeLogCfg_stays | apply writeSigCfg_stays | apply writeWeevil_stays | split | exact hL.of rfl
    | refine Stays.record ?_ hL

theorem writeLnk_stays {L : List Field} {a s : State} {n1 n2 : _} (h : Stays L a s)
    (hL : Sub [.hostMem, .hst, .time, .pwr, .ras, .lnk, .core, .stream, .linkCorr, .routes, .part, .bars, .snaps] L) :
    Stays L a (writeLnk s n1 n2) := by
  unfold writeLnk
  repeat' with_reducible first
    | assumption | apply writeIdentity_stays | apply writeRetrain_stays | apply afterPort_stays | split | exact hL.of rfl
    | refine Stays.record ?_ hL

theorem writeMem_stays {L : List Field} {a s : State} {n1 n2 : _} (h : Stays L a s) (hL : Sub [.memc] L) :
    Stays L a (writeMem s n1 n2) := by
  unfold writeMem
  repeat' with_reducible first | assumption | split | exact hL.of rfl | refine Stays.record ?_ hL

theorem writeTime_stays {L : List Field} {a s : State} {n1 n2 : _} (h : Stays L a s) (hL : Sub [.time] L) :
    Stays L a (writeTime s n1 n2) := by
  unfold writeTime
  repeat' with_reducible first
    | assumption | apply adjSlew_stays | apply adjStep_stays | split | exact hL.of rfl | refine Stays.record ?_ hL

theorem writeReg_stays {L : List Field} {a s : State} {n1 n2 : _} (h : Stays L a s)
    (hL : Sub [.hostMem, .dev, .boot, .hst, .clk, .time, .pwr, .thm, .ras, .lnk, .memc, .weevil, .core, .stream,
      .linkCorr, .routes, .part, .bars, .snaps] L) :
    Stays L a (writeReg s n1 n2) := by
  unfold writeReg
  repeat' with_reducible first
    | assumption | (intro) | apply writeHst_stays | apply writeClk_stays | apply writePwr_stays | apply writeThm_stays
    | apply writeRas_stays | apply writeLnk_stays | apply writeMem_stays | apply writeMboxCtrl_stays | apply writeTime_stays
    | apply Stays.ite | dsimp only | split | exact hL.of rfl | refine Stays.record ?_ hL

theorem writeMboxWindow_stays {L : List Field} {a s : State} {n1 n2 : _} (h : Stays L a s) (hL : Sub [.boot] L) :
    Stays L a (writeMboxWindow s n1 n2) := by
  unfold writeMboxWindow
  repeat' with_reducible first | assumption | apply Stays.ite | exact hL.of rfl | refine Stays.record ?_ hL

theorem writeBar0_stays {L : List Field} {a s : State} {n1 n2 : _} (h : Stays L a s)
    (hL : Sub [.hostMem, .dev, .boot, .hst, .clk, .time, .pwr, .thm, .ras, .lnk, .memc, .weevil, .core, .stream,
      .linkCorr, .routes, .part, .bars, .snaps] L) :
    Stays L a (writeBar0 s n1 n2) := by
  unfold writeBar0
  repeat' with_reducible first
    | assumption | (intro) | apply writeReg_stays | apply writeMboxWindow_stays | apply Stays.ite | apply Stays.foldl
    | apply PStays.foldl | apply PStays.fst | dsimp only | exact hL.of rfl

-- Tap

theorem loadTap_stays {L : List Field} {a s : State} {n1 n2 n3 : _} (h : Stays L a s) (hL : Sub [.tap] L) :
    Stays L a (loadTap s n1 n2 n3) := by
  unfold loadTap
  repeat' with_reducible first | assumption | (intro) | exact hL.of rfl | refine Stays.record ?_ hL

theorem loadBypass_stays {L : List Field} {a s : State} (h : Stays L a s) (hL : Sub [.tap] L) :
    Stays L a (loadBypass s) := by
  unfold loadBypass
  repeat' with_reducible first | assumption | apply loadTap_stays

theorem loadHeld_stays {L : List Field} {a s s1 : State} (h : Stays L a s) (h1 : Stays L a s1) (hL : Sub [.tap] L) :
    Stays L a (loadHeld s s1) := by
  unfold loadHeld
  repeat' with_reducible first | assumption | apply loadBypass_stays | apply Stays.ite

theorem tapRow_stays {L : List Field} {a s s1 : State} (h : Stays L a s) (h1 : Stays L a s1) :
    RStays L a (tapRow s s1) := by
  unfold tapRow
  repeat' with_reducible first | assumption | apply RStays.next | apply Stays.ite

theorem loadExtest_stays {L : List Field} {a s : State} (h : Stays L a s) (hL : Sub [.free, .tap] L) :
    Stays L a (loadExtest s) := by
  unfold loadExtest
  repeat' with_reducible first
    | assumption | (intro) | apply loadTap_stays | apply draw_stays | dsimp only | exact hL.of rfl
    | refine Stays.record ?_ hL

-- Tick

theorem tickTiers_stays {L : List Field} {a s : State} {n1 : _} (h : Stays L a s) (hL : Sub [.clk] L) :
    Stays L a (tickTiers s n1) := by
  induction n1 generalizing s with
  | nil =>
    rw [tickTiers]
    repeat' with_reducible first
        | assumption
  | cons x t ih =>
    rw [tickTiers]
    repeat' with_reducible first
        | assumption | apply ih | (intro) | apply modClk_stays

theorem tick_stays {L : List Field} {a s : State} (h : Stays L a s) (hL : Sub [.clk, .time] L) : Stays L a (tick s) := by
  unfold tick
  repeat' with_reducible first
    | assumption | (intro) | apply tickTiers_stays | apply Stays.ite | dsimp only | exact hL.of rfl
    | refine Stays.record ?_ hL

end Sys2Proof.Machine
end

