-- ==== Sys2Proof/Laws/StaysRows.lean ====
section
/-! SUPPORT. The frame of the meaning of every row (Laws/Stays.lean): which fields of State the row may change. -/

set_option Elab.async false

namespace Sys2Proof.Machine

-- Clocks

theorem execReferenceLoss_stays {L : List Field} {a s : State} {n0 : _} (h : Stays L a s)
    (hL : Sub [.hostMem, .hst, .clk, .ras] L) :
    RStays L a (execReferenceLoss n0 s) := by
  unfold execReferenceLoss
  repeat' with_reducible first
    | assumption | (intro) | apply setRef_stays | apply loseActive_stays | apply RStays.next | apply RStays.fault
    | apply RStays.ite | apply Stays.ite | dsimp only | split | exact hL.of rfl

theorem execReferenceReady_stays {L : List Field} {a s : State} {n0 : _} (h : Stays L a s) (hL : Sub [.clk] L) :
    RStays L a (execReferenceReady n0 s) := by
  unfold execReferenceReady
  repeat' with_reducible first
    | assumption | (intro) | apply setRef_stays | apply startSwitch_stays | apply RStays.next | apply RStays.fault
    | apply RStays.ite | apply Stays.ite | dsimp only | split

theorem execReferenceSwitchRequest_stays {L : List Field} {a s : State} {n0 : _} (h : Stays L a s) (hL : Sub [.clk] L) :
    RStays L a (execReferenceSwitchRequest n0 s) := by
  unfold execReferenceSwitchRequest
  repeat' with_reducible first | assumption | apply requestSwitch_stays | apply RStays.next

theorem execReferenceSwitchComplete_stays {L : List Field} {a s : State} (h : Stays L a s)
    (hL : Sub [.hostMem, .hst, .clk, .ras] L) :
    RStays L a (execReferenceSwitchComplete s) := by
  unfold execReferenceSwitchComplete
  repeat' with_reducible first
    | assumption | apply holdOver_stays | apply RStays.next | split | exact hL.of rfl | refine Stays.record ?_ hL

theorem execHoldoverExpiry_stays {L : List Field} {a s : State} (h : Stays L a s)
    (hL : Sub [.free, .mem, .hostMem, .err, .pins, .dev, .hst, .clk, .time, .pwr, .ras, .lnk, .weevil, .core, .stream,
      .linkCorr, .routes, .region, .part, .bars, .snaps] L) :
    RStays L a (execHoldoverExpiry s) := by
  unfold execHoldoverExpiry
  repeat' with_reducible first
    | assumption | (intro) | apply clockSafe_stays | apply RStays.next | apply RStays.fault | apply RStays.ite

theorem execTimebaseLockLoss_stays {L : List Field} {a s : State} (h : Stays L a s)
    (hL : Sub [.free, .mem, .hostMem, .err, .pins, .dev, .hst, .clk, .time, .pwr, .ras, .lnk, .weevil, .core, .stream,
      .linkCorr, .routes, .region, .part, .bars, .snaps] L) :
    RStays L a (execTimebaseLockLoss s) := by
  unfold execTimebaseLockLoss
  repeat' with_reducible first
    | assumption | (intro) | apply clockSafe_stays | apply RStays.next | apply RStays.fault | apply RStays.ite
    | apply Stays.ite | dsimp only | exact hL.of rfl | refine Stays.record ?_ hL

theorem execFreqStepRequest_stays {L : List Field} {a s : State} {n0 n1 : _} (h : Stays L a s) (hL : Sub [.clk] L) :
    RStays L a (execFreqStepRequest n0 n1 s) := by
  unfold execFreqStepRequest
  repeat' with_reducible first | assumption | apply requestStep_stays | apply RStays.next

theorem execFreqStepStop_stays {L : List Field} {a s : State} {n0 : _} (h : Stays L a s) (hL : Sub [.clk, .pwr] L) :
    RStays L a (execFreqStepStop n0 s) := by
  unfold execFreqStepStop
  repeat' with_reducible first
    | assumption | apply finishStep_stays | apply modPwr_stays | apply RStays.next | dsimp only | split | exact hL.of rfl

theorem execFreqStepWithdraw_stays {L : List Field} {a s : State} {n0 : _} (h : Stays L a s) (hL : Sub [.clk] L) :
    RStays L a (execFreqStepWithdraw n0 s) := by
  unfold execFreqStepWithdraw
  repeat' with_reducible first | assumption | apply withdrawStep_stays | apply RStays.next

theorem execFireflyPulse_stays {L : List Field} {a s : State} {n0 : _} (h : Stays L a s) (hL : Sub [.time] L) :
    RStays L a (execFireflyPulse n0 s) := by
  unfold execFireflyPulse
  repeat' with_reducible first
    | assumption | (intro) | apply RStays.next | apply RStays.fault | apply RStays.ite | apply Stays.ite | apply PStays.fst
    | dsimp only | exact hL.of rfl | refine Stays.record ?_ hL

theorem execFireflyMiss_stays {L : List Field} {a s : State} {n0 : _} (h : Stays L a s)
    (hL : Sub [.hostMem, .hst, .time, .ras] L) :
    RStays L a (execFireflyMiss n0 s) := by
  unfold execFireflyMiss
  repeat' with_reducible first
    | assumption | apply reportContained_stays | apply RStays.next | apply RStays.ite | exact hL.of rfl
    | refine Stays.record ?_ hL

theorem execClkStepCapWrite_stays {L : List Field} {a s : State} {n0 : _} (h : Stays L a s) (hL : Sub [.clk] L) :
    RStays L a (execClkStepCapWrite n0 s) := by
  unfold execClkStepCapWrite
  repeat' with_reducible first | assumption | apply writeStepCap_stays | apply RStays.next

theorem execTimeAdjStep_stays {L : List Field} {a s : State} {n0 : _} (h : Stays L a s) (hL : Sub [.time] L) :
    RStays L a (execTimeAdjStep n0 s) := by
  unfold execTimeAdjStep
  repeat' with_reducible first | assumption | apply adjStep_stays | apply RStays.next

theorem execTimeAdjSlew_stays {L : List Field} {a s : State} {n0 : _} (h : Stays L a s) (hL : Sub [.time] L) :
    RStays L a (execTimeAdjSlew n0 s) := by
  unfold execTimeAdjSlew
  repeat' with_reducible first | assumption | apply adjSlew_stays | apply RStays.next

-- Mesh

theorem execLineArrival_stays {L : List Field} {a s : State} {n0 n1 n2 n3 : _} (h : Stays L a s)
    (hL : Sub [.mem, .hostMem, .err, .hst, .time, .ras, .lnk, .core, .stream, .linkCorr, .turn] L) :
    RStays L a (execLineArrival n0 n1 n2 n3 s) := by
  unfold execLineArrival
  repeat' with_reducible first
    | assumption | (intro) | apply setStream_stays | apply freeFlits_stays | apply pumpAll_stays | apply dropOrphans_stays
    | apply RStays.next | apply RStays.fault | apply RStays.ite | apply Stays.ite | apply PStays.fst | dsimp only | split
    | exact hL.of rfl | refine Stays.record ?_ hL

theorem execCheckWordArrival_stays {L : List Field} {a s : State} {n0 n1 n2 : _} (h : Stays L a s)
    (hL : Sub [.hostMem, .hst, .time, .ras, .lnk, .core, .stream] L) :
    RStays L a (execCheckWordArrival n0 n1 n2 s) := by
  unfold execCheckWordArrival
  repeat' with_reducible first
    | assumption | (intro) | apply setStream_stays | apply freeFlits_stays | apply streamRecord_stays
    | apply placeCheck_stays | apply RStays.next | apply RStays.fault | apply RStays.ite | apply Stays.ite
    | apply PStays.fst | dsimp only | split | exact hL.of rfl

theorem execCreditReturn_stays {L : List Field} {a s : State} {n0 n1 n2 : _} (h : Stays L a s)
    (hL : Sub [.mem, .hostMem, .err, .hst, .time, .ras, .lnk, .core, .stream, .turn] L) :
    RStays L a (execCreditReturn n0 n1 n2 s) := by
  unfold execCreditReturn
  repeat' with_reducible first
    | assumption | (intro) | apply pumpAll_stays | apply setStream_stays | apply RStays.next | apply RStays.fault
    | apply RStays.ite | apply Stays.ite | dsimp only | exact hL.of rfl

theorem execTransitForward_stays {L : List Field} {a s : State} {n0 n1 n2 : _} (h : Stays L a s)
    (hL : Sub [.mem, .hostMem, .err, .hst, .time, .ras, .lnk, .core, .stream, .turn, .routes] L) :
    RStays L a (execTransitForward n0 n1 n2 s) := by
  unfold execTransitForward
  repeat' with_reducible first
    | assumption | (intro) | apply takeHead_stays | apply pumpAll_stays | apply dropOrphans_stays | apply countRoute_stays
    | apply forwardLine_stays | apply RStays.next | apply RStays.fault | apply RStays.ite | apply Stays.ite
    | refine OQStays.get ‹_› ?_ | split | exact hL.of rfl

theorem execPortStarvationGrant_stays {L : List Field} {a s : State} {n0 n1 n2 : _} (h : Stays L a s) (hL : Sub [.core] L) :
    RStays L a (execPortStarvationGrant n0 n1 n2 s) := by
  unfold execPortStarvationGrant
  repeat' with_reducible first
    | assumption | (intro) | apply modCore_stays | apply RStays.next

theorem execSramScrub_stays {L : List Field} {a s : State} {n0 n1 : _} (h : Stays L a s)
    (hL : Sub [.hostMem, .err, .hst, .ras, .memc, .core] L) :
    RStays L a (execSramScrub n0 n1 s) := by
  unfold execSramScrub
  repeat' with_reducible first | assumption | apply scrubSram_stays | apply RStays.next

theorem execSramScrubForced_stays {L : List Field} {a s : State} {n0 n1 : _} (h : Stays L a s)
    (hL : Sub [.hostMem, .err, .hst, .ras, .memc, .core] L) :
    RStays L a (execSramScrubForced n0 n1 s) := by
  unfold execSramScrubForced
  repeat' with_reducible first
    | assumption | (intro) | apply scrubSram_stays | apply modCore_stays | apply RStays.next | apply RStays.fault
    | dsimp only | exact hL.of rfl

-- Barriers

theorem execBarrierComplete_stays {L : List Field} {a s : State} {n0 n1 : _} (h : Stays L a s)
    (hL : Sub [.free, .mem, .hostMem, .err, .hst, .ras, .lnk, .core, .stream, .linkCorr, .routes, .region, .part, .bars,
      .snaps] L) :
    RStays L a (execBarrierComplete n0 n1 s) := by
  unfold execBarrierComplete
  repeat' with_reducible first
    | assumption | (intro) | apply copyAt_stays | apply goOn_stays | apply syncAll_stays | apply takeSnap_stays
    | apply dropBar_stays | apply modPart_stays | apply passAll_stays | apply RStays.next | apply RStays.fault
    | apply RStays.ite | apply Stays.ite | dsimp only | split | exact hL.of rfl

theorem execSnapshotTaken_stays {L : List Field} {a s : State} {n0 : _} (h : Stays L a s)
    (hL : Sub [.mem, .hostMem, .err, .hst, .time, .ras, .lnk, .core, .stream, .linkCorr, .routes, .region, .part, .bars,
      .snaps] L) :
    RStays L a (execSnapshotTaken n0 s) := by
  unfold execSnapshotTaken
  repeat' with_reducible first
    | assumption | (intro) | apply goOn_stays | apply takeSnap_stays | apply stepBar_stays | apply writeHeaders_stays
    | apply RStays.next | apply RStays.fault | apply RStays.ite | apply Stays.ite | dsimp only | split | exact hL.of rfl
    | refine Stays.record ?_ hL

theorem execBarrierArrive_stays {L : List Field} {a s : State} {n0 n1 : _} (h : Stays L a s)
    (hL : Sub [.time, .lnk, .stream, .bars] L) :
    RStays L a (execBarrierArrive n0 n1 s) := by
  unfold execBarrierArrive
  repeat' with_reducible first
    | assumption | apply takeArrive_stays | apply RStays.next | apply RStays.ite

theorem execBarrierRelease_stays {L : List Field} {a s : State} {n0 n1 : _} (h : Stays L a s)
    (hL : Sub [.time, .lnk, .stream, .bars] L) :
    RStays L a (execBarrierRelease n0 n1 s) := by
  unfold execBarrierRelease
  repeat' with_reducible first
    | assumption | apply takeRelease_stays | apply RStays.next | apply RStays.ite

theorem execRotationComplete_stays {L : List Field} {a s : State} {n0 n1 : _} (h : Stays L a s)
    (hL : Sub [.mem, .hostMem, .err, .hst, .ras, .lnk, .core, .stream, .linkCorr, .routes, .part, .bars, .snaps] L) :
    RStays L a (execRotationComplete n0 n1 s) := by
  unfold execRotationComplete
  repeat' with_reducible first
    | assumption | (intro) | apply copyReads_stays | apply sramLost_stays | apply modPart_stays | apply exchangeCores_stays
    | apply RStays.next | apply RStays.fault | apply PStays.ite | apply RStays.ite | apply Stays.ite | apply PStays.fst
    | dsimp only | refine PStays.get ‹_› ?_ | split | apply PStays.mk | exact hL.of rfl

theorem execQuiesceComplete_stays {L : List Field} {a s : State} {n0 : _} (h : Stays L a s)
    (hL : Sub [.hst, .ras, .lnk, .core, .stream, .linkCorr, .part] L) :
    RStays L a (execQuiesceComplete n0 s) := by
  unfold execQuiesceComplete
  repeat' with_reducible first
    | assumption | (intro) | apply modCore_stays | apply settleRouters_stays | apply dropSnapReq_stays | apply modPart_stays
    | apply endQuiesce_stays | apply RStays.next | apply RStays.fault | apply RStays.ite | apply Stays.ite
    | apply Stays.foldl | apply PStays.foldl | dsimp only | split | exact hL.of rfl

theorem execSnapReleaseTimeout_stays {L : List Field} {a s : State} {n0 : _} (h : Stays L a s)
    (hL : Sub [.hostMem, .hst, .ras, .lnk, .core, .stream, .linkCorr, .routes, .part, .bars, .snaps] L) :
    RStays L a (execSnapReleaseTimeout n0 s) := by
  unfold execSnapReleaseTimeout
  repeat' with_reducible first
    | assumption | apply dropBar_stays | apply failPartition_stays | apply report_stays | apply RStays.next
    | apply RStays.ite | split | exact hL.of rfl | refine Stays.record ?_ hL

-- Sequencer

theorem execOpComplete_stays {L : List Field} {a s : State} {n0 n1 n2 : _} (h : Stays L a s)
    (hL : Sub [.free, .mem, .hostMem, .err, .dev, .hst, .time, .pwr, .ras, .lnk, .memc, .core, .stream, .linkCorr, .turn,
      .routes, .region, .chim, .part, .bars, .snaps] L) :
    RStays L a (execOpComplete n0 n1 n2 s) := by
  unfold execOpComplete
  repeat' with_reducible first
    | assumption | (intro) | apply opEnds_stays | apply startAtReadout_stays | apply RStays.next | apply RStays.fault
    | exact hL.of rfl

theorem execOpTimeout_stays {L : List Field} {a s : State} {n0 n1 : _} (h : Stays L a s)
    (hL : Sub [.free, .mem, .hostMem, .err, .hst, .time, .pwr, .ras, .lnk, .memc, .core, .stream, .linkCorr, .turn,
      .routes, .region, .part, .bars, .snaps] L) :
    RStays L a (execOpTimeout n0 n1 s) := by
  unfold execOpTimeout
  repeat' with_reducible first
    | assumption | (intro) | apply timeoutNext_stays | apply opFault_stays | apply modCore_stays | apply failRun_stays
    | apply failQueued_stays | apply RStays.next | apply RStays.fault | apply PStays.fst | dsimp only | split
    | exact hL.of rfl

-- Dpa

theorem execBar2Read_stays {L : List Field} {a s : State} {n0 n1 : _} (h : Stays L a s)
    (hL : Sub [.free, .mem, .hostMem, .err, .hst, .ras, .memc, .core, .region, .out] L) :
    RStays L a (execBar2Read n0 n1 s) := by
  unfold execBar2Read
  repeat' with_reducible first
    | assumption | (intro) | apply noteUnsupported_stays | apply bar2Out_stays | apply acceptReq_stays
    | apply bar2ReadNow_stays | apply RStays.next | apply RStays.fault | apply RStays.ite | apply Stays.ite | split
    | exact hL.of rfl

theorem execBar2Write_stays {L : List Field} {a s : State} {n0 n1 : _} (h : Stays L a s)
    (hL : Sub [.free, .mem, .hostMem, .err, .hst, .ras, .memc, .core, .region, .out] L) :
    RStays L a (execBar2Write n0 n1 s) := by
  unfold execBar2Write
  repeat' with_reducible first
    | assumption | (intro) | apply noteUnsupported_stays | apply bar2Out_stays | apply acceptReq_stays
    | apply bar2WriteNow_stays | apply RStays.next | apply RStays.fault | apply RStays.ite | apply Stays.ite | split
    | exact hL.of rfl

-- NbuOps

theorem execNbuCommandWrite_stays {L : List Field} {a s : State} {n0 n1 n2 n3 n4 : _} (h : Stays L a s)
    (hL : Sub [.free, .mem, .hostMem, .err, .hst, .ras, .memc, .core, .region, .out] L) :
    RStays L a (execNbuCommandWrite n0 n1 n2 n3 n4 s) := by
  unfold execNbuCommandWrite
  repeat' with_reducible first | assumption | apply windowRow_stays

theorem execQueryWrite_stays {L : List Field} {a s : State} {n0 n1 n2 n3 n4 n5 : _} (h : Stays L a s)
    (hL : Sub [.free, .mem, .hostMem, .err, .hst, .ras, .memc, .core, .region, .out] L) :
    RStays L a (execQueryWrite n0 n1 n2 n3 n4 n5 s) := by
  unfold execQueryWrite
  repeat' with_reducible first | assumption | apply windowRow_stays

theorem execQueryAllWrite_stays {L : List Field} {a s : State} {n0 n1 n2 n3 n4 : _} (h : Stays L a s)
    (hL : Sub [.free, .mem, .hostMem, .err, .hst, .ras, .memc, .core, .region, .out] L) :
    RStays L a (execQueryAllWrite n0 n1 n2 n3 n4 s) := by
  unfold execQueryAllWrite
  repeat' with_reducible first | assumption | apply windowRow_stays

theorem execRegionParamWrite_stays {L : List Field} {a s : State} {n0 n1 n2 : _} (h : Stays L a s)
    (hL : Sub [.free, .mem, .hostMem, .err, .hst, .ras, .memc, .core, .region, .out] L) :
    RStays L a (execRegionParamWrite n0 n1 n2 s) := by
  unfold execRegionParamWrite
  repeat' with_reducible first | assumption | apply windowRow_stays

theorem execNbuQueueFullTimeout_stays {L : List Field} {a s : State} {n0 n1 : _} (h : Stays L a s)
    (hL : Sub [.free, .mem, .hostMem, .err, .hst, .ras, .memc, .core, .region, .out] L) :
    RStays L a (execNbuQueueFullTimeout n0 n1 s) := by
  unfold execNbuQueueFullTimeout
  repeat' with_reducible first
    | assumption | (intro) | apply settlePath_stays | apply serviceFail_stays | apply modNbu_stays | apply endWaitDesc_stays
    | apply RStays.next | apply RStays.fault | dsimp only | split | exact hL.of rfl

theorem execPopRead_stays {L : List Field} {a s : State} {n0 n1 : _} (h : Stays L a s) (hL : Sub [.region, .out] L) :
    RStays L a (execPopRead n0 n1 s) := by
  unfold execPopRead
  repeat' with_reducible first
    | assumption | apply consumeLine_stays | apply RStays.next | apply RStays.ite | apply QStays.snd | exact hL.of rfl
    | refine Stays.record ?_ hL

theorem execGroupLine0Read_stays {L : List Field} {a s : State} {n0 n1 : _} (h : Stays L a s) (hL : Sub [.region] L) :
    RStays L a (execGroupLine0Read n0 n1 s) := by
  unfold execGroupLine0Read
  repeat' with_reducible first
    | assumption | apply startRound_stays | apply RStays.next | apply RStays.ite

theorem execNbuCommandStart_stays {L : List Field} {a s : State} {n0 n1 : _} (h : Stays L a s) (hL : Sub [.region] L) :
    RStays L a (execNbuCommandStart n0 n1 s) := by
  unfold execNbuCommandStart
  repeat' with_reducible first | assumption | apply setNbu_stays | apply RStays.next | dsimp only | split

theorem execAttp_stays {L : List Field} {a s : State} {n0 n1 : _} (h : Stays L a s)
    (hL : Sub [.free, .hostMem, .err, .hst, .ras, .memc, .region] L) :
    RStays L a (execAttp n0 n1 s) := by
  unfold execAttp
  repeat' with_reducible first | assumption | (intro) | apply runNbu_stays | apply attpRun_stays | exact hL.of rfl

theorem execAttqk_stays {L : List Field} {a s : State} {n0 n1 : _} (h : Stays L a s)
    (hL : Sub [.free, .hostMem, .err, .hst, .ras, .memc, .region] L) :
    RStays L a (execAttqk n0 n1 s) := by
  unfold execAttqk
  repeat' with_reducible first | assumption | (intro) | apply runNbu_stays | apply attqkRun_stays | exact hL.of rfl

theorem execAttav_stays {L : List Field} {a s : State} {n0 n1 : _} (h : Stays L a s)
    (hL : Sub [.free, .hostMem, .err, .hst, .ras, .memc, .region] L) :
    RStays L a (execAttav n0 n1 s) := by
  unfold execAttav
  repeat' with_reducible first | assumption | (intro) | apply runNbu_stays | apply attavRun_stays | exact hL.of rfl

theorem execKvapp_stays {L : List Field} {a s : State} {n0 n1 : _} (h : Stays L a s)
    (hL : Sub [.free, .hostMem, .err, .hst, .ras, .memc, .region] L) :
    RStays L a (execKvapp n0 n1 s) := by
  unfold execKvapp
  repeat' with_reducible first | assumption | (intro) | apply runNbu_stays | apply kvappRun_stays | exact hL.of rfl

theorem execKvdecay_stays {L : List Field} {a s : State} {n0 n1 : _} (h : Stays L a s)
    (hL : Sub [.free, .hostMem, .err, .hst, .ras, .memc, .region] L) :
    RStays L a (execKvdecay n0 n1 s) := by
  unfold execKvdecay
  repeat' with_reducible first | assumption | (intro) | apply runNbu_stays | apply kvdecayRun_stays | exact hL.of rfl

theorem execFill_stays {L : List Field} {a s : State} {n0 n1 : _} (h : Stays L a s) (hL : Sub [.region] L) :
    RStays L a (execFill n0 n1 s) := by
  unfold execFill
  repeat' with_reducible first | assumption | (intro) | apply runNbu_stays | apply fillRun_stays

theorem execCopy_stays {L : List Field} {a s : State} {n0 n1 : _} (h : Stays L a s)
    (hL : Sub [.free, .hostMem, .err, .hst, .ras, .memc, .region] L) :
    RStays L a (execCopy n0 n1 s) := by
  unfold execCopy
  repeat' with_reducible first | assumption | (intro) | apply runNbu_stays | apply copyRun_stays | exact hL.of rfl

theorem execGather_stays {L : List Field} {a s : State} {n0 n1 : _} (h : Stays L a s)
    (hL : Sub [.free, .hostMem, .err, .hst, .ras, .memc, .region] L) :
    RStays L a (execGather n0 n1 s) := by
  unfold execGather
  repeat' with_reducible first | assumption | (intro) | apply runNbu_stays | apply gatherRun_stays | exact hL.of rfl

theorem execScatter_stays {L : List Field} {a s : State} {n0 n1 : _} (h : Stays L a s)
    (hL : Sub [.free, .hostMem, .err, .hst, .ras, .memc, .region] L) :
    RStays L a (execScatter n0 n1 s) := by
  unfold execScatter
  repeat' with_reducible first | assumption | (intro) | apply runNbu_stays | apply scatterRun_stays | exact hL.of rfl

theorem execRsum_stays {L : List Field} {a s : State} {n0 n1 : _} (h : Stays L a s)
    (hL : Sub [.free, .hostMem, .err, .hst, .ras, .memc, .region] L) :
    RStays L a (execRsum n0 n1 s) := by
  unfold execRsum
  repeat' with_reducible first | assumption | (intro) | apply runNbu_stays | apply rsumRun_stays | exact hL.of rfl

theorem execBchk_stays {L : List Field} {a s : State} {n0 n1 : _} (h : Stays L a s)
    (hL : Sub [.hostMem, .err, .hst, .ras, .memc, .region] L) :
    RStays L a (execBchk n0 n1 s) := by
  unfold execBchk
  repeat' with_reducible first
    | assumption | (intro) | apply runNbu_stays | apply bchkRun_stays | apply RStays.next | apply RStays.fault
    | apply PStays.ite | apply RStays.ite | apply Stays.ite | apply PStays.fst | refine PStays.get ‹_› ?_ | apply PStays.mk
    | exact hL.of rfl

theorem execNbuCommandComplete_stays {L : List Field} {a s : State} {n0 n1 : _} (h : Stays L a s)
    (hL : Sub [.free, .mem, .hostMem, .err, .hst, .ras, .lnk, .memc, .core, .stream, .linkCorr, .routes, .region, .part,
      .bars, .snaps, .kv, .out] L) :
    RStays L a (execNbuCommandComplete n0 n1 s) := by
  unfold execNbuCommandComplete
  repeat' with_reducible first
    | assumption | (intro) | apply standWrites_stays | apply modNbu_stays | apply endCommand_stays | apply RStays.next
    | apply RStays.fault | apply PStays.ite | apply RStays.ite | apply Stays.ite | apply PStays.fst | dsimp only
    | refine PStays.get ‹_› ?_ | split | apply PStays.mk | exact hL.of rfl

theorem execNbuRowBoundary_stays {L : List Field} {a s : State} {n0 n1 : _} (h : Stays L a s) (hL : Sub [.region] L) :
    RStays L a (execNbuRowBoundary n0 n1 s) := by
  unfold execNbuRowBoundary
  repeat' with_reducible first | assumption | apply modNbu_stays | apply RStays.next | apply RStays.ite

-- Cache

theorem execEvictionSelection_stays {L : List Field} {a s : State} (h : Stays L a s)
    (hL : Sub [.mem, .hostMem, .err, .hst, .ras, .memc, .region, .kv] L) :
    RStays L a (execEvictionSelection s) := by
  unfold execEvictionSelection
  repeat' with_reducible first
    | assumption | apply evictFrom_stays | apply RStays.next | dsimp only | split | exact hL.of rfl
    | refine Stays.record ?_ hL

theorem execBatchDecode_stays {L : List Field} {a s : State} {n0 : _} (h : Stays L a s)
    (hL : Sub [.mem, .hostMem, .err, .hst, .ras, .lnk, .core, .stream, .linkCorr, .routes, .part, .bars, .snaps, .kv] L) :
    RStays L a (execBatchDecode n0 s) := by
  unfold execBatchDecode
  repeat' with_reducible first
    | assumption | apply answerBatch_stays | apply dropOverflow_stays | apply formBatch_stays | apply RStays.next | split
    | exact hL.of rfl

theorem execBatchPrefill_stays {L : List Field} {a s : State} {n0 : _} (h : Stays L a s)
    (hL : Sub [.mem, .hostMem, .err, .hst, .ras, .lnk, .core, .stream, .linkCorr, .routes, .part, .bars, .snaps, .kv] L) :
    RStays L a (execBatchPrefill n0 s) := by
  unfold execBatchPrefill
  repeat' with_reducible first
    | assumption | apply answerBatch_stays | apply formBatch_stays | apply RStays.next | split | exact hL.of rfl

theorem execBatchDone_stays {L : List Field} {a s : State} {n0 : _} (h : Stays L a s)
    (hL : Sub [.hostMem, .hst, .ras, .lnk, .core, .stream, .linkCorr, .routes, .part, .bars, .snaps, .kv] L) :
    RStays L a (execBatchDone n0 s) := by
  unfold execBatchDone
  repeat' with_reducible first
    | assumption | (intro) | apply dropSig_stays | apply releaseCtx_stays | apply modKvSeq_stays | apply modPart_stays
    | apply endSig_stays | apply RStays.next | apply Stays.foldl | split | exact hL.of rfl

-- Channels

theorem execScanEnSet_stays {L : List Field} {a s : State} {n0 : _} (h : Stays L a s) (hL : Sub [.hostMem, .hst, .ras] L) :
    RStays L a (execScanEnSet n0 s) := by
  unfold execScanEnSet
  repeat' with_reducible first | assumption | apply setScanEn_stays | apply RStays.next

theorem execScanEnClear_stays {L : List Field} {a s : State} (h : Stays L a s) (hL : Sub [.hst] L) :
    RStays L a (execScanEnClear s) := by
  unfold execScanEnClear
  repeat' with_reducible first | assumption | apply clearScanEn_stays | apply RStays.next

theorem execDoorbellScan_stays {L : List Field} {a s : State} (h : Stays L a s)
    (hL : Sub [.hostMem, .hst, .ras, .lnk, .core, .stream, .linkCorr, .routes, .part, .bars, .snaps] L) :
    RStays L a (execDoorbellScan s) := by
  unfold execDoorbellScan
  repeat' with_reducible first
    | assumption | (intro) | apply scanBells_stays | apply RStays.next | apply RStays.fault | apply RStays.ite

theorem execBusMasterDisable_stays {L : List Field} {a s : State} (h : Stays L a s) (hL : Sub [.hst] L) :
    RStays L a (execBusMasterDisable s) := by
  unfold execBusMasterDisable
  repeat' with_reducible first | assumption | apply RStays.next | exact hL.of rfl | refine Stays.record ?_ hL

theorem execBusMasterEnable_stays {L : List Field} {a s : State} (h : Stays L a s) (hL : Sub [.hostMem, .hst, .ras] L) :
    RStays L a (execBusMasterEnable s) := by
  unfold execBusMasterEnable
  repeat' with_reducible first
    | assumption | apply releaseHeldWrites_stays | apply RStays.next | exact hL.of rfl | refine Stays.record ?_ hL

theorem execInterruptHoldoffExpiry_stays {L : List Field} {a s : State} {n0 : _} (h : Stays L a s) (hL : Sub [.hst] L) :
    RStays L a (execInterruptHoldoffExpiry n0 s) := by
  unfold execInterruptHoldoffExpiry
  repeat' with_reducible first
    | assumption | apply setChan_stays | apply raiseVector_stays | apply RStays.next | apply RStays.ite

-- Power

theorem execIvrPhaseFailure_stays {L : List Field} {a s : State} {n0 n1 n2 : _} (h : Stays L a s)
    (hL : Sub [.free, .mem, .hostMem, .err, .pins, .dev, .hst, .clk, .time, .pwr, .ras, .lnk, .memc, .weevil, .core,
      .stream, .linkCorr, .routes, .region, .part, .bars, .snaps] L) :
    RStays L a (execIvrPhaseFailure n0 n1 n2 s) := by
  unfold execIvrPhaseFailure
  repeat' with_reducible first
    | assumption | apply vctPhaseFails_stays | apply phaseRecord_stays | apply modPwr_stays | apply dramRailFails_stays
    | apply RStays.next | apply RStays.fault | apply RStays.ite | split | exact hL.of rfl

theorem execPowerRegionOff_stays {L : List Field} {a s : State} {n0 n1 : _} (h : Stays L a s) (hL : Sub [.pwr, .out] L) :
    RStays L a (execPowerRegionOff n0 n1 s) := by
  unfold execPowerRegionOff
  repeat' with_reducible first
    | assumption | (intro) | apply regionOffOut_stays | apply modPwr_stays | apply RStays.next | apply RStays.fault
    | apply RStays.ite | apply Stays.ite | dsimp only | exact hL.of rfl

theorem execDroopTrip_stays {L : List Field} {a s : State} {n0 n1 : _} (h : Stays L a s) (hL : Sub [.pwr] L) :
    RStays L a (execDroopTrip n0 n1 s) := by
  unfold execDroopTrip
  repeat' with_reducible first | assumption | apply modPwr_stays | apply RStays.next | apply RStays.ite

theorem execDroopRelax_stays {L : List Field} {a s : State} {n0 : _} (h : Stays L a s) (hL : Sub [.pwr] L) :
    RStays L a (execDroopRelax n0 s) := by
  unfold execDroopRelax
  repeat' with_reducible first | assumption | apply modPwr_stays | apply RStays.next

theorem execDroopFailure_stays {L : List Field} {a s : State} {n0 : _} (h : Stays L a s)
    (hL : Sub [.hostMem, .hst, .clk, .pwr, .ras, .lnk, .core, .stream, .linkCorr, .routes, .part, .bars, .snaps] L) :
    RStays L a (execDroopFailure n0 s) := by
  unfold execDroopFailure
  repeat' with_reducible first | assumption | apply stopLayer_stays | apply RStays.next

theorem execTierOvercurrentTimeout_stays {L : List Field} {a s : State} {n0 : _} (h : Stays L a s)
    (hL : Sub [.hostMem, .dev, .hst, .clk, .pwr, .ras, .lnk, .core, .stream, .linkCorr, .routes, .part, .bars, .snaps] L) :
    RStays L a (execTierOvercurrentTimeout n0 s) := by
  unfold execTierOvercurrentTimeout
  repeat' with_reducible first
    | assumption | (intro) | apply failGroup_stays | apply RStays.next | apply RStays.fault | apply RStays.ite

theorem execDamperUpdate_stays {L : List Field} {a s : State} {n0 n1 n2 : _} (h : Stays L a s) (hL : Sub [.pwr] L) :
    RStays L a (execDamperUpdate n0 n1 n2 s) := by
  unfold execDamperUpdate
  repeat' with_reducible first
    | assumption | (intro) | apply modPwr_stays | apply sumBubbles_stays | apply setBubbles_stays
    | apply takeEstimates_stays | apply RStays.next | apply RStays.fault | apply RStays.ite | apply Stays.ite
    | apply Stays.foldl | apply PStays.foldl | dsimp only | exact hL.of rfl | refine Stays.record ?_ hL

theorem execCapLoop_stays {L : List Field} {a s : State} {n0 n1 n2 n3 : _} (h : Stays L a s) (hL : Sub [.clk, .pwr] L) :
    RStays L a (execCapLoop n0 n1 n2 n3 s) := by
  unfold execCapLoop
  repeat' with_reducible first
    | assumption | (intro) | apply stepByBubbles_stays | apply closeMs_stays | apply integrateCaps_stays
    | apply rescale_stays | apply RStays.next | apply RStays.fault | apply Stays.foldl | apply PStays.foldl | dsimp only
    | exact hL.of rfl | refine Stays.record ?_ hL

theorem execVinLow_stays {L : List Field} {a s : State} (h : Stays L a s) (hL : Sub [.pwr] L) :
    RStays L a (execVinLow s) := by
  unfold execVinLow
  repeat' with_reducible first | assumption | apply RStays.next | exact hL.of rfl | refine Stays.record ?_ hL

theorem execVinUndervoltage_stays {L : List Field} {a s : State} (h : Stays L a s)
    (hL : Sub [.free, .mem, .hostMem, .err, .pins, .dev, .hst, .clk, .time, .pwr, .ras, .lnk, .weevil, .core, .stream,
      .linkCorr, .routes, .region, .part, .bars, .snaps] L) :
    RStays L a (execVinUndervoltage s) := by
  unfold execVinUndervoltage
  repeat' with_reducible first | assumption | apply enterSafe_stays | apply RStays.next

theorem execPwrOkFall_stays {L : List Field} {a s : State} (h : Stays L a s)
    (hL : Sub [.mem, .err, .repair, .strap, .pins, .dev, .boot, .hst, .clk, .time, .pwr, .thm, .ras, .sec, .lnk, .memc,
      .weevil, .tap, .core, .stream, .linkCorr, .turn, .routes, .region, .chim, .part, .bars, .snaps, .kv] L) :
    RStays L a (execPwrOkFall s) := by
  unfold execPwrOkFall
  repeat' with_reducible first
    | assumption | (intro) | apply powerOff_stays | apply RStays.next | apply RStays.fault | dsimp only | exact hL.of rfl
    | refine Stays.record ?_ hL

theorem execVbypOutOfRange_stays {L : List Field} {a s : State} (h : Stays L a s)
    (hL : Sub [.hostMem, .dev, .hst, .clk, .pwr, .ras, .lnk, .core, .stream, .linkCorr, .routes, .part, .bars, .snaps] L) :
    RStays L a (execVbypOutOfRange s) := by
  unfold execVbypOutOfRange
  repeat' with_reducible first
    | assumption | (intro) | apply failGroup_stays | apply RStays.next | apply Stays.foldl | exact hL.of rfl
    | refine Stays.record ?_ hL

theorem execVsdOutOfRange_stays {L : List Field} {a s : State} (h : Stays L a s)
    (hL : Sub [.free, .mem, .hostMem, .err, .pins, .dev, .hst, .clk, .time, .pwr, .ras, .lnk, .weevil, .core, .stream,
      .linkCorr, .routes, .region, .part, .bars, .snaps] L) :
    RStays L a (execVsdOutOfRange s) := by
  unfold execVsdOutOfRange
  repeat' with_reducible first
    | assumption | (intro) | apply enterSafe_stays | apply RStays.next | apply RStays.fault | dsimp only | exact hL.of rfl
    | refine Stays.record ?_ hL

theorem execVheVauxOutOfRange_stays {L : List Field} {a s : State} (h : Stays L a s)
    (hL : Sub [.mem, .err, .repair, .pins, .dev, .boot, .hst, .clk, .time, .pwr, .thm, .ras, .sec, .lnk, .memc, .weevil,
      .tap, .core, .stream, .linkCorr, .turn, .routes, .region, .chim, .part, .bars, .snaps, .kv] L) :
    RStays L a (execVheVauxOutOfRange s) := by
  unfold execVheVauxOutOfRange powerOff; split
  · exact RStays.next h
  · exact RStays.next (Stays.record (s := s) h hL (wm := fun _ => rfl))

-- DescOps

theorem execNop_stays {L : List Field} {a s : State} {n0 : _} (h : Stays L a s) (hL : Sub [.hst] L) :
    RStays L a (execNop n0 s) := by
  unfold execNop
  repeat' with_reducible first
    | assumption | (intro) | apply descRow_stays | apply nopEff_stays | apply RStays.next

theorem execChCreate_stays {L : List Field} {a s : State} {n0 : _} (h : Stays L a s) (hL : Sub [.hst] L) :
    RStays L a (execChCreate n0 s) := by
  unfold execChCreate
  repeat' with_reducible first
    | assumption | (intro) | apply descRow_stays | apply chCreateEff_stays | apply RStays.next

theorem execChDestroy_stays {L : List Field} {a s : State} {n0 : _} (h : Stays L a s)
    (hL : Sub [.free, .mem, .hostMem, .err, .hst, .ras, .lnk, .memc, .core, .stream, .linkCorr, .routes, .region, .part,
      .bars, .snaps, .out] L) :
    RStays L a (execChDestroy n0 s) := by
  unfold execChDestroy
  repeat' with_reducible first
    | assumption | (intro) | apply descRow_stays | apply chDestroyEff_stays | apply RStays.next | exact hL.of rfl

theorem execChannelCloseComplete_stays {L : List Field} {a s : State} {n0 : _} (h : Stays L a s)
    (hL : Sub [.hostMem, .hst] L) :
    RStays L a (execChannelCloseComplete n0 s) := by
  unfold execChannelCloseComplete
  repeat' with_reducible first
    | assumption | (intro) | apply writeDone_stays | apply setChan_stays | apply finishDesc_stays | apply RStays.next
    | apply RStays.fault | apply RStays.ite | apply Stays.ite | dsimp only | split | exact hL.of rfl

theorem execChResume_stays {L : List Field} {a s : State} {n0 : _} (h : Stays L a s)
    (hL : Sub [.hostMem, .hst, .ras, .lnk, .core, .stream, .linkCorr, .routes, .part, .bars, .snaps] L) :
    RStays L a (execChResume n0 s) := by
  unfold execChResume
  repeat' with_reducible first
    | assumption | (intro) | apply descRow_stays | apply chResumeEff_stays | apply RStays.next | exact hL.of rfl

theorem execChQuery_stays {L : List Field} {a s : State} {n0 : _} (h : Stays L a s) (hL : Sub [.hst] L) :
    RStays L a (execChQuery n0 s) := by
  unfold execChQuery
  repeat' with_reducible first
    | assumption | (intro) | apply descRow_stays | apply chQueryEff_stays | apply RStays.next

theorem execChimneyQuery_stays {L : List Field} {a s : State} {n0 : _} (h : Stays L a s) (hL : Sub [.hostMem, .hst] L) :
    RStays L a (execChimneyQuery n0 s) := by
  unfold execChimneyQuery
  repeat' with_reducible first
    | assumption | (intro) | apply descRow_stays | apply chimneyQueryEff_stays | apply RStays.next | exact hL.of rfl

theorem execPwrCap_stays {L : List Field} {a s : State} {n0 : _} (h : Stays L a s) (hL : Sub [.hst, .pwr, .part] L) :
    RStays L a (execPwrCap n0 s) := by
  unfold execPwrCap
  repeat' with_reducible first
    | assumption | (intro) | apply descRow_stays | apply pwrCapEff_stays | apply RStays.next | exact hL.of rfl

theorem execTelemetry_stays {L : List Field} {a s : State} {n0 : _} (h : Stays L a s) (hL : Sub [.hostMem, .hst] L) :
    RStays L a (execTelemetry n0 s) := by
  unfold execTelemetry
  repeat' with_reducible first
    | assumption | (intro) | apply descRow_stays | apply telemetryEff_stays | apply RStays.next | exact hL.of rfl

theorem execDevReset_stays {L : List Field} {a s : State} {n0 : _} (h : Stays L a s) (hL : Sub [.dev, .hst] L) :
    RStays L a (execDevReset n0 s) := by
  unfold execDevReset
  repeat' with_reducible first
    | assumption | (intro) | apply descRow_stays | apply devResetEff_stays | apply RStays.next | exact hL.of rfl

-- CopyOps

theorem execCpCopy_stays {L : List Field} {a s : State} {n0 : _} (h : Stays L a s)
    (hL : Sub [.free, .mem, .hostMem, .err, .hst, .ras, .memc, .core, .region, .out] L) :
    RStays L a (execCpCopy n0 s) := by
  unfold execCpCopy
  repeat' with_reducible first
    | assumption | (intro) | apply descRow_stays | apply cpCopyEff_stays | apply RStays.next | exact hL.of rfl

theorem execCpFill_stays {L : List Field} {a s : State} {n0 : _} (h : Stays L a s)
    (hL : Sub [.free, .mem, .hostMem, .err, .hst, .ras, .memc, .core, .region, .out] L) :
    RStays L a (execCpFill n0 s) := by
  unfold execCpFill
  repeat' with_reducible first
    | assumption | (intro) | apply descRow_stays | apply cpFillEff_stays | apply RStays.next | exact hL.of rfl

theorem execCpPut_stays {L : List Field} {a s : State} {n0 : _} (h : Stays L a s)
    (hL : Sub [.mem, .hostMem, .err, .hst, .ras, .core] L) :
    RStays L a (execCpPut n0 s) := by
  unfold execCpPut
  repeat' with_reducible first
    | assumption | (intro) | apply descRow_stays | apply cpPutEff_stays | apply RStays.next | exact hL.of rfl

theorem execCpGet_stays {L : List Field} {a s : State} {n0 : _} (h : Stays L a s) (hL : Sub [.hostMem, .hst, .ras, .core] L) :
    RStays L a (execCpGet n0 s) := by
  unfold execCpGet
  repeat' with_reducible first
    | assumption | (intro) | apply descRow_stays | apply cpGetEff_stays | apply RStays.next | exact hL.of rfl

theorem execKvResult_stays {L : List Field} {a s : State} {n0 : _} (h : Stays L a s)
    (hL : Sub [.free, .hostMem, .hst, .ras, .region] L) :
    RStays L a (execKvResult n0 s) := by
  unfold execKvResult
  repeat' with_reducible first
    | assumption | (intro) | apply descRow_stays | apply kvResultEff_stays | apply RStays.next | exact hL.of rfl

-- PartOps

theorem execPartCreate_stays {L : List Field} {a s : State} {n0 : _} (h : Stays L a s) (hL : Sub [.hst, .part] L) :
    RStays L a (execPartCreate n0 s) := by
  unfold execPartCreate
  repeat' with_reducible first
    | assumption | (intro) | apply descRow_stays | apply partCreateEff_stays | apply RStays.next | exact hL.of rfl

theorem execPartStart_stays {L : List Field} {a s : State} {n0 : _} (h : Stays L a s)
    (hL : Sub [.free, .mem, .hostMem, .err, .hst, .pwr, .ras, .lnk, .core, .stream, .linkCorr, .routes, .region, .part,
      .bars, .snaps, .kv] L) :
    RStays L a (execPartStart n0 s) := by
  unfold execPartStart
  repeat' with_reducible first
    | assumption | (intro) | apply descRow_stays | apply partCtrlEff_stays | apply RStays.next | exact hL.of rfl

theorem execPartQuiesce_stays {L : List Field} {a s : State} {n0 : _} (h : Stays L a s)
    (hL : Sub [.free, .mem, .hostMem, .err, .hst, .pwr, .ras, .lnk, .core, .stream, .linkCorr, .routes, .region, .part,
      .bars, .snaps, .kv] L) :
    RStays L a (execPartQuiesce n0 s) := by
  unfold execPartQuiesce
  repeat' with_reducible first
    | assumption | (intro) | apply descRow_stays | apply partCtrlEff_stays | apply RStays.next | exact hL.of rfl

theorem execPartResume_stays {L : List Field} {a s : State} {n0 : _} (h : Stays L a s)
    (hL : Sub [.free, .mem, .hostMem, .err, .hst, .pwr, .ras, .lnk, .core, .stream, .linkCorr, .routes, .region, .part,
      .bars, .snaps, .kv] L) :
    RStays L a (execPartResume n0 s) := by
  unfold execPartResume
  repeat' with_reducible first
    | assumption | (intro) | apply descRow_stays | apply partCtrlEff_stays | apply RStays.next | exact hL.of rfl

theorem execPartReset_stays {L : List Field} {a s : State} {n0 : _} (h : Stays L a s)
    (hL : Sub [.free, .mem, .hostMem, .err, .hst, .pwr, .ras, .lnk, .core, .stream, .linkCorr, .routes, .region, .part,
      .bars, .snaps, .kv] L) :
    RStays L a (execPartReset n0 s) := by
  unfold execPartReset
  repeat' with_reducible first
    | assumption | (intro) | apply descRow_stays | apply partCtrlEff_stays | apply RStays.next | exact hL.of rfl

theorem execPartUnload_stays {L : List Field} {a s : State} {n0 : _} (h : Stays L a s)
    (hL : Sub [.free, .mem, .hostMem, .err, .hst, .pwr, .ras, .lnk, .core, .stream, .linkCorr, .routes, .region, .part,
      .bars, .snaps, .kv] L) :
    RStays L a (execPartUnload n0 s) := by
  unfold execPartUnload
  repeat' with_reducible first
    | assumption | (intro) | apply descRow_stays | apply partCtrlEff_stays | apply RStays.next | exact hL.of rfl

theorem execPartDestroy_stays {L : List Field} {a s : State} {n0 : _} (h : Stays L a s)
    (hL : Sub [.free, .mem, .hostMem, .err, .hst, .pwr, .ras, .region, .part] L) :
    RStays L a (execPartDestroy n0 s) := by
  unfold execPartDestroy
  repeat' with_reducible first
    | assumption | (intro) | apply descRow_stays | apply partDestroyEff_stays | apply RStays.next | exact hL.of rfl

theorem execPartQuery_stays {L : List Field} {a s : State} {n0 : _} (h : Stays L a s) (hL : Sub [.hst] L) :
    RStays L a (execPartQuery n0 s) := by
  unfold execPartQuery
  repeat' with_reducible first
    | assumption | (intro) | apply descRow_stays | apply partQueryEff_stays | apply RStays.next

theorem execPartSnapshot_stays {L : List Field} {a s : State} {n0 : _} (h : Stays L a s) (hL : Sub [.hst, .part] L) :
    RStays L a (execPartSnapshot n0 s) := by
  unfold execPartSnapshot
  repeat' with_reducible first
    | assumption | (intro) | apply descRow_stays | apply partSnapshotEff_stays | apply RStays.next | exact hL.of rfl

theorem execRouterReset_stays {L : List Field} {a s : State} {n0 : _} (h : Stays L a s)
    (hL : Sub [.hst, .lnk, .stream, .linkCorr] L) :
    RStays L a (execRouterReset n0 s) := by
  unfold execRouterReset
  repeat' with_reducible first
    | assumption | (intro) | apply descRow_stays | apply routerResetEff_stays | apply RStays.next | exact hL.of rfl

-- PlanLoad

theorem execPartLoad_stays {L : List Field} {a s : State} {n0 : _} (h : Stays L a s)
    (hL : Sub [.free, .mem, .hostMem, .err, .dev, .hst, .pwr, .ras, .lnk, .memc, .core, .stream, .linkCorr, .routes,
      .region, .part, .bars, .snaps] L) :
    RStays L a (execPartLoad n0 s) := by
  unfold execPartLoad
  repeat' with_reducible first
    | assumption | (intro) | apply descRow_stays | apply partLoadEff_stays | apply RStays.next | exact hL.of rfl

-- TileOps

theorem execMma_stays {L : List Field} {a s : State} {n0 : _} (h : Stays L a s)
    (hL : Sub [.mem, .hostMem, .err, .hst, .time, .pwr, .ras, .lnk, .memc, .core, .stream, .linkCorr, .turn, .routes,
      .region, .part, .bars, .snaps] L) :
    RStays L a (execMma n0 s) := by
  unfold execMma
  repeat' with_reducible first | assumption | apply issueTile_stays | apply RStays.next

theorem execMmap_stays {L : List Field} {a s : State} {n0 : _} (h : Stays L a s)
    (hL : Sub [.mem, .hostMem, .err, .hst, .time, .pwr, .ras, .lnk, .memc, .core, .stream, .linkCorr, .turn, .routes,
      .region, .part, .bars, .snaps] L) :
    RStays L a (execMmap n0 s) := by
  unfold execMmap
  repeat' with_reducible first | assumption | apply issueTile_stays | apply RStays.next

theorem execEwa_stays {L : List Field} {a s : State} {n0 : _} (h : Stays L a s)
    (hL : Sub [.mem, .hostMem, .err, .hst, .time, .pwr, .ras, .lnk, .memc, .core, .stream, .linkCorr, .turn, .routes,
      .region, .part, .bars, .snaps] L) :
    RStays L a (execEwa n0 s) := by
  unfold execEwa
  repeat' with_reducible first | assumption | apply issueTile_stays | apply RStays.next

theorem execVfn_stays {L : List Field} {a s : State} {n0 : _} (h : Stays L a s)
    (hL : Sub [.mem, .hostMem, .err, .hst, .time, .pwr, .ras, .lnk, .memc, .core, .stream, .linkCorr, .turn, .routes,
      .region, .part, .bars, .snaps] L) :
    RStays L a (execVfn n0 s) := by
  unfold execVfn
  repeat' with_reducible first | assumption | apply issueTile_stays | apply RStays.next

theorem execRed_stays {L : List Field} {a s : State} {n0 : _} (h : Stays L a s)
    (hL : Sub [.mem, .hostMem, .err, .hst, .time, .pwr, .ras, .lnk, .memc, .core, .stream, .linkCorr, .turn, .routes,
      .region, .part, .bars, .snaps] L) :
    RStays L a (execRed n0 s) := by
  unfold execRed
  repeat' with_reducible first | assumption | apply issueTile_stays | apply RStays.next

theorem execQscan_stays {L : List Field} {a s : State} {n0 : _} (h : Stays L a s)
    (hL : Sub [.mem, .hostMem, .err, .hst, .time, .pwr, .ras, .lnk, .memc, .core, .stream, .linkCorr, .turn, .routes,
      .region, .part, .bars, .snaps] L) :
    RStays L a (execQscan n0 s) := by
  unfold execQscan
  repeat' with_reducible first | assumption | apply issueTile_stays | apply RStays.next

theorem execQconv_stays {L : List Field} {a s : State} {n0 : _} (h : Stays L a s)
    (hL : Sub [.mem, .hostMem, .err, .hst, .time, .pwr, .ras, .lnk, .memc, .core, .stream, .linkCorr, .turn, .routes,
      .region, .part, .bars, .snaps] L) :
    RStays L a (execQconv n0 s) := by
  unfold execQconv
  repeat' with_reducible first | assumption | apply issueTile_stays | apply RStays.next

theorem execDq_stays {L : List Field} {a s : State} {n0 : _} (h : Stays L a s)
    (hL : Sub [.mem, .hostMem, .err, .hst, .time, .pwr, .ras, .lnk, .memc, .core, .stream, .linkCorr, .turn, .routes,
      .region, .part, .bars, .snaps] L) :
    RStays L a (execDq n0 s) := by
  unfold execDq
  repeat' with_reducible first | assumption | apply issueTile_stays | apply RStays.next

theorem execSmx_stays {L : List Field} {a s : State} {n0 : _} (h : Stays L a s)
    (hL : Sub [.mem, .hostMem, .err, .hst, .time, .pwr, .ras, .lnk, .memc, .core, .stream, .linkCorr, .turn, .routes,
      .region, .part, .bars, .snaps] L) :
    RStays L a (execSmx n0 s) := by
  unfold execSmx
  repeat' with_reducible first | assumption | apply issueTile_stays | apply RStays.next

theorem execSmxm_stays {L : List Field} {a s : State} {n0 : _} (h : Stays L a s)
    (hL : Sub [.mem, .hostMem, .err, .hst, .time, .pwr, .ras, .lnk, .memc, .core, .stream, .linkCorr, .turn, .routes,
      .region, .part, .bars, .snaps] L) :
    RStays L a (execSmxm n0 s) := by
  unfold execSmxm
  repeat' with_reducible first | assumption | apply issueTile_stays | apply RStays.next

theorem execSnd_stays {L : List Field} {a s : State} {n0 : _} (h : Stays L a s)
    (hL : Sub [.mem, .hostMem, .err, .hst, .time, .pwr, .ras, .lnk, .memc, .core, .stream, .linkCorr, .turn, .routes,
      .region, .part, .bars, .snaps] L) :
    RStays L a (execSnd n0 s) := by
  unfold execSnd
  repeat' with_reducible first | assumption | apply issueTile_stays | apply RStays.next

theorem execRcv_stays {L : List Field} {a s : State} {n0 : _} (h : Stays L a s)
    (hL : Sub [.mem, .hostMem, .err, .hst, .time, .pwr, .ras, .lnk, .memc, .core, .stream, .linkCorr, .turn, .routes,
      .region, .part, .bars, .snaps] L) :
    RStays L a (execRcv n0 s) := by
  unfold execRcv
  repeat' with_reducible first | assumption | apply issueTile_stays | apply RStays.next

theorem execXfwdInstall_stays {L : List Field} {a s : State} {n0 : _} (h : Stays L a s)
    (hL : Sub [.mem, .hostMem, .err, .hst, .time, .pwr, .ras, .lnk, .memc, .core, .stream, .linkCorr, .turn, .routes,
      .region, .part, .bars, .snaps] L) :
    RStays L a (execXfwdInstall n0 s) := by
  unfold execXfwdInstall
  repeat' with_reducible first | assumption | apply issueTile_stays | apply RStays.next

theorem execXfwdRelease_stays {L : List Field} {a s : State} {n0 : _} (h : Stays L a s)
    (hL : Sub [.mem, .hostMem, .err, .hst, .time, .pwr, .ras, .lnk, .memc, .core, .stream, .linkCorr, .turn, .routes,
      .region, .part, .bars, .snaps] L) :
    RStays L a (execXfwdRelease n0 s) := by
  unfold execXfwdRelease
  repeat' with_reducible first | assumption | apply issueTile_stays | apply RStays.next

theorem execChrd_stays {L : List Field} {a s : State} {n0 : _} (h : Stays L a s)
    (hL : Sub [.mem, .hostMem, .err, .hst, .time, .pwr, .ras, .lnk, .memc, .core, .stream, .linkCorr, .turn, .routes,
      .region, .part, .bars, .snaps] L) :
    RStays L a (execChrd n0 s) := by
  unfold execChrd
  repeat' with_reducible first | assumption | apply issueTile_stays | apply RStays.next

theorem execChwr_stays {L : List Field} {a s : State} {n0 : _} (h : Stays L a s)
    (hL : Sub [.mem, .hostMem, .err, .hst, .time, .pwr, .ras, .lnk, .memc, .core, .stream, .linkCorr, .turn, .routes,
      .region, .part, .bars, .snaps] L) :
    RStays L a (execChwr n0 s) := by
  unfold execChwr
  repeat' with_reducible first | assumption | apply issueTile_stays | apply RStays.next

theorem execNbcCmd_stays {L : List Field} {a s : State} {n0 : _} (h : Stays L a s)
    (hL : Sub [.mem, .hostMem, .err, .hst, .time, .pwr, .ras, .lnk, .memc, .core, .stream, .linkCorr, .turn, .routes,
      .region, .part, .bars, .snaps] L) :
    RStays L a (execNbcCmd n0 s) := by
  unfold execNbcCmd
  repeat' with_reducible first | assumption | apply issueTile_stays | apply RStays.next

theorem execNbcResult_stays {L : List Field} {a s : State} {n0 : _} (h : Stays L a s)
    (hL : Sub [.mem, .hostMem, .err, .hst, .time, .pwr, .ras, .lnk, .memc, .core, .stream, .linkCorr, .turn, .routes,
      .region, .part, .bars, .snaps] L) :
    RStays L a (execNbcResult n0 s) := by
  unfold execNbcResult
  repeat' with_reducible first | assumption | apply issueTile_stays | apply RStays.next

theorem execChk_stays {L : List Field} {a s : State} {n0 : _} (h : Stays L a s)
    (hL : Sub [.mem, .hostMem, .err, .hst, .time, .pwr, .ras, .lnk, .memc, .core, .stream, .linkCorr, .turn, .routes,
      .region, .part, .bars, .snaps] L) :
    RStays L a (execChk n0 s) := by
  unfold execChk
  repeat' with_reducible first | assumption | apply issueTile_stays | apply RStays.next

theorem execOptu_stays {L : List Field} {a s : State} {n0 : _} (h : Stays L a s)
    (hL : Sub [.mem, .hostMem, .err, .hst, .time, .pwr, .ras, .lnk, .memc, .core, .stream, .linkCorr, .turn, .routes,
      .region, .part, .bars, .snaps] L) :
    RStays L a (execOptu n0 s) := by
  unfold execOptu
  repeat' with_reducible first | assumption | apply issueTile_stays | apply RStays.next

theorem execWait_stays {L : List Field} {a s : State} {n0 : _} (h : Stays L a s)
    (hL : Sub [.hostMem, .hst, .ras, .lnk, .core, .stream, .linkCorr, .routes, .part, .bars, .snaps] L) :
    RStays L a (execWait n0 s) := by
  unfold execWait
  repeat' with_reducible first
    | assumption | (intro) | apply fetched_stays | apply startWait_stays | apply RStays.next | apply RStays.ite

theorem execWaitConditionMet_stays {L : List Field} {a s : State} {n0 : _} (h : Stays L a s)
    (hL : Sub [.hostMem, .hst, .ras, .lnk, .core, .stream, .linkCorr, .routes, .part, .bars, .snaps] L) :
    RStays L a (execWaitConditionMet n0 s) := by
  unfold execWaitConditionMet
  repeat' with_reducible first | assumption | apply endWait_stays | apply RStays.next | split

theorem execBar_stays {L : List Field} {a s : State} {n0 : _} (h : Stays L a s)
    (hL : Sub [.free, .mem, .hostMem, .err, .hst, .time, .ras, .lnk, .core, .stream, .linkCorr, .routes, .part, .bars,
      .snaps] L) :
    RStays L a (execBar n0 s) := by
  unfold execBar
  repeat' with_reducible first
    | assumption | (intro) | apply fetched_stays | apply startBar_stays | apply RStays.next | apply RStays.ite
    | exact hL.of rfl

theorem execIdle_stays {L : List Field} {a s : State} {n0 : _} (h : Stays L a s)
    (hL : Sub [.free, .mem, .hostMem, .err, .hst, .time, .ras, .lnk, .core, .stream, .linkCorr, .routes, .part, .bars,
      .snaps] L) :
    RStays L a (execIdle n0 s) := by
  unfold execIdle
  repeat' with_reducible first
    | assumption | (intro) | apply fetched_stays | apply startIdle_stays | apply RStays.next | apply RStays.ite
    | exact hL.of rfl

theorem execIdleSlotEnd_stays {L : List Field} {a s : State} {n0 : _} (h : Stays L a s)
    (hL : Sub [.free, .hostMem, .hst, .ras, .lnk, .core, .stream, .linkCorr, .routes, .part, .bars, .snaps] L) :
    RStays L a (execIdleSlotEnd n0 s) := by
  unfold execIdleSlotEnd
  repeat' with_reducible first | assumption | apply endIdle_stays | apply RStays.next | split

theorem execLoop_stays {L : List Field} {a s : State} {n0 : _} (h : Stays L a s)
    (hL : Sub [.hostMem, .hst, .ras, .lnk, .core, .stream, .linkCorr, .routes, .part, .bars, .snaps] L) :
    RStays L a (execLoop n0 s) := by
  unfold execLoop
  repeat' with_reducible first
    | assumption | (intro) | apply fetched_stays | apply runLoop_stays | apply RStays.next | apply RStays.ite
    | exact hL.of rfl

theorem execSig_stays {L : List Field} {a s : State} {n0 : _} (h : Stays L a s)
    (hL : Sub [.hostMem, .hst, .ras, .lnk, .core, .stream, .linkCorr, .routes, .part, .bars, .snaps] L) :
    RStays L a (execSig n0 s) := by
  unfold execSig
  repeat' with_reducible first
    | assumption | (intro) | apply fetched_stays | apply startSig_stays | apply RStays.next | apply RStays.ite

-- Modes

theorem execRegionModeNormal_stays {L : List Field} {a s : State} {n0 : _} (h : Stays L a s)
    (hL : Sub [.mem, .hostMem, .err, .hst, .time, .pwr, .ras, .lnk, .memc, .core, .stream, .linkCorr, .turn, .routes,
      .region, .part, .bars, .snaps] L) :
    RStays L a (execRegionModeNormal n0 s) := by
  unfold execRegionModeNormal
  repeat' with_reducible first | assumption | apply modeRow_stays | apply RStays.next

theorem execRegionModeCompute_stays {L : List Field} {a s : State} {n0 : _} (h : Stays L a s)
    (hL : Sub [.mem, .hostMem, .err, .hst, .time, .pwr, .ras, .lnk, .memc, .core, .stream, .linkCorr, .turn, .routes,
      .region, .part, .bars, .snaps] L) :
    RStays L a (execRegionModeCompute n0 s) := by
  unfold execRegionModeCompute
  repeat' with_reducible first | assumption | apply modeRow_stays | apply RStays.next

theorem execRegionModeDrain_stays {L : List Field} {a s : State} {n0 : _} (h : Stays L a s)
    (hL : Sub [.mem, .hostMem, .err, .hst, .time, .pwr, .ras, .lnk, .memc, .core, .stream, .linkCorr, .turn, .routes,
      .region, .part, .bars, .snaps] L) :
    RStays L a (execRegionModeDrain n0 s) := by
  unfold execRegionModeDrain
  repeat' with_reducible first | assumption | apply modeRow_stays | apply RStays.next

theorem execNbuAdmission_stays {L : List Field} {a s : State} {n0 n1 : _} (h : Stays L a s)
    (hL : Sub [.hst, .pwr, .core, .region] L) :
    RStays L a (execNbuAdmission n0 n1 s) := by
  unfold execNbuAdmission
  repeat' with_reducible first
    | assumption | (intro) | apply grantNbu_stays | apply countAdmit_stays | apply dropAdmit_stays | apply setAdmit_stays
    | apply RStays.next | apply RStays.fault | apply RStays.ite | apply Stays.ite | split | exact hL.of rfl

theorem execAdmissionStage_stays {L : List Field} {a s : State} {n0 n1 : _} (h : Stays L a s) (hL : Sub [.pwr] L) :
    RStays L a (execAdmissionStage n0 n1 s) := by
  unfold execAdmissionStage
  repeat' with_reducible first | assumption | apply stageStep_stays | apply RStays.next | split

theorem execAdmissionWaitTimeout_stays {L : List Field} {a s : State} {n0 n1 : _} (h : Stays L a s)
    (hL : Sub [.hostMem, .hst, .pwr, .ras, .lnk, .core, .stream, .linkCorr, .routes, .region, .part, .bars, .snaps] L) :
    RStays L a (execAdmissionWaitTimeout n0 n1 s) := by
  unfold execAdmissionWaitTimeout
  repeat' with_reducible first
    | assumption | apply setAdmit_stays | apply dropAdmit_stays | apply modPwr_stays | apply refuseNbu_stays
    | apply RStays.next | split | exact hL.of rfl | refine Stays.record ?_ hL

theorem execGroupFold_stays {L : List Field} {a s : State} {n0 n1 : _} (h : Stays L a s)
    (hL : Sub [.free, .mem, .hostMem, .err, .hst, .ras, .memc, .core, .region, .out] L) :
    RStays L a (execGroupFold n0 n1 s) := by
  unfold execGroupFold
  repeat' with_reducible first
    | assumption | (intro) | apply setRegion_stays | apply takeFolds_stays | apply pumpChimney_stays | apply foldToNbc_stays
    | apply RStays.next | apply RStays.fault | apply RStays.ite | apply Stays.ite | dsimp only | exact hL.of rfl
    | refine Stays.record ?_ hL

-- Ports

theorem execPortDetect_stays {L : List Field} {a s : State} {n0 n1 : _} (h : Stays L a s)
    (hL : Sub [.hostMem, .hst, .time, .ras, .lnk, .stream] L) :
    RStays L a (execPortDetect n0 n1 s) := by
  unfold execPortDetect
  repeat' with_reducible first
    | assumption | (intro) | apply trainingFails_stays | apply movePort_stays | apply RStays.next | apply RStays.fault
    | apply RStays.ite

theorem execPortEq_stays {L : List Field} {a s : State} {n0 n1 n2 : _} (h : Stays L a s)
    (hL : Sub [.hostMem, .hst, .time, .ras, .lnk, .stream] L) :
    RStays L a (execPortEq n0 n1 n2 s) := by
  unfold execPortEq
  repeat' with_reducible first
    | assumption | (intro) | apply laneRecords_stays | apply trainingFails_stays | apply setPort_stays
    | apply movePort_stays | apply RStays.next | apply RStays.fault | apply RStays.ite | apply Stays.ite | dsimp only
    | exact hL.of rfl

theorem execPortAlign_stays {L : List Field} {a s : State} {n0 n1 n2 n3 n4 : _} (h : Stays L a s)
    (hL : Sub [.hostMem, .hst, .time, .pwr, .ras, .lnk, .stream] L) :
    RStays L a (execPortAlign n0 n1 n2 n3 n4 s) := by
  unfold execPortAlign
  repeat' with_reducible first
    | assumption | (intro) | apply trainingFails_stays | apply settlePort_stays | apply RStays.next | apply RStays.fault
    | apply RStays.ite | apply Stays.ite | dsimp only | exact hL.of rfl

theorem execPortTrainingTimeout_stays {L : List Field} {a s : State} {n0 : _} (h : Stays L a s)
    (hL : Sub [.hostMem, .hst, .time, .ras, .lnk, .stream] L) :
    RStays L a (execPortTrainingTimeout n0 s) := by
  unfold execPortTrainingTimeout
  repeat' with_reducible first
    | assumption | apply trainingFails_stays | apply RStays.next | apply RStays.ite

theorem execPortDetectRetry_stays {L : List Field} {a s : State} {n0 : _} (h : Stays L a s)
    (hL : Sub [.hostMem, .hst, .time, .ras, .lnk, .stream] L) :
    RStays L a (execPortDetectRetry n0 s) := by
  unfold execPortDetectRetry
  repeat' with_reducible first
    | assumption | (intro) | apply startTraining_stays | apply RStays.next | apply RStays.fault | apply RStays.ite

theorem execPortRetrain_stays {L : List Field} {a s : State} {n0 : _} (h : Stays L a s)
    (hL : Sub [.hostMem, .hst, .time, .pwr, .ras, .lnk, .core, .stream, .linkCorr, .routes, .part, .bars, .snaps] L) :
    RStays L a (execPortRetrain n0 s) := by
  unfold execPortRetrain
  repeat' with_reducible first | assumption | apply retrain_stays | apply RStays.next | apply RStays.ite

theorem execLaneLockLoss_stays {L : List Field} {a s : State} {n0 n1 : _} (h : Stays L a s)
    (hL : Sub [.hostMem, .hst, .time, .pwr, .ras, .lnk, .core, .stream, .linkCorr, .routes, .part, .bars, .snaps] L) :
    RStays L a (execLaneLockLoss n0 n1 s) := by
  unfold execLaneLockLoss
  repeat' with_reducible first | assumption | apply retrain_stays | apply RStays.next | apply RStays.ite

theorem execLnkRetrain_stays {L : List Field} {a s : State} {n0 : _} (h : Stays L a s)
    (hL : Sub [.hostMem, .hst, .time, .pwr, .ras, .lnk, .core, .stream, .linkCorr, .routes, .part, .bars, .snaps] L) :
    RStays L a (execLnkRetrain n0 s) := by
  unfold execLnkRetrain
  repeat' with_reducible first | assumption | apply writeRetrain_stays | apply RStays.next

theorem execIdent_stays {L : List Field} {a s : State} {n0 n1 : _} (h : Stays L a s)
    (hL : Sub [.hostMem, .hst, .time, .pwr, .ras, .lnk, .core, .stream, .linkCorr, .routes, .part, .bars, .snaps] L) :
    RStays L a (execIdent n0 n1 s) := by
  unfold execIdent
  repeat' with_reducible first | assumption | apply applyIdent_stays | apply RStays.next

theorem execTrayLock_stays {L : List Field} {a s : State} {n0 : _} (h : Stays L a s)
    (hL : Sub [.hostMem, .hst, .time, .pwr, .ras, .lnk, .core, .stream, .linkCorr, .routes, .part, .bars, .snaps] L) :
    RStays L a (execTrayLock n0 s) := by
  unfold execTrayLock
  repeat' with_reducible first | assumption | apply writeIdentity_stays | apply RStays.next

theorem execTreeTimer_stays {L : List Field} {a s : State} (h : Stays L a s) (hL : Sub [.time, .lnk, .stream] L) :
    RStays L a (execTreeTimer s) := by
  unfold execTreeTimer
  repeat' with_reducible first | assumption | apply sendTree_stays | apply RStays.next

theorem execTree_stays {L : List Field} {a s : State} {n0 n1 n2 : _} (h : Stays L a s)
    (hL : Sub [.time, .pwr, .lnk, .stream] L) :
    RStays L a (execTree n0 n1 n2 s) := by
  unfold execTree
  repeat' with_reducible first | assumption | apply takeTree_stays | apply RStays.next | apply RStays.ite

theorem execTimeExchangeTimer_stays {L : List Field} {a s : State} (h : Stays L a s)
    (hL : Sub [.hostMem, .hst, .time, .ras, .lnk, .stream] L) :
    RStays L a (execTimeExchangeTimer s) := by
  unfold execTimeExchangeTimer
  repeat' with_reducible first
    | assumption | (intro) | apply exchangeFails_stays | apply sendControl_stays | apply RStays.next | apply RStays.fault
    | apply RStays.ite | apply Stays.ite | dsimp only | split | exact hL.of rfl | refine Stays.record ?_ hL

theorem execTimeReq_stays {L : List Field} {a s : State} {n0 n1 : _} (h : Stays L a s) (hL : Sub [.time, .lnk, .stream] L) :
    RStays L a (execTimeReq n0 n1 s) := by
  unfold execTimeReq
  repeat' with_reducible first
    | assumption | apply answerTime_stays | apply RStays.next | apply RStays.ite

theorem execTimeResp_stays {L : List Field} {a s : State} {n0 n1 n2 n3 : _} (h : Stays L a s)
    (hL : Sub [.hostMem, .hst, .time, .ras] L) :
    RStays L a (execTimeResp n0 n1 n2 n3 s) := by
  unfold execTimeResp
  repeat' with_reducible first | assumption | apply takeResp_stays | apply RStays.next | apply RStays.ite

theorem execSlackReport_stays {L : List Field} {a s : State} {n0 : _} (h : Stays L a s)
    (hL : Sub [.time, .pwr, .lnk, .stream] L) :
    RStays L a (execSlackReport n0 s) := by
  unfold execSlackReport
  repeat' with_reducible first
    | assumption | (intro) | apply sendSlack_stays | apply leaveJobs_stays | apply RStays.next | apply RStays.fault
    | apply Stays.foldl | apply PStays.foldl | dsimp only | exact hL.of rfl | refine Stays.record ?_ hL

theorem execSlackReportReceived_stays {L : List Field} {a s : State} {n0 n1 : _} (h : Stays L a s) (hL : Sub [.pwr] L) :
    RStays L a (execSlackReportReceived n0 n1 s) := by
  unfold execSlackReportReceived
  repeat' with_reducible first
    | assumption | apply recordSlack_stays | apply RStays.next | apply RStays.ite

theorem execBalancePeriod_stays {L : List Field} {a s : State} {n0 : _} (h : Stays L a s)
    (hL : Sub [.time, .pwr, .lnk, .stream] L) :
    RStays L a (execBalancePeriod n0 s) := by
  unfold execBalancePeriod
  repeat' with_reducible first
    | assumption | (intro) | apply sendAssign_stays | apply RStays.next | apply RStays.fault | apply RStays.ite
    | apply Stays.ite | apply Stays.foldl | apply PStays.foldl | dsimp only | split | exact hL.of rfl
    | refine Stays.record ?_ hL

theorem execSlackAssign_stays {L : List Field} {a s : State} {n0 n1 : _} (h : Stays L a s) (hL : Sub [.pwr] L) :
    RStays L a (execSlackAssign n0 n1 s) := by
  unfold execSlackAssign
  repeat' with_reducible first
    | assumption | apply RStays.next | apply RStays.ite | exact hL.of rfl | refine Stays.record ?_ hL

theorem execAssignTimeout_stays {L : List Field} {a s : State} (h : Stays L a s) (hL : Sub [.hostMem, .hst, .pwr, .ras] L) :
    RStays L a (execAssignTimeout s) := by
  unfold execAssignTimeout
  repeat' with_reducible first
    | assumption | apply reportContained_stays | apply RStays.next | apply RStays.ite | exact hL.of rfl
    | refine Stays.record ?_ hL

-- Flits

theorem execNakReceived_stays {L : List Field} {a s : State} {n0 n1 : _} (h : Stays L a s)
    (hL : Sub [.hostMem, .hst, .time, .pwr, .ras, .lnk, .core, .stream, .linkCorr, .routes, .part, .bars, .snaps] L) :
    RStays L a (execNakReceived n0 n1 s) := by
  unfold execNakReceived
  repeat' with_reducible first
    | assumption | apply pumpPort_stays | apply takeNak_stays | apply RStays.next | apply RStays.ite | exact hL.of rfl

theorem execAckTimeout_stays {L : List Field} {a s : State} {n0 : _} (h : Stays L a s)
    (hL : Sub [.hostMem, .hst, .time, .pwr, .ras, .lnk, .core, .stream, .linkCorr, .routes, .part, .bars, .snaps] L) :
    RStays L a (execAckTimeout n0 s) := by
  unfold execAckTimeout
  repeat' with_reducible first | assumption | apply retrain_stays | apply RStays.next | apply RStays.ite

theorem execFlitReceived_stays {L : List Field} {a s : State} {n0 n1 n2 n3 : _} (h : Stays L a s)
    (hL : Sub [.hostMem, .hst, .time, .pwr, .ras, .lnk, .core, .stream, .linkCorr, .routes, .part, .bars, .snaps] L) :
    RStays L a (execFlitReceived n0 n1 n2 n3 s) := by
  unfold execFlitReceived
  repeat' with_reducible first
    | assumption | (intro) | apply modPort_stays | apply idleNak_stays | apply pumpPort_stays | apply takeFlit_stays
    | apply RStays.next | apply RStays.fault | apply RStays.ite | apply Stays.ite | dsimp only | split | exact hL.of rfl

-- Faults

theorem execCorrectedMergeExpiry_stays {L : List Field} {a s : State} {n0 n1 n2 : _} (h : Stays L a s)
    (hL : Sub [.hostMem, .hst, .ras] L) :
    RStays L a (execCorrectedMergeExpiry n0 n1 n2 s) := by
  unfold execCorrectedMergeExpiry
  repeat' with_reducible first
    | assumption | apply emitRecord_stays | apply RStays.next | split | exact hL.of rfl | refine Stays.record ?_ hL

theorem execLogEnable_stays {L : List Field} {a s : State} {n0 : _} (h : Stays L a s) (hL : Sub [.hostMem, .ras] L) :
    RStays L a (execLogEnable n0 s) := by
  unfold execLogEnable
  repeat' with_reducible first | assumption | apply writeLogCfg_stays | apply RStays.next

theorem execSignatureEnable_stays {L : List Field} {a s : State} {n0 : _} (h : Stays L a s) (hL : Sub [.ras] L) :
    RStays L a (execSignatureEnable n0 s) := by
  unfold execSignatureEnable
  repeat' with_reducible first | assumption | apply writeSigCfg_stays | apply RStays.next

theorem execWeevilSlice_stays {L : List Field} {a s : State} (h : Stays L a s) (hL : Sub [.weevil] L) :
    RStays L a (execWeevilSlice s) := by
  unfold execWeevilSlice
  repeat' with_reducible first
    | assumption | apply nextVisit_stays | apply trySlice_stays | apply RStays.next | apply RStays.ite

theorem execWeevilSliceComplete_stays {L : List Field} {a s : State} {n0 : _} (h : Stays L a s)
    (hL : Sub [.hostMem, .dev, .hst, .ras, .lnk, .weevil, .core, .stream, .linkCorr, .routes, .part, .bars, .snaps] L) :
    RStays L a (execWeevilSliceComplete n0 s) := by
  unfold execWeevilSliceComplete
  repeat' with_reducible first
    | assumption | apply nextVisit_stays | apply quarantineCore_stays | apply RStays.next | apply RStays.ite
    | exact hL.of rfl | refine Stays.record ?_ hL

theorem execWeevilVisitTimeout_stays {L : List Field} {a s : State} (h : Stays L a s) (hL : Sub [.weevil] L) :
    RStays L a (execWeevilVisitTimeout s) := by
  unfold execWeevilVisitTimeout
  repeat' with_reducible first
    | assumption | apply nextVisit_stays | apply RStays.next | apply RStays.ite | exact hL.of rfl
    | refine Stays.record ?_ hL

theorem execWeevilDisable_stays {L : List Field} {a s : State} (h : Stays L a s) (hL : Sub [.weevil] L) :
    RStays L a (execWeevilDisable s) := by
  unfold execWeevilDisable
  repeat' with_reducible first | assumption | apply writeWeevil_stays | apply RStays.next

theorem execRouterParityFailure_stays {L : List Field} {a s : State} {n0 : _} (h : Stays L a s)
    (hL : Sub [.hostMem, .dev, .hst, .ras, .lnk, .core, .stream, .linkCorr, .routes, .part, .bars, .snaps] L) :
    RStays L a (execRouterParityFailure n0 s) := by
  unfold execRouterParityFailure
  repeat' with_reducible first
    | assumption | (intro) | apply routerQuarantine_stays | apply routerFault_stays | apply RStays.next | apply RStays.fault
    | apply RStays.ite | apply Stays.ite | dsimp only | split | exact hL.of rfl | refine Stays.record ?_ hL

theorem execRecoveryRestoreComplete_stays {L : List Field} {a s : State} {n0 n1 : _} (h : Stays L a s)
    (hL : Sub [.free, .mem, .hostMem, .err, .dev, .hst, .time, .pwr, .ras, .lnk, .memc, .core, .stream, .linkCorr,
      .routes, .region, .chim, .part, .bars, .snaps, .kv] L) :
    RStays L a (execRecoveryRestoreComplete n0 n1 s) := by
  unfold execRecoveryRestoreComplete
  repeat' with_reducible first
    | assumption | apply recoveryReset_stays | apply restartRecovery_stays | apply restoreFrom_stays
    | apply reloadPlan_stays | apply RStays.next | dsimp only | split | exact hL.of rfl

theorem execRecoveryEpisodeEnd_stays {L : List Field} {a s : State} {n0 : _} (h : Stays L a s) (hL : Sub [.part] L) :
    RStays L a (execRecoveryEpisodeEnd n0 s) := by
  unfold execRecoveryEpisodeEnd
  repeat' with_reducible first
    | assumption | apply modPart_stays | apply RStays.next | apply RStays.ite | split

-- KvOps

theorem execKvSetup_stays {L : List Field} {a s : State} {n0 : _} (h : Stays L a s)
    (hL : Sub [.free, .mem, .hostMem, .err, .hst, .ras, .region, .kv] L) :
    RStays L a (execKvSetup n0 s) := by
  unfold execKvSetup
  repeat' with_reducible first
    | assumption | (intro) | apply descRow_stays | apply kvSetupEff_stays | apply RStays.next | exact hL.of rfl

theorem execKvRelease_stays {L : List Field} {a s : State} {n0 : _} (h : Stays L a s)
    (hL : Sub [.mem, .hostMem, .err, .hst, .ras, .region, .kv] L) :
    RStays L a (execKvRelease n0 s) := by
  unfold execKvRelease
  repeat' with_reducible first
    | assumption | (intro) | apply descRow_stays | apply kvReleaseEff_stays | apply RStays.next | exact hL.of rfl

theorem execKvPte_stays {L : List Field} {a s : State} {n0 : _} (h : Stays L a s)
    (hL : Sub [.mem, .hostMem, .err, .hst, .ras, .region] L) :
    RStays L a (execKvPte n0 s) := by
  unfold execKvPte
  repeat' with_reducible first
    | assumption | (intro) | apply descRow_stays | apply kvPteEff_stays | apply RStays.next | exact hL.of rfl

theorem execKvSeqRegister_stays {L : List Field} {a s : State} {n0 : _} (h : Stays L a s) (hL : Sub [.hst, .kv] L) :
    RStays L a (execKvSeqRegister n0 s) := by
  unfold execKvSeqRegister
  repeat' with_reducible first
    | assumption | (intro) | apply descRow_stays | apply kvSeqEff_stays | apply RStays.next | exact hL.of rfl

theorem execKvSeqPause_stays {L : List Field} {a s : State} {n0 : _} (h : Stays L a s) (hL : Sub [.hst, .kv] L) :
    RStays L a (execKvSeqPause n0 s) := by
  unfold execKvSeqPause
  repeat' with_reducible first
    | assumption | (intro) | apply descRow_stays | apply kvSeqEff_stays | apply RStays.next | exact hL.of rfl

theorem execKvSeqResume_stays {L : List Field} {a s : State} {n0 : _} (h : Stays L a s) (hL : Sub [.hst, .kv] L) :
    RStays L a (execKvSeqResume n0 s) := by
  unfold execKvSeqResume
  repeat' with_reducible first
    | assumption | (intro) | apply descRow_stays | apply kvSeqEff_stays | apply RStays.next | exact hL.of rfl

theorem execKvSeqRemove_stays {L : List Field} {a s : State} {n0 : _} (h : Stays L a s) (hL : Sub [.hst, .kv] L) :
    RStays L a (execKvSeqRemove n0 s) := by
  unfold execKvSeqRemove
  repeat' with_reducible first
    | assumption | (intro) | apply descRow_stays | apply kvSeqEff_stays | apply RStays.next | exact hL.of rfl

-- SecOps

theorem execAttest_stays {L : List Field} {a s : State} {n0 : _} (h : Stays L a s)
    (hL : Sub [.free, .hostMem, .hst, .sec] L) :
    RStays L a (execAttest n0 s) := by
  unfold execAttest
  repeat' with_reducible first
    | assumption | (intro) | apply descRow_stays | apply attestEff_stays | apply RStays.next | exact hL.of rfl

theorem execDbgChallenge_stays {L : List Field} {a s : State} (h : Stays L a s) (hL : Sub [.free, .sec, .tap] L) :
    RStays L a (execDbgChallenge s) := by
  unfold execDbgChallenge
  repeat' with_reducible first
    | assumption | (intro) | apply draw_stays | apply RStays.next | apply RStays.fault | apply RStays.ite | apply Stays.ite
    | dsimp only | exact hL.of rfl | refine Stays.record ?_ hL

theorem execDbgResponse_stays {L : List Field} {a s : State} {n0 : _} (h : Stays L a s)
    (hL : Sub [.hostMem, .dev, .hst, .ras, .sec, .tap] L) :
    RStays L a (execDbgResponse n0 s) := by
  unfold execDbgResponse
  repeat' with_reducible first
    | assumption | (intro) | apply unlockDebug_stays | apply failDebug_stays | apply RStays.next | apply RStays.fault
    | apply RStays.ite | apply Stays.ite | dsimp only | exact hL.of rfl | refine Stays.record ?_ hL

-- Groups

theorem execLicInstall_stays {L : List Field} {a s : State} {n0 n1 : _} (h : Stays L a s)
    (hL : Sub [.free, .mem, .hostMem, .err, .dev, .boot, .hst, .time, .pwr, .ras, .sec, .lnk, .memc, .core, .stream,
      .linkCorr, .routes, .region, .part, .bars, .snaps, .kv, .out] L) :
    RStays L a (execLicInstall n0 n1 s) := by
  unfold execLicInstall
  repeat' with_reducible first
    | assumption | (intro) | apply takeOutcome_stays | apply descRow_stays | apply licInstallEff_stays | apply RStays.next
    | apply RStays.fault | apply RStays.ite | apply Stays.ite | refine EStays.get_ok ‹_› ?_ | refine EStays.get_fail ‹_› ?_
    | refine EStays.get_run ‹_› ?_ | split | exact hL.of rfl

theorem execFwUpdate_stays {L : List Field} {a s : State} {n0 n1 : _} (h : Stays L a s)
    (hL : Sub [.free, .mem, .hostMem, .err, .dev, .boot, .hst, .time, .pwr, .ras, .sec, .lnk, .memc, .core, .stream,
      .linkCorr, .routes, .region, .part, .bars, .snaps, .kv, .out] L) :
    RStays L a (execFwUpdate n0 n1 s) := by
  unfold execFwUpdate
  repeat' with_reducible first
    | assumption | (intro) | apply takeOutcome_stays | apply descRow_stays | apply fwUpdateEff_stays | apply RStays.next
    | apply RStays.fault | dsimp only | refine EStays.get_ok ‹_› ?_ | refine EStays.get_fail ‹_› ?_
    | refine EStays.get_run ‹_› ?_ | split | exact hL.of rfl

theorem execDescriptorArrival_stays {L : List Field} {a s : State} {n0 : _} (h : Stays L a s)
    (hL : Sub [.free, .mem, .hostMem, .err, .dev, .boot, .hst, .time, .pwr, .ras, .sec, .lnk, .memc, .core, .stream,
      .linkCorr, .routes, .region, .part, .bars, .snaps, .kv, .out] L) :
    RStays L a (execDescriptorArrival n0 s) := by
  unfold execDescriptorArrival
  repeat' with_reducible first
    | assumption | (intro) | apply setChan_stays | apply arriveWrong_stays | apply arriveInGroup_stays
    | apply arriveAlone_stays | apply RStays.next | apply RStays.fault | apply RStays.ite | apply Stays.ite | dsimp only
    | split | exact hL.of rfl

theorem execGroupAdmission_stays {L : List Field} {a s : State} {n0 : _} (h : Stays L a s)
    (hL : Sub [.free, .mem, .hostMem, .err, .dev, .boot, .hst, .time, .pwr, .ras, .sec, .lnk, .memc, .core, .stream,
      .linkCorr, .routes, .region, .part, .bars, .snaps, .kv, .out] L) :
    RStays L a (execGroupAdmission n0 s) := by
  unfold execGroupAdmission
  repeat' with_reducible first
    | assumption | apply modChan_stays | apply afterMember_stays | apply RStays.next | split | exact hL.of rfl

theorem execGroupTimeout_stays {L : List Field} {a s : State} {n0 : _} (h : Stays L a s) (hL : Sub [.hst] L) :
    RStays L a (execGroupTimeout n0 s) := by
  unfold execGroupTimeout
  repeat' with_reducible first
    | assumption | (intro) | apply joinFetched_stays | apply abortGroup_stays | apply RStays.next | apply RStays.fault
    | apply RStays.ite | apply Stays.ite | dsimp only | split

theorem execCompletionTimeout_stays {L : List Field} {a s : State} {n0 : _} (h : Stays L a s)
    (hL : Sub [.free, .mem, .hostMem, .err, .dev, .boot, .hst, .time, .pwr, .ras, .sec, .lnk, .memc, .core, .stream,
      .linkCorr, .routes, .region, .part, .bars, .snaps, .kv, .out] L) :
    RStays L a (execCompletionTimeout n0 s) := by
  unfold execCompletionTimeout
  repeat' with_reducible first
    | assumption | (intro) | apply readFailure_stays | apply RStays.next

theorem execCompletionError_stays {L : List Field} {a s : State} {n0 n1 : _} (h : Stays L a s)
    (hL : Sub [.free, .mem, .hostMem, .err, .dev, .boot, .hst, .time, .pwr, .ras, .sec, .lnk, .memc, .core, .stream,
      .linkCorr, .routes, .region, .part, .bars, .snaps, .kv, .out] L) :
    RStays L a (execCompletionError n0 n1 s) := by
  unfold execCompletionError
  repeat' with_reducible first
    | assumption | (intro) | apply readFailure_stays | apply RStays.next

theorem execDescriptorCompletion_stays {L : List Field} {a s : State} {n0 : _} (h : Stays L a s)
    (hL : Sub [.free, .mem, .hostMem, .err, .dev, .boot, .hst, .time, .pwr, .ras, .sec, .lnk, .memc, .core, .stream,
      .linkCorr, .routes, .region, .part, .bars, .snaps, .kv, .out] L) :
    RStays L a (execDescriptorCompletion n0 s) := by
  unfold execDescriptorCompletion
  repeat' with_reducible first
    | assumption | (intro) | apply continueLoad_stays | apply endGroup_stays | apply continueAll_stays
    | apply writeDone_stays | apply RStays.next | apply RStays.fault | apply Stays.foldl | apply PStays.foldl | dsimp only
    | exact hL.of rfl

-- Startup

theorem execPwrOkRise_stays {L : List Field} {a s : State} (h : Stays L a s)
    (hL : Sub [.mem, .hostMem, .err, .repair, .strap, .pins, .dev, .boot, .hst, .clk, .time, .pwr, .thm, .ras, .sec, .lnk,
      .memc, .weevil, .tap, .core, .stream, .linkCorr, .turn, .routes, .region, .chim, .part, .bars, .snaps, .kv] L) :
    RStays L a (execPwrOkRise s) := by
  unfold execPwrOkRise
  repeat' with_reducible first
    | assumption | (intro) | apply powerOff_stays | apply setDevState_stays | apply holdReset_stays | apply RStays.next
    | apply RStays.fault | apply RStays.ite | apply Stays.ite | dsimp only | exact hL.of rfl | refine Stays.record ?_ hL

theorem execRootPllRelease_stays {L : List Field} {a s : State} (h : Stays L a s) (hL : Sub [.clk, .pwr] L) :
    RStays L a (execRootPllRelease s) := by
  unfold execRootPllRelease
  repeat' with_reducible first
    | assumption | (intro) | apply RStays.next | apply RStays.fault | apply RStays.ite | apply Stays.ite | exact hL.of rfl
    | refine Stays.record ?_ hL

theorem execRootPllLock_stays {L : List Field} {a s : State} (h : Stays L a s)
    (hL : Sub [.hostMem, .pins, .dev, .boot, .hst, .clk, .time, .ras] L) :
    RStays L a (execRootPllLock s) := by
  unfold execRootPllLock
  repeat' with_reducible first
    | assumption | apply startKindling_stays | apply setDevState_stays | apply pllsLocked_stays | apply RStays.next
    | apply RStays.ite | exact hL.of rfl

theorem execRootPllLockTimeout_stays {L : List Field} {a s : State} (h : Stays L a s)
    (hL : Sub [.hostMem, .pins, .dev, .boot, .hst, .clk, .ras] L) :
    RStays L a (execRootPllLockTimeout s) := by
  unfold execRootPllLockTimeout
  repeat' with_reducible first
    | assumption | apply holdReset_stays | apply RStays.next | apply RStays.ite | exact hL.of rfl
    | refine Stays.record ?_ hL

theorem execFlashDiscoveryTimeout_stays {L : List Field} {a s : State} (h : Stays L a s)
    (hL : Sub [.hostMem, .pins, .dev, .boot, .hst, .clk, .ras] L) :
    RStays L a (execFlashDiscoveryTimeout s) := by
  unfold execFlashDiscoveryTimeout
  repeat' with_reducible first | assumption | apply holdReset_stays | apply RStays.next | apply RStays.ite

theorem execPrivilegedImageVerify_stays {L : List Field} {a s : State} (h : Stays L a s)
    (hL : Sub [.hostMem, .pins, .dev, .boot, .hst, .clk, .ras, .sec, .lnk] L) :
    RStays L a (execPrivilegedImageVerify s) := by
  unfold execPrivilegedImageVerify
  repeat' with_reducible first
    | assumption | (intro) | apply kindle_stays | apply bundleFails_stays | apply toStage_stays | apply securityRuns_stays
    | apply RStays.next | apply RStays.fault | apply RStays.ite | apply Stays.ite | exact hL.of rfl

theorem execAnalogueSelftest_stays {L : List Field} {a s : State} {n0 : _} (h : Stays L a s)
    (hL : Sub [.hostMem, .pins, .dev, .boot, .hst, .clk, .thm, .ras, .lnk] L) :
    RStays L a (execAnalogueSelftest n0 s) := by
  unfold execAnalogueSelftest
  repeat' with_reducible first
    | assumption | (intro) | apply toStage_stays | apply holdReset_stays | apply crossCheck_stays | apply excludeLanes_stays
    | apply RStays.next | apply RStays.fault | apply RStays.ite | apply Stays.ite | split | exact hL.of rfl

theorem execTierPowerUp_stays {L : List Field} {a s : State} {n0 n1 n2 n3 : _} (h : Stays L a s)
    (hL : Sub [.hostMem, .pins, .dev, .boot, .hst, .clk, .pwr, .ras] L) :
    RStays L a (execTierPowerUp n0 n1 n2 n3 s) := by
  unfold execTierPowerUp
  repeat' with_reducible first
    | assumption | (intro) | apply railsUp_stays | apply holdReset_stays | apply startBypass_stays | apply toStage_stays
    | apply RStays.next | apply RStays.fault | apply RStays.ite | apply Stays.ite | dsimp only | exact hL.of rfl

theorem execLogicBist_stays {L : List Field} {a s : State} {n0 : _} (h : Stays L a s)
    (hL : Sub [.hostMem, .pins, .dev, .boot, .hst, .clk, .ras] L) :
    RStays L a (execLogicBist n0 s) := by
  unfold execLogicBist
  repeat' with_reducible first
    | assumption | apply holdReset_stays | apply toStage_stays | apply RStays.next | split | exact hL.of rfl

theorem execCheckerSelftest_stays {L : List Field} {a s : State} {n0 : _} (h : Stays L a s)
    (hL : Sub [.hostMem, .pins, .dev, .boot, .hst, .clk, .ras, .memc] L) :
    RStays L a (execCheckerSelftest n0 s) := by
  unfold execCheckerSelftest
  repeat' with_reducible first
    | assumption | apply holdReset_stays | apply toStage_stays | apply RStays.next | apply RStays.ite | split
    | exact hL.of rfl | refine Stays.record ?_ hL

theorem execMemoryFill_stays {L : List Field} {a s : State} (h : Stays L a s) (hL : Sub [.mem, .err, .boot, .memc] L) :
    RStays L a (execMemoryFill s) := by
  unfold execMemoryFill
  repeat' with_reducible first
    | assumption | apply toStage_stays | apply fillMemory_stays | apply RStays.next | apply RStays.ite | exact hL.of rfl

theorem execFuseRepair_stays {L : List Field} {a s : State} (h : Stays L a s)
    (hL : Sub [.hostMem, .repair, .boot, .hst, .clk, .time, .ras, .lnk, .core, .stream, .chim] L) :
    RStays L a (execFuseRepair s) := by
  unfold execFuseRepair
  repeat' with_reducible first
    | assumption | (intro) | apply trainPorts_stays | apply toStage_stays | apply applyAgeing_stays
    | apply holdQuarantined_stays | apply repairChimneys_stays | apply repairSites_stays | apply RStays.next
    | apply RStays.fault | apply RStays.ite | apply Stays.ite | exact hL.of rfl

theorem execMicrocodeDelivery_stays {L : List Field} {a s : State} {n0 : _} (h : Stays L a s)
    (hL : Sub [.hostMem, .pins, .dev, .boot, .hst, .clk, .ras] L) :
    RStays L a (execMicrocodeDelivery n0 s) := by
  unfold execMicrocodeDelivery
  repeat' with_reducible first
    | assumption | (intro) | apply bundleFails_stays | apply holdReset_stays | apply storeUcode_stays | apply RStays.next
    | apply RStays.fault | apply RStays.ite | apply Stays.ite | dsimp only | split | exact hL.of rfl

theorem execTrainingWaitEnd_stays {L : List Field} {a s : State} (h : Stays L a s) (hL : Sub [.boot] L) :
    RStays L a (execTrainingWaitEnd s) := by
  unfold execTrainingWaitEnd
  repeat' with_reducible first
    | assumption | apply RStays.next | apply RStays.ite | exact hL.of rfl | refine Stays.record ?_ hL

theorem execDeviceReady_stays {L : List Field} {a s : State} (h : Stays L a s)
    (hL : Sub [.hostMem, .dev, .boot, .hst, .clk, .pwr, .ras, .weevil] L) :
    RStays L a (execDeviceReady s) := by
  unfold execDeviceReady
  repeat' with_reducible first
    | assumption | (intro) | apply stepUp_stays | apply toStage_stays | apply setDevState_stays | apply readyRecords_stays
    | apply releaseHeldWrites_stays | apply RStays.next | apply RStays.ite | apply Stays.foldl | exact hL.of rfl
    | refine Stays.record ?_ hL

theorem execSvnAdvance_stays {L : List Field} {a s : State} (h : Stays L a s) (hL : Sub [.fuse] L) :
    RStays L a (execSvnAdvance s) := by
  unfold execSvnAdvance
  repeat' with_reducible first
    | assumption | (intro) | apply advance_stays | apply RStays.next | apply RStays.fault | apply RStays.ite
    | apply Stays.ite | dsimp only | split | exact hL.of rfl | refine Stays.record ?_ hL

theorem execMailboxPush_stays {L : List Field} {a s : State} {n0 : _} (h : Stays L a s)
    (hL : Sub [.hostMem, .dev, .boot, .hst, .ras, .lnk] L) :
    RStays L a (execMailboxPush n0 s) := by
  unfold execMailboxPush
  repeat' with_reducible first | assumption | apply writeMboxCtrl_stays | apply RStays.next

theorem execMailboxLast_stays {L : List Field} {a s : State} {n0 : _} (h : Stays L a s)
    (hL : Sub [.hostMem, .dev, .boot, .hst, .ras, .lnk] L) :
    RStays L a (execMailboxLast n0 s) := by
  unfold execMailboxLast
  repeat' with_reducible first | assumption | apply writeMboxCtrl_stays | apply RStays.next

theorem execMailboxTimeout_stays {L : List Field} {a s : State} (h : Stays L a s)
    (hL : Sub [.hostMem, .pins, .dev, .boot, .hst, .clk, .ras] L) :
    RStays L a (execMailboxTimeout s) := by
  unfold execMailboxTimeout
  repeat' with_reducible first | assumption | apply holdReset_stays | apply RStays.next | apply RStays.ite

-- Resets

theorem execPerstAssert_stays {L : List Field} {a s : State} (h : Stays L a s) (hL : Sub [.pins, .dev, .hst] L) :
    RStays L a (execPerstAssert s) := by
  unfold execPerstAssert
  repeat' with_reducible first
    | assumption | apply pcieDown_stays | apply wantReset_stays | apply RStays.next | apply RStays.ite | exact hL.of rfl
    | refine Stays.record ?_ hL

theorem execPerstDeassertion_stays {L : List Field} {a s : State} (h : Stays L a s) (hL : Sub [.pins] L) :
    RStays L a (execPerstDeassertion s) := by
  unfold execPerstDeassertion
  repeat' with_reducible first | assumption | apply RStays.next | exact hL.of rfl | refine Stays.record ?_ hL

theorem execPcieLinkTrained_stays {L : List Field} {a s : State} {n0 n1 : _} (h : Stays L a s) (hL : Sub [.hst] L) :
    RStays L a (execPcieLinkTrained n0 n1 s) := by
  unfold execPcieLinkTrained
  repeat' with_reducible first
    | assumption | apply RStays.next | apply RStays.ite | exact hL.of rfl | refine Stays.record ?_ hL

theorem execPeRefclkLoss_stays {L : List Field} {a s : State} (h : Stays L a s) (hL : Sub [.hst] L) :
    RStays L a (execPeRefclkLoss s) := by
  unfold execPeRefclkLoss
  repeat' with_reducible first | assumption | apply pcieDown_stays | apply RStays.next

theorem execWarmReset_stays {L : List Field} {a s : State} {n0 : _} (h : Stays L a s)
    (hL : Sub [.free, .mem, .hostMem, .err, .pins, .dev, .boot, .hst, .clk, .time, .pwr, .ras, .sec, .lnk, .memc, .weevil,
      .core, .stream, .linkCorr, .routes, .region, .part, .bars, .snaps, .kv] L) :
    RStays L a (execWarmReset n0 s) := by
  unfold execWarmReset
  repeat' with_reducible first
    | assumption | (intro) | apply beginWarmReset_stays | apply undefinedStatus_stays | apply RStays.next
    | apply RStays.fault | apply RStays.ite

theorem execFirmwareWatchdog_stays {L : List Field} {a s : State} (h : Stays L a s)
    (hL : Sub [.hostMem, .pins, .dev, .boot, .hst, .clk, .ras] L) :
    RStays L a (execFirmwareWatchdog s) := by
  unfold execFirmwareWatchdog
  repeat' with_reducible first
    | assumption | (intro) | apply stopFirmware_stays | apply wantReset_stays | apply report_stays | apply holdReset_stays
    | apply RStays.next | apply RStays.fault | apply RStays.ite | apply Stays.ite | dsimp only | exact hL.of rfl

theorem execFlashWriteRetry_stays {L : List Field} {a s : State} {n0 : _} (h : Stays L a s)
    (hL : Sub [.hostMem, .hst, .ras] L) :
    RStays L a (execFlashWriteRetry n0 s) := by
  unfold execFlashWriteRetry
  repeat' with_reducible first
    | assumption | apply reportContained_stays | apply RStays.next | apply RStays.ite | exact hL.of rfl
    | refine Stays.record ?_ hL

-- Thermal

theorem execCoolantReport_stays {L : List Field} {a s : State} {n0 n1 : _} (h : Stays L a s)
    (hL : Sub [.hostMem, .hst, .thm, .ras] L) :
    RStays L a (execCoolantReport n0 n1 s) := by
  unfold execCoolantReport
  repeat' with_reducible first
    | assumption | apply heatBalance_stays | apply coolantRangeCheck_stays | apply RStays.next | apply RStays.ite
    | exact hL.of rfl | refine Stays.record ?_ hL

theorem execCoolantReportTimeout_stays {L : List Field} {a s : State} (h : Stays L a s)
    (hL : Sub [.hostMem, .hst, .thm, .ras] L) :
    RStays L a (execCoolantReportTimeout s) := by
  unfold execCoolantReportTimeout
  repeat' with_reducible first
    | assumption | apply reportContained_stays | apply RStays.next | apply RStays.ite | exact hL.of rfl
    | refine Stays.record ?_ hL

theorem execSensorSample_stays {L : List Field} {a s : State} {n0 : _} (h : Stays L a s) (hL : Sub [.thm, .memc] L) :
    RStays L a (execSensorSample n0 s) := by
  unfold execSensorSample
  repeat' with_reducible first
    | assumption | (intro) | apply modLayer_stays | apply shortenInterval_stays | apply RStays.next | apply RStays.fault
    | apply RStays.ite | apply Stays.ite | apply Stays.foldl | apply PStays.foldl | dsimp only | exact hL.of rfl

theorem execRefreshIntervalRelax_stays {L : List Field} {a s : State} {n0 : _} (h : Stays L a s) (hL : Sub [.memc] L) :
    RStays L a (execRefreshIntervalRelax n0 s) := by
  unfold execRefreshIntervalRelax
  repeat' with_reducible first
    | assumption | apply RStays.next | apply RStays.ite | exact hL.of rfl | refine Stays.record ?_ hL

theorem execThermalModelRun_stays {L : List Field} {a s : State} (h : Stays L a s)
    (hL : Sub [.free, .mem, .hostMem, .err, .pins, .dev, .hst, .clk, .time, .pwr, .thm, .ras, .lnk, .weevil, .core,
      .stream, .linkCorr, .routes, .region, .part, .bars, .snaps] L) :
    RStays L a (execThermalModelRun s) := by
  unfold execThermalModelRun
  repeat' with_reducible first
    | assumption | (intro) | apply modLayer_stays | apply suspectLayer_stays | apply rotationRequests_stays
    | apply thermalTier_stays | apply thermalSafe_stays | apply RStays.next | apply RStays.fault | apply RStays.ite
    | apply Stays.ite | apply Stays.foldl | apply PStays.foldl | dsimp only | exact hL.of rfl | refine Stays.record ?_ hL

theorem execCeRateWindow_stays {L : List Field} {a s : State} {n0 : _} (h : Stays L a s)
    (hL : Sub [.free, .mem, .hostMem, .err, .pins, .dev, .hst, .clk, .time, .pwr, .thm, .ras, .lnk, .weevil, .core,
      .stream, .linkCorr, .routes, .region, .part, .bars, .snaps] L) :
    RStays L a (execCeRateWindow n0 s) := by
  unfold execCeRateWindow
  repeat' with_reducible first
    | assumption | (intro) | apply thermalSafe_stays | apply modLayer_stays | apply RStays.next | apply RStays.fault
    | apply RStays.ite | apply Stays.ite | apply Stays.foldl | apply PStays.foldl | dsimp only | exact hL.of rfl
    | refine Stays.record ?_ hL

theorem execThermtrip_stays {L : List Field} {a s : State} (h : Stays L a s)
    (hL : Sub [.hostMem, .boot, .hst, .clk, .pwr, .thm, .ras, .lnk, .memc, .core, .stream, .linkCorr, .routes, .part,
      .bars, .snaps] L) :
    RStays L a (execThermtrip s) := by
  unfold execThermtrip
  repeat' with_reducible first
    | assumption | (intro) | apply report_stays | apply stopClock_stays | apply modPwr_stays | apply stopPartition_stays
    | apply RStays.next | apply RStays.fault | apply RStays.ite | apply Stays.ite | apply Stays.foldl | apply PStays.foldl
    | dsimp only | exact hL.of rfl | refine Stays.record ?_ hL

theorem execAgeingMeasurement_stays {L : List Field} {a s : State} {n0 n1 n2 : _} (h : Stays L a s)
    (hL : Sub [.hostMem, .dev, .hst, .clk, .pwr, .thm, .ras] L) :
    RStays L a (execAgeingMeasurement n0 n1 n2 s) := by
  unfold execAgeingMeasurement
  repeat' with_reducible first
    | assumption | (intro) | apply refitStep_stays | apply keepStored_stays | apply modAge_stays | apply modPwr_stays
    | apply ringRecord_stays | apply checkDegraded_stays | apply requestNeeded_stays | apply RStays.next
    | apply RStays.fault | apply RStays.ite | apply Stays.ite | apply Stays.foldl | apply PStays.foldl | dsimp only
    | exact hL.of rfl

theorem execPoweredHoursUpdate_stays {L : List Field} {a s : State} (h : Stays L a s) (hL : Sub [.thm, .ras] L) :
    RStays L a (execPoweredHoursUpdate s) := by
  unfold execPoweredHoursUpdate
  repeat' with_reducible first
    | assumption | (intro) | apply keepStored_stays | apply RStays.next | apply RStays.fault | apply RStays.ite
    | apply Stays.ite | dsimp only | exact hL.of rfl | refine Stays.record ?_ hL

-- TierMem

theorem execRefreshCommand_stays {L : List Field} {a s : State} {n0 n1 : _} (h : Stays L a s) (hL : Sub [.region] L) :
    RStays L a (execRefreshCommand n0 n1 s) := by
  unfold execRefreshCommand
  repeat' with_reducible first | assumption | apply modRegion_stays | apply RStays.next | apply RStays.ite

theorem execDramScrubPage_stays {L : List Field} {a s : State} {n0 n1 : _} (h : Stays L a s)
    (hL : Sub [.mem, .hostMem, .err, .hst, .ras, .memc, .region] L) :
    RStays L a (execDramScrubPage n0 n1 s) := by
  unfold execDramScrubPage
  repeat' with_reducible first
    | assumption | (intro) | apply endRegionLap_stays | apply scrubClean_stays | apply scrubDram_stays
    | apply setRegion_stays | apply RStays.next | apply RStays.fault | apply RStays.ite | apply Stays.ite | apply PStays.fst
    | dsimp only | exact hL.of rfl

theorem execScrubLapAlarm_stays {L : List Field} {a s : State} {n0 : _} (h : Stays L a s)
    (hL : Sub [.hostMem, .hst, .ras, .memc, .region] L) :
    RStays L a (execScrubLapAlarm n0 s) := by
  unfold execScrubLapAlarm
  repeat' with_reducible first
    | assumption | apply reportContained_stays | apply setRegion_stays | apply RStays.next | apply RStays.ite
    | exact hL.of rfl | refine Stays.record ?_ hL

theorem execChimneyLineTest_stays {L : List Field} {a s : State} {n0 n1 n2 : _} (h : Stays L a s)
    (hL : Sub [.hostMem, .dev, .hst, .ras, .lnk, .core, .stream, .linkCorr, .routes, .chim, .part, .bars, .snaps] L) :
    RStays L a (execChimneyLineTest n0 n1 n2 s) := by
  unfold execChimneyLineTest
  repeat' with_reducible first
    | assumption | (intro) | apply setChim_stays | apply logLines_stays | apply report_stays | apply disableGroup_stays
    | apply failChimney_stays | apply RStays.next | apply RStays.ite | apply Stays.foldl | split | exact hL.of rfl

-- Registers

theorem execRegisterWrite_stays {L : List Field} {a s : State} {n0 n1 : _} (h : Stays L a s)
    (hL : Sub [.hostMem, .dev, .boot, .hst, .clk, .time, .pwr, .thm, .ras, .lnk, .memc, .weevil, .core, .stream,
      .linkCorr, .routes, .part, .bars, .snaps] L) :
    RStays L a (execRegisterWrite n0 n1 s) := by
  unfold execRegisterWrite
  repeat' with_reducible first
    | assumption | (intro) | apply writeBar0_stays | apply writeBar4_stays | apply writeCfg_stays | apply RStays.next
    | apply RStays.fault | apply RStays.ite | apply Stays.ite | apply Stays.foldl | apply PStays.foldl | apply PStays.fst
    | dsimp only | split | exact hL.of rfl

-- Tap

theorem execIdcode_stays {L : List Field} {a s : State} (h : Stays L a s) (hL : Sub [.tap] L) :
    RStays L a (execIdcode s) := by
  unfold execIdcode
  repeat' with_reducible first | assumption | apply tapRow_stays | apply loadTap_stays

theorem execSamplePreload_stays {L : List Field} {a s : State} {n0 n1 : _} (h : Stays L a s) (hL : Sub [.tap] L) :
    RStays L a (execSamplePreload n0 n1 s) := by
  unfold execSamplePreload
  repeat' with_reducible first
    | assumption | (intro) | apply tapRow_stays | apply RStays.next | apply RStays.fault | exact hL.of rfl
    | refine Stays.record ?_ hL

theorem execExtest_stays {L : List Field} {a s : State} (h : Stays L a s) (hL : Sub [.free, .tap] L) :
    RStays L a (execExtest s) := by
  unfold execExtest
  repeat' with_reducible first
    | assumption | (intro) | apply tapRow_stays | apply loadHeld_stays | apply loadExtest_stays | apply RStays.next
    | apply RStays.fault | exact hL.of rfl

theorem execClamp_stays {L : List Field} {a s : State} (h : Stays L a s) (hL : Sub [.tap] L) :
    RStays L a (execClamp s) := by
  unfold execClamp
  repeat' with_reducible first
    | assumption | (intro) | apply tapRow_stays | apply loadHeld_stays | apply loadTap_stays

theorem execHighz_stays {L : List Field} {a s : State} (h : Stays L a s) (hL : Sub [.tap] L) :
    RStays L a (execHighz s) := by
  unfold execHighz
  repeat' with_reducible first
    | assumption | (intro) | apply tapRow_stays | apply loadHeld_stays | apply loadTap_stays

theorem execBypass_stays {L : List Field} {a s : State} (h : Stays L a s) (hL : Sub [.tap] L) :
    RStays L a (execBypass s) := by
  unfold execBypass
  repeat' with_reducible first | assumption | apply tapRow_stays | apply loadBypass_stays

end Sys2Proof.Machine
end

