-- ==== Sys2Proof/Laws/Tile.lean ====
section
/-! SUPPORT. What the issue of a tile op does: a fetch that meets no error changes nothing, and the rows of the ops issue the
record that stands at the program counter, or nothing. -/

set_option Elab.async false

namespace Sys2Proof.Machine

theorem sramRead_clean {s : State} {c off n : Nat} (h : sramMarks s c off n = []) : sramRead s c off n = (s, none) := by
  simp [sramRead, h]

theorem fetched_clean {s : State} {c : Nat} (go : State → State) (h : fetchClean s c = true) : fetched s c go = go s := by
  have h' : sramMarks s c (32 * (s.coreAt c).pc) 32 = [] := by simpa [fetchClean] using h
  simp [fetched, sramRead_clean h']

/-- A tile op that can start issues. -/
theorem issueTile_of_canStart {s : State} {c op : Nat} {also : Rec → Bool} (h : canStart s c op also = true) :
    issueTile s c op also = issueOp s c := by
  simp only [canStart, Bool.and_eq_true] at h
  obtain ⟨⟨⟨h1, h2⟩, h3⟩, h4⟩ := h
  simp [issueTile, h1, h2, h3, fetched_clean _ h4]

/-- Nothing issues on a core that may not issue the op. -/
theorem issueTile_of_not {s : State} {c op : Nat} {also : Rec → Bool} (h : mayIssue s c op = false) : issueTile s c op also = s := by
  simp [issueTile, h]

theorem mayIssue_unowned {s : State} {c op : Nat} (h : s.ownerOf c = none) : mayIssue s c op = false := by
  simp [mayIssue, canIssue, h]

end Sys2Proof.Machine
end

