-- ==== Sys2Proof/Tests/Slice0.lean ====
section
/-! SUPPORT. For each statement with premises, states and operands that meet them, clause by clause, at values where ranges end;
ill-formed commands, which are refused; and worked examples of the spec. -/

set_option Elab.async false

namespace Sys2Proof.Tests

open Sys2Proof.Machine

def plan : Plan :=
  { records := [(0, 4)], routes := [], reservedIn := [], reservedOut := [], mailboxes := [], links := [], snaps := [], rots := [],
    batch := none, job := 0, timeout := 0, features := 0, hasSnap := false, imgDpa := false, imgAddr := 0, imgLen := 0 }
def part (st : PState) : Partition := { Partition.fresh [0] with state := st, plan := some plan }
def live : State :=
  { State.reset with
    dev := { State.reset.dev with state := .ready, ready := true },
    hst := { State.reset.hst with linkUp := true, busMaster := true } }
def run : State := { live with part := [(0, part .running)], core := [(0, { Core.empty with seq := .running })] }
def tile (r : Nat) : State := { run with mem := wrNat [] (sramDpa 0 0) 32 r }
def chan (d : Nat) : State :=
  { live with hst := { live.hst with
    chans := [(1, { Channel.closed0 with state := .open, kind := 1, q := [⟨BitVec.ofNat 512 d, .ready, false, 0⟩] })] } }
def next (s : State) (d op : Nat) : Bool := nextDesc s 1 0 (BitVec.ofNat 512 d) op

theorem witness_EmptyQueueTicks :
    let s := { live with clk := { live.clk with timebaseLocked := true } }
    s.pending = [] ∧ s.clk.timebaseLocked = true ∧ s.time.held = false ∧ s.time.slew = 0 ∧ s.time.owe = 0 ∧ s.time.slewAcc = 0 ∧
    live.clk.timebaseLocked = false := by decide +kernel
theorem witness_EveryCommandHasItsOutcome :
    (Instr.bar2Read 0 1).wf = true ∧ (Instr.bar2Read 0 4096).wf = true ∧ (Instr.bar2Read 0 0).wf = false ∧ (Instr.bar2Read 0 4097).wf = false := by decide +kernel
theorem witness_StepsKeepMemoryForm : State.reset.memOk = true ∧ step { live with pending := [.pwrOkFall] } = exec .pwrOkFall live := by
  exact ⟨by decide, rfl⟩
theorem witness_CommandsChangeOnlyTheirFields :
    (∃ t, exec .busMasterDisable live = .next t) ∧ Field.mem ∉ touches .busMasterDisable ∧
    (∃ t, exec .pwrOkFall live = .next t) ∧ Field.fuse ∉ touches .pwrOkFall ∧ Field.strap ∈ touches .pwrOkFall := by
  exact ⟨⟨_, rfl⟩, by decide, ⟨_, rfl⟩, by decide, by decide⟩
theorem witness_MemoryReadAfterWrite_copies :
    (∀ c, waitsAt (chan (0x41 + 4096 * 2 ^ 96)) c 1 = false) ∧ next (chan (0x41 + 4096 * 2 ^ 96)) (0x41 + 4096 * 2 ^ 96) 0x41 = true ∧
    (∃ t, exec (.cpFill 1) (chan (0x41 + 4096 * 2 ^ 96)) = .next t) ∧ (∃ t, exec (.cpCopy 1) (chan 0x40) = .next t) ∧
    (∃ t, exec (.cpPut 1) (chan 0x60) = .next t) := ⟨fun _ => rfl, by decide +kernel, ⟨_, rfl⟩, ⟨_, rfl⟩, ⟨_, rfl⟩⟩
theorem witness_QueueFirstInFirstOut : ∃ t, step { live with pending := [.busMasterDisable, .busMasterEnable] } = .next t := ⟨_, rfl⟩
theorem witness_TileOpsIssue :
    (∀ op ∈ [0x01, 0x02, 0x03, 0x04, 0x05, 0x06, 0x07, 0x08, 0x09, 0x0A, 0x13, 0x17, 0x0B, 0x0C, 0x0E, 0x0F], canStart (tile op) 0 op anyRec = true) ∧
    canStart (tile 0x0D) 0 0x0D (fun r => !bit r 78) = true ∧ canStart (tile (0x0D + 2 ^ 78)) 0 0x0D (fun r => bit r 78) = true ∧
    canStart (tile 0x10) 0 0x10 (fun r => decide (nbcAction r = 0)) = true ∧
    canStart (tile (0x10 + 2 ^ 64)) 0 0x10 (fun r => decide (nbcAction r = 1)) = true := by decide +kernel
theorem witness_UncorrectableRecordFaults :
    let s := { tile 0x01 with err := { live.err with sram := [(sramDpa 0 0 / 8, .uncorrectable)] } }
    sramMarks s 0 (32 * (s.coreAt 0).pc) 32 = [(sramDpa 0 0 / 8, .uncorrectable)] ∧ mayIssue s 0 0x01 = true ∧
    queueRoom (s.coreAt 0) (recNow s 0) = true := by decide +kernel
theorem witness_UncorrectableRecordFaults_later :
    let s := { tile 0x16 with err := { live.err with sram := [(sramDpa 0 0 / 8, .corrected), (sramDpa 0 0 / 8 + 3, .uncorrectable)] } }
    sramMarks s 0 (32 * (s.coreAt 0).pc) 32 = [(sramDpa 0 0 / 8, .corrected)] ++ (sramDpa 0 0 / 8 + 3, .uncorrectable) :: [] ∧
    mayIssue s 0 0x16 = true ∧ (s.coreAt 0).sig = none := by decide +kernel
theorem witness_UncorrectableRecordFaults_rows :
    tileRow (.mma 0) = some (0, 0x01, anyRec) ∧ seqRow (.sig 0) = some (0, 0x16, anyRec) := ⟨rfl, rfl⟩
theorem witness_SequencerOpsStart :
    (∀ op ∈ [0x11, 0x12, 0x14, 0x15, 0x16], canFetch (tile op) 0 op = true) ∧ ((tile 0x16).coreAt 0).sig = none ∧
    bits (recNow (tile 0x15) 0) 79 64 = 0 ∧ ((tile 0x15).coreAt 0).loops = [] := by decide +kernel
def opRun : OpRun :=
  { unit := .vfu, index := 0, rcd := 0x04, status := .ok, flags := 0, writes := [], dwrites := [], accs := [], ctrs := [], gated := [],
    began := 0, pos := 0, busy := false, retried := none, sub := 0, detail := 0 }
def core0 (k : Core) : State := { run with core := [(0, k)] }
theorem witness_WaitsAndOpsEnd :
    waitMet (core0 { Core.empty with seq := .waiting, wait := some (.wait 0 1 5 0), cnt := [(1, 5)] }) 0 0 1 5 0 = true ∧
    0 ≤ (run.rawCycles 0 - 0).toNat ∧
    ((({ Core.empty with inflight := [opRun] } : Core).inflight.find? fun r => decide (r.unit = .vfu)) = some opRun) ∧
    opRun.busy = false ∧ awaitsCheck (core0 { Core.empty with inflight := [opRun] }) 0 opRun = false ∧
    waitsForEarlier (core0 { Core.empty with inflight := [opRun] }) 0 opRun = false ∧
    (let q : OpQueued := ⟨.vfu, 1, 0x04⟩
     let s := core0 { Core.empty with queued := [q] }
     ((s.coreAt 0).queued.filter fun q => decide (q.unit = .vfu))[(0 : Fin 4).val]? = some q) ∧
    (let t := startAtReadout (core0 { Core.empty with inflight := [opRun] }) 0
     ((t.coreAt 0).inflight.find? fun r => decide (r.unit = .vfu)) = some opRun ∧ awaitsCheck t 0 opRun = false ∧
     waitsForEarlier t 0 opRun = false) ∧
    (OpUnit.vfu ≠ .sequencer ∧ ∀ i, OpUnit.vfu ≠ .barrier i) := by
  refine ⟨by decide +kernel, by decide +kernel, by decide +kernel, by decide +kernel, by decide +kernel, by decide +kernel, by decide +kernel, by decide +kernel, by decide, ?_⟩
  intro i h
  cases h
theorem witness_MemoryReadAfterWrite_ops :
    let k := (startAtReadout (core0 { Core.empty with inflight := [opRun] }) 0).coreAt 0
    let rcv : OpRun := { opRun with unit := .rcv 5, rcd := BitVec.ofNat 256 (0x0C + 65535 * 2 ^ 72), pos := 65534, busy := true }
    (k.inflight.find? fun r => decide (r.unit = .vfu)) = some opRun ∧ (k.inflight.all fun r => !movesLines r.rcd) = true ∧
    k.queued = [] ∧ k.wait = none ∧ movesMesh 0 (.lineArrival 0 5 15 .clean) = true ∧ rcv.pos < lineCount rcv.rcd ∧
    linesDue rcv = [64 * 65534] := by decide +kernel
theorem witness_WaitsAndOpsEnd_idle :
    let s := core0 { Core.empty with seq := .waiting, wait := some (.idle 0 (some 0)) }
    (s.coreAt 0).wait = some (.idle 0 (some 0)) ∧ 0 ≤ (s.rawCycles 0 - 0).toNat := by decide +kernel
def bar0 : Barrier :=
  { part := 0, barId := 15, scope := 0, snap := false, timeSync := false, arrived := [0], members := [], children := [],
    sentArrive := false, sentUp := false, released := false }
def snap0 (st : Nat) : Snapshot :=
  { part := 0, number := 1, area := 0, state := st, scope := 0, epoch := 0, time := [], quiet := false, cores := [], streams := [],
    routes := [], regions := [], offsets := [] }
theorem witness_BarriersAndQuiescesComplete :
    let s := { run with bars := [bar0] }
    let q := { run with bars := [{ bar0 with snap := true }], snaps := [snap0 1] }
    let h := { run with part := [(0, { part .running with quiesce := some 1 })] }
    (barAt s 0 15 = some bar0 ∧ barDone s bar0 = true ∧ s.part? 0 = some (part .running) ∧ snapIn s 0 2 = none) ∧
    (snapIn q 0 1 = some (snap0 1) ∧ (q.bars.find? fun b => decide (b.part = 0) && b.snap) = some { bar0 with snap := true }) ∧
    (h.part? 0 = some { part .running with quiesce := some 1 } ∧ (part .running).cores.all (quiesced h (boundaryQuiesce h (part .running))) = true ∧
      linesSettled h 0 = true) := by decide +kernel
theorem witness_UnownedCoreIssuesNothing : live.ownerOf 2047 = none ∧ mayIssue (tile 0x01) 0 0x01 = true := by decide +kernel
def route0 : Route := { core := 0, inPort := 1, inStream := 2, outPort := 3, outStream := 4, owner := 0, declared := false, left := 1 }
theorem witness_LinksDeliver :
    let k := streamKey 2047 5 15
    let s := { live with stream := [(k, { Stream.empty with wire := [.line 7], creditsBack := 1 })] }
    let w := crcWord 0xFFFFFFFF#32
    let t := { live with stream := [(k, { Stream.empty with wire := [.check w] })] }
    let u := { live with routes := [route0], stream := [(streamKey 0 1 2, { Stream.empty with buf := [⟨7, none⟩] })] }
    ((s.streamAt k).wire = [.line 7] ∧ (s.streamAt k).buf.length < 8 ∧ (s.streamAt k).creditsBack ≠ 0 ∧ routerRuns s 2047 = true) ∧
    ((t.streamAt k).wire = [.check w] ∧ w = crcWord (t.streamAt k).recvCrc ∧ routerRuns t 2047 = true) ∧ routerRuns u 0 = true ∧ routeTurn u route0 = true ∧
    (routeOn u 0 1 2 = some route0 ∧ (u.streamAt (streamKey 0 3 4)).credits ≠ 0 ∧ (takeHead u 0 1 2).map Prod.fst = some ⟨7, none⟩) := by decide +kernel
def nbuRun (op : Nat) : NbuRun :=
  { cmd := ⟨BitVec.ofNat 512 op, .chimney⟩, computed := false, status := .ok, flags := 0, detail := 0, data := [], writes := [], partials := [],
    slot := [], inRound := false, loc := none, recomp := [] }
def fillRunning : NbuRun := { nbuRun 0x06 with computed := true }
theorem witness_StoredDataIsServed :
    live.memc.lost.contains (tierOf 2047) = false ∧ hottest (live.layerAt 1).temp ≤ 830 ∧
    lapFrom live (live.regionAt 0) + max 1 live.memc.alarmS * oneS < { live with time := { live.time with now := 600000000001 } }.nowNat ∧
    (live.regionAt 0).alarmed = false ∧
    (let s := { live with chim := [(2047, { Chimney.empty with paused := [7] })] }
     (s.chimAt 2047).paused.contains 7 = true ∧ newFaults s 2047 7 [] = [] ∧ newFaults s 2047 7 [0, 133, 5, 6] = [0, 133, 5, 6] ∧
     mget (s.chimAt 2047).spares 7 0 + 4 ≤ 4) := by decide +kernel
theorem witness_StoredDataIsServed_more :
    let five : List (Fin 134) := [0, 133, 5, 6, 7]
    let g := fun (off : List Nat) => { live with chim := [(2047, { Chimney.empty with paused := [7], disabled := off })] }
    let d := { live with region := [(2047, { Region.empty with nbus := [(15, { Nbu.empty with running := some (fillRunning) })] })] }
    (∀ off ∈ [[], [0]], newFaults (g off) 2047 7 five = five.map Fin.val ∧ 4 < mget ((g off).chimAt 2047).spares 7 0 + 5 ∧ ((g off).chimAt 2047).disabled.length < 2) ∧
    (newFaults (g [0, 1]) 2047 7 five = five.map Fin.val ∧ 2 ≤ ((g [0, 1]).chimAt 2047).disabled.length) ∧
    { live.memc with lost := [7] }.lost.contains (tierOf 2047) = true ∧
    scrubDefers (live.regionAt 2047) 15 (nextScrub (live.regionAt 2047) 15).1 = false ∧
    scrubDefers (d.regionAt 2047) 15 (nextScrub (d.regionAt 2047) 15).1 = true ∧ { Region.empty with alarmed := true }.alarmed = true ∧
    (6 : Fin 7).val ≠ 0 ∧ (0 : Fin 7).val = 0 := by decide +kernel
theorem witness_QueriesAnswer :
    next (chan 0x00) 0x00 0x00 = true ∧ next (chan 0x1C) 0x1C 0x1C = true ∧
    next (chan (0x13 + 2 ^ 64)) (0x13 + 2 ^ 64) 0x13 = true ∧ handleChan (chan 0x13) 1 = some 1 ∧
    next (chan 0x21) 0x21 0x21 = true ∧ (chan 0x21).isQuar 0 = false ∧
    (let s := { chan 0x21 with ras := { live.ras with quar := [⟨0, false⟩] } }
     next s 0x21 0x21 = true ∧ s.isQuar (descCore (BitVec.ofNat 512 0x21)) = true) ∧ next (chan (0x21 + 2 ^ 75)) (0x21 + 2 ^ 75) 0x21 = true ∧ next (chan 0x31) 0x31 0x31 = true ∧
    handleChan (chan 0x11) 2 = none ∧ (∀ op ∈ [0x11, 0x12, 0x13], next (chan (op + 2 ^ 65)) (op + 2 ^ 65) op = true) := by decide +kernel
/-- Channel 1 with a descriptor, in front of a state with partition 0. -/
def chanPart (d : Nat) (st : PState) : State := { chan d with part := [(0, part st)] }
theorem witness_ChannelsOpenAndClose :
    let d := 0x10 + 6 * 2 ^ 72 + 16 * 2 ^ 77 + 2 ^ 64
    let ch2 := fun (st : ChState) => (chan 0x11).hst.chans ++ [(2, { Channel.closed0 with state := st, gen := 16383, cqLog2 := 6 })]
    let h := 2 + 16383 * 2 ^ 18
    let r := fun (d : Nat) (st : ChState) => { chan d with hst := { live.hst with
      chans := (chan d).hst.chans ++ [(2, { Channel.closed0 with state := st, gen := 16383, cqLog2 := 6 })] } }
    (next (chan d) d 0x10 = true ∧ createOk (BitVec.ofNat 512 d) = true ∧ bits (BitVec.ofNat 512 d) 65 64 ≠ 0 ∧ lowestClosed (chan d) = some 2) ∧
    (next (r (0x11 + h * 2 ^ 64) .open) (0x11 + h * 2 ^ 64) 0x11 = true ∧ handleChan (r 0x11 .open) h = some 2) ∧
    (next (r (0x12 + h * 2 ^ 64) .stalledSeq) (0x12 + h * 2 ^ 64) 0x12 = true ∧ handleChan (r 0x12 .stalledSeq) h = some 2 ∧
      ((r 0x12 .stalledSeq).chanAt 2).freeEntries ≠ 0) ∧
    (next (r (0x12 + h * 2 ^ 64) .stalledProducer) (0x12 + h * 2 ^ 64) 0x12 = true ∧ handleChan (r 0x12 .stalledProducer) h = some 2 ∧
      ((r 0x12 .stalledProducer).chanAt 2).state = .stalledProducer) ∧
    ({ Channel.closed0 with state := .closing, closer := some 1 }.closer = some 1) ∧
    (let s := { live with hst := { live.hst with chans := [(262143, { Channel.closed0 with state := .closing })] } }
     (s.chanAt 262143).q = [] ∧ (s.chanAt 262143).state = .closing ∧ (s.chanAt 262143).closer = none) ∧
    (ch2 .open).length = 2 := by decide +kernel
theorem witness_PartitionsComeMoveAndGo :
    let c := { chan (0x18 + 4096 * 2 ^ 128) with hostMem := wrNat [] 4096 1 3 }
    let cmd := fun k => 0x1A + k * 2 ^ 72
    (next c (0x18 + 4096 * 2 ^ 128) 0x18 = true ∧ c.part? 0 = none ∧ mapCores (rdBytes c.hostMem 4096 256) = [0, 1] ∧
      connected [0, 1] = true ∧ (∀ x ∈ [0, 1], c.ownerOf x = none ∧ c.isQuar x = false)) ∧
    (next (chanPart 0x1B .free) 0x1B 0x1B = true ∧ boundChannel (chanPart 0x1B .free) 0 = false ∧
      (chanPart 0x1B .free).part? (descPart 0x1B#512) = some (part .free)) ∧
    (∀ k ∈ [0, 1, 2, 3, 4], ∀ st ∈ [PState.loaded, .running, .quiesced], next (chanPart (cmd k) st) (cmd k) 0x1A = true ∧
      partCmd (BitVec.ofNat 512 (cmd k)) = k) ∧
    (let s := { chanPart (cmd 0) .loaded with mem := wrNat [] (sramDpa 0 0) 32 0x11, part := [(0, { part .loaded with plan := some { plan with records := [(0, 1)] } })] }
     firstBadList (listNow s) [0] = none ∧ fullRouter s 0 { part .loaded with plan := some { plan with records := [(0, 1)] } } = none) ∧
    (next (chanPart (cmd 4) .failed) (cmd 4) 0x1A = true ∧ ((chanPart (cmd 4) .failed).part? 0).map Partition.state = some .failed) := by decide +kernel
def imgMem : Mem :=
  let m := wrNat [] 4096 4 0x4E4D4C4F
  let m := wrNat m 4100 2 1
  let m := wrNat m 4102 1 4
  let m := wrNat m 4104 8 576
  let m := wrNat m 4116 4 64
  let m := wrNat m 4120 2 3
  let m := wrNat m 4160 16 (1 + 2 ^ 32 + 128 * 2 ^ 64)
  let m := wrNat m 4176 16 (2 + 2 ^ 32 + 384 * 2 ^ 64)
  let m := wrNat m 4192 16 (10 + 2 ^ 32 + 448 * 2 ^ 64)
  let m := wrNat m 4224 1 1
  let m := wrNat m 4480 16 (2 ^ 32 + 512 * 2 ^ 64)
  let m := wrNat m 4544 8 (2 ^ 16)
  wrNat m 4608 32 0x11
theorem witness_PlansLoad :
    let d := 0x19 + 4096 * 2 ^ 128 + 576 * 2 ^ 192
    let s := { chanPart d .free with hostMem := imgMem }
    let t := s.modPwr 0 fun v => { v with quads := [(0, .on)] }
    let w := BitVec.ofNat 512 d
    (next s d 0x19 = true ∧ s.part? 0 = some (part .free)) ∧
    (match checkLoad ((applyBankQuar s).modPart 0 fun v => { v with state := .free }) 1 0 (part .free) w with
      | (u, .ok (_, pl)) => ((regionsOf [0] pl).all fun q => decide (quadAt u q = .on)) == false
      | _ => false) = true ∧
    (match checkLoad ((applyBankQuar t).modPart 0 fun v => { v with state := .free }) 1 0 (part .free) w with
      | (u, .ok (im, pl)) => ((regionsOf [0] pl).all fun q => decide (quadAt u q = .on)) && (applyImage u 0 (part .free) im pl).2.isNone && decide (im.restore = 0)
      | _ => false) = true := by decide +kernel
theorem witness_SnapshotRouterAndRotation :
    let s := { chanPart 0x1D .running with part := [(0, { part .running with plan := some { plan with hasSnap := true } })] }
    let v := { part .running with rotating := [⟨3, 0, 1⟩, ⟨15, 5, 2047⟩] }
    let u := { live with part := [(63, v)] }
    (next s 0x1D 0x1D = true ∧ (s.part? 0).map Partition.state = some .running) ∧
    (next (chan (0x22 + 2047 * 2 ^ 64)) (0x22 + 2047 * 2 ^ 64) 0x22 = true ∧ (chan 0x22).ownerState 2047 ≠ .running ∧ routerHeld (chan 0x22) 2047 = false ∧ (chan 0x22).isQuar 2047 = false) ∧
    (let r := fun (c : State) => { c with hst := (chan 0x22).hst }
     let q := r { live with ras := { live.ras with quar := [⟨0, true⟩] } }
     let h := r { live with routes := [{ route0 with owner := 5 }], part := [(5, { part .running with cores := [1] })] }
     next q 0x22 0x22 = true ∧ q.isQuar 0 = true ∧ next h 0x22 0x22 = true ∧ routerHeld h 0 = true ∧ h.isQuar 0 = false ∧ h.ownerState 0 ≠ .running) ∧
    (u.part? 63 = some v ∧ (v.rotating.find? fun x => decide (x.set = 15)) = some ⟨15, 5, 2047⟩ ∧ v.state = .running ∧
      canExchange u 5 2047 = true ∧ (copyReads u [5, 2047]).2 = none ∧
      (copyReads { u with err := { u.err with sram := [(sramDpa 2047 0x2FFFF8 / 8, .uncorrectable)] } } [5, 2047]).2 = some (2047, 0x2FFFF8)) := by
  decide +kernel
theorem witness_PowerCaps :
    let d := fun (dev w : Nat) => 0x30 + dev * 2 ^ 70 + w * 2 ^ 80
    (∀ w ∈ [1800, 3300], next (chanPart (d 1 w) .running) (d 1 w) 0x30 = true ∧ capsFit (setDevCap (chanPart (d 1 w) .running) w) = true) ∧
    (∀ w ∈ [0, 50, 3300], next (chanPart (d 0 w) .running) (d 0 w) 0x30 = true ∧
      capsFit ((chanPart (d 0 w) .running).setPart 0 { part .running with capW := w }) = true) ∧
    (∀ w ∈ [1799, 3301], next (chan (d 1 w)) (d 1 w) 0x30 = true) ∧
    damperOk (List.replicate 8 480) (List.replicate 2048 0) = true ∧ live.part = [] ∧
    (let s := { chanPart 0x30 .running with pwr := { live.pwr with estSum := [(0, 5)] } }
     s.part.foldl (fun a e => a + mget s.pwr.estSum e.1 0) 0 ≠ 0) := by decide +kernel
theorem witness_TransfersMove :
    let copy := 0x40 + 4096 * 2 ^ 96
    let fill := 0x41 + 4096 * 2 ^ 96
    let put := fun (op : Nat) => op + 2 * 2 ^ 96
    let kvr := fun (line : Nat) => 0x54 + line * 2 ^ 79 + 2 ^ 93 + 2047 * 2 ^ 64
    let box : Mailbox := { index := 0, out := false, core := 0, la := 0, lines := 2, ctr := 0 }
    let withBox := fun (op : Nat) (out : Bool) => { chan (put op) with
      part := [(0, { part .loaded with plan := some { plan with mailboxes := [{ box with out := out }] } })] }
    let com := { chan (kvr 0) with region := [(2047, { Region.empty with mode := .drain })] }
    let isOk := fun (x : Except Status Mailbox) => match x with
      | .ok _ => true
      | .error _ => false
    let isDone := fun (x : DpaOut) => match x with
      | .done _ => true
      | _ => false
    (next (chan copy) copy 0x40 = true ∧ copyLen (BitVec.ofNat 512 copy) = 4096 ∧ next (chan 0x40) 0x40 0x40 = true) ∧
    (next (chan fill) fill 0x41 = true ∧ isDone (dpaWrite (chan fill) 0 [0#8, 0#8]) = true ∧ unitWaits (chan fill) 1 0 = false) ∧
    (next (withBox 0x60 false) (put 0x60) 0x60 = true ∧ isOk (mailboxOf (withBox 0x60 false) 1 (BitVec.ofNat 512 (put 0x60)) false) = true ∧
      isDone (writeSram (withBox 0x60 false) 0 0 (rdBytes [] 0 128)) = true) ∧
    (next (withBox 0x61 true) (put 0x61) 0x61 = true ∧ isOk (mailboxOf (withBox 0x61 true) 1 (BitVec.ofNat 512 (put 0x61)) true) = true) ∧
    pathFree com 2047 = true ∧
    (∀ line ∈ [0, 1023, 1025, 16383], next { com with hst := (chan (kvr line)).hst } (kvr line) 0x54 = true ∧
      kvrCount (BitVec.ofNat 512 (kvr line)) = 1 ∧ groupOfLine0 line = none) ∧ (com.regionAt 2047).mode ≠ .normal := by decide +kernel
theorem witness_SecurityDescriptors :
    let reset := 0x3F + 0x4B17 * 2 ^ 64
    let lic := fun (n : Nat) => 0x28 + n * 2 ^ 192
    let fw := fun (n : Nat) => 0x2A + n * 2 ^ 192
    (next (chan 0x38) 0x38 0x38 = true ∧ { live with sec := { live.sec with identityOk := true } }.sec.identityOk = true ∧ live.sec.debugUnlocked = false) ∧
    (next (chan reset) reset 0x3F = true ∧ (chan reset).dev.state ≠ .safe) ∧
    (∀ n ∈ [1, 4096], next (chan (lic n)) (lic n) 0x28 = true ∧ bits (BitVec.ofNat 512 (lic n)) 207 192 = n) ∧
    (∀ n ∈ [1, 524288], next (chanPart (fw n) .loaded) (fw n) 0x2A = true ∧ bits (BitVec.ofNat 512 (fw n)) 223 192 = n) := by decide +kernel
/-- The key pair of private key 1, whose public point is the base point. -/
def key1 : List Byte := publicKey 1
/-- A text with its signature by that key. -/
def signed (bs : List Byte) : List Byte := bs ++ ecdsaSign 1 1 (sha384 bs)
/-- A licence of 280 bytes: FEATURES 1, SERIAL 0, key slot 0. -/
def licence : List Byte := signed (leBytes (0x434C5A4B + 2 ^ 32 + 280 * 2 ^ 48) 8 ++ sha384 key1 ++ leBytes 1 24 ++ key1 ++ List.replicate 7 0#8)
def licensee : State := { live with fuse := { live.fuse with slotUsage := [(3, 2#3)], slotHash := [(3, sha384 key1)] } }
theorem witness_SecurityDescriptors_licence_form :
    rdBytes (wrBytes [] 4096 licence) 4096 280 = licence ∧ licForm licence = true ∧ licSigned licensee licence = true := by decide +kernel
/-- The licence binds a device whose certificate holds that key; what key a certificate holds is a function of Config without a
body (log entry 9). -/
theorem witness_SecurityDescriptors_licence (h : Config.certKey licensee.fuse.certificate = key1) : licBinds licensee licence = true := by
  have e : ((licence.drop 8).take 48) = sha384 key1 := by decide +kernel
  unfold licBinds State.keyHash
  rw [e, h]
  exact decide_eq_true rfl
/-- A manifest with one op-microcode image of no bytes, in slot 3. -/
def manifest1 : Nat → Byte := fun i =>
  (signed (leBytes (0x4E4D5A4B + 2 ^ 32 + 2 ^ 48 + 3 * 2 ^ 120) 16 ++ key1 ++ List.replicate 15 0#8 ++ leBytes (4 + 320 * 2 ^ 32) 16 ++ sha384 [])).getD i 0#8
theorem witness_SecurityDescriptors_update :
    manifestForm manifest1 = true ∧ updateForm (manifestAt manifest1) 524288 = true ∧
    manifestOk { licensee with fuse := { licensee.fuse with slotUsage := [(3, 1#3)] } } manifest1 = true ∧
    ((manifestAt manifest1).entries.all fun e => hashHolds manifest1 e && crcHolds manifest1 e) = true := by decide +kernel
theorem witness_SecurityDescriptors_member :
    let d := fun (op : Nat) => BitVec.ofNat 512 (op + 2 ^ 10 + 2 ^ 11)
    let g := fun (op : Nat) => ({ tag := 0, members := [d op], payload := 0, fail := none, waiting := false, ending := some 1, asked := none, ready := [] } : Group)
    let s := fun (op : Nat) => { live with hst := { live.hst with chans := [(1, { Channel.closed0 with state := .open, group := some (g op) })] } }
    ∀ op ∈ [0x28, 0x2A], awaited (s op) 1 op = some (g op, 0) := by decide +kernel
/-- Whether a window write is done. -/
def winDone (x : WinOut) : Bool := match x with
  | .done _ => true
  | _ => false
/-- A page table of n held pages of context 255, layer 0. -/
def table (n : Nat) : SMap (BitVec 128) := (natsFrom 0 n).map fun i => (i, BitVec.ofNat 128 (1 + 255 * 2 ^ 8 + 33 * i * 2 ^ 64))
def ctx255 : Ctx := { part := 0, layers := 1, budget := 36, initScore := 0, shards := 1, shard := 0, mirrorOff := 0 }
def seq255 : KvSeq :=
  { ctx := 255, length := 5, done := 0, paused := false, formed := false, since := 0, wantPause := none, wantRemove := none }
def cached (s : State) (qs : List KvSeq) : State := { s with kv := { s.kv with ctxs := [(255, ctx255)], seqs := qs } }
theorem witness_ContextsTablesAndSequences :
    let setup := 0x50 + 255 * 2 ^ 64 + 2 ^ 80 + 36 * 2 ^ 88
    let s := { chanPart setup .loaded with region := [(0, { Region.empty with table := table 37 })] }
    let pte := 0x52 + 2 ^ 76 + 4096 * 2 ^ 128
    let u := { cached (chanPart pte .loaded) [] with
      hostMem := wrNat (wrNat [] 4096 2 2047) 4112 16 (1 + 255 * 2 ^ 8 + 98271 * 2 ^ 64), region := [(0, { Region.empty with table := table 37 })] }
    let w := BitVec.ofNat 512 pte
    let es := (editsOf u w).map fun e => (e.1, e.2.2)
    let q := fun (k : Nat) => 0x53 + 255 * 2 ^ 64 + k * 2 ^ 72
    let reg := fun (n : Nat) => q 0 + n * 2 ^ 96
    (next s setup 0x50 = true ∧ setupOk (BitVec.ofNat 512 setup) = true ∧ setupCtx (BitVec.ofNat 512 setup) = ctx255 ∧ mirrorDiffers s ctx255 = false ∧
      ctx255.shard < ctx255.shards ∧ podMissing s ctx255 = false ∧ podMissing s { ctx255 with shards := 9 } = true ∧ s.part? 0 = some (part .loaded) ∧ mget? s.kv.ctxs 255 = none ∧ ctxProvided s 255 ctx255 = true) ∧
    (next (cached (chan (0x51 + 255 * 2 ^ 64)) []) (0x51 + 255 * 2 ^ 64) 0x51 = true ∧ ctxFormed (cached live []) 255 = false) ∧
    (next u pte 0x52 = true ∧ pteEdits w = 1 ∧ (editsOf u w).all editFormOk = true ∧ (editsOf u w).all (editFree u 0) = true ∧
      (es.all fun e => frameOk (putEntries (u.regionAt 0).table es) (u.regionAt 0).mirror e.1) = true) ∧
    (∀ n ∈ [1, 1048576], next (cached (chan (reg n)) []) (reg n) 0x53 = true ∧ bits (BitVec.ofNat 512 (reg n)) 116 96 = n ∧
      seqAction (BitVec.ofNat 512 (reg n)) = 0 ∧ kvSeqOf (cached live []) 255 = none) ∧
    (∀ k ∈ [1, 2, 3], next (cached (chan (q k)) [seq255]) (q k) 0x53 = true ∧ seqAction (BitVec.ofNat 512 (q k)) = k ∧
      seqOf (cached live [seq255]) (BitVec.ofNat 512 (q k)) = some seq255 ∧
      seqOf (cached live [{ seq255 with paused := true }]) (BitVec.ofNat 512 (q k)) = some { seq255 with paused := true }) := by decide +kernel
theorem witness_WindowBitsSelectTheNbu :
    let s := { live with region := [(2047, { Region.empty with mode := .compute })] }
    (s.regionAt 2047).mode = .compute ∧ winDone (windowWrite s 2047 15 1024 (lineOfBytes (List.replicate 64 0#8)) .service) = true := by decide +kernel
theorem witness_AccessBeforeReadyDoesNothing :
    let b := { State.reset with hst := { State.reset.hst with linkUp := true } }
    inBar2 b 0 1 = false ∧ inBar2 { live with hst := { live.hst with bar2Log2 := 38 } } (2 ^ 38 - 1) 2 = false ∧ bar2ReadOk 4096 = true ∧
    bar2WriteOk (List.replicate 512 0#8) = true ∧ regWriteOk [0#8] = true ∧ b.dev.ready = false ∧ b.dev.state ≠ .off := by decide +kernel
theorem witness_Bar2ReadsDram :
    inBar2 live (dramDpa 2047 0x5FFF000) 4096 = true ∧ inDram (dramDpa 2047 0x5FFF000) 4096 2047 0x5FFF000 = true ∧
    live.memc.lost.contains (tierOf 2047) = false ∧ dramMarks live 2047 0x5FFF000 4096 = [] ∧ pathFree live 2047 = true := by decide +kernel
theorem witness_Bar2WritesDram :
    let bs := List.replicate 512 7#8
    bar2WriteOk bs = true ∧ inBar2 live (dramDpa 2047 0x5FFFE00) 512 = true ∧ inDram (dramDpa 2047 0x5FFFE00) 512 2047 0x5FFFE00 = true ∧
    live.err.dram = [] ∧ live.err.synd = [] ∧ live.err.stale = [] ∧ regionGuarded live 2047 = false ∧ pathFree live 2047 = true := by decide +kernel
def computing (u : Nbu) : State := { live with region := [(0, { Region.empty with mode := .compute, nbus := [(15, u)] })] }
/-- A FILL of the last word of a bank. -/
def fillCmd : Line := BitVec.ofNat 512 (0x06 + 98303 * 2 ^ 64 + 2 ^ 81 + 2 ^ 98)
theorem witness_WindowWrites :
    let s := computing Nbu.empty
    (s.regionAt 0).mode = .compute ∧ winDone (enqueueCmd s 0 15 fillCmd .service) = true ∧ winDone (writeQuery s 0 15 3 17 5#512) = true ∧ winDone (writeQueryAll s 0 3 17 5#512) = true ∧
    winDone (writeParam s 0 0x5FFFFFC#512) = true ∧ (live.regionAt 0).mode ≠ .compute ∧
    pathFree s 0 = true ∧ pathFree live 0 = true := by decide +kernel
theorem witness_ResultsAreRead :
    let s := computing { Nbu.empty with waitWrite := some ⟨5, .service⟩ }
    let f := { live with region := [(0, { Region.empty with mode := .drain, groups := [(3, { MGroup.empty with pendingFold := true })] })] }
    ((s.nbuAt 0 15).waitWrite = some ⟨5, .service⟩ ∧ (s.regionAt 0).mode ≠ .normal) ∧
    ((f.regionAt 0).mode ≠ .normal ∧ (mget (f.regionAt 0).groups 3 MGroup.empty).pendingFold = true ∧ roundBusy (f.regionAt 0) 3 = false) := by
  decide +kernel
theorem witness_CommandsStartAndComplete :
    let s := computing { Nbu.empty with queue := [⟨fillCmd, .chimney⟩] }
    let u := computing { Nbu.empty with running := some { nbuRun 0x06 with computed := true } }
    ((s.nbuAt 0 15).queue = [⟨fillCmd, .chimney⟩] ∧ mayStart s 0 15 (s.nbuAt 0 15) ⟨fillCmd, .chimney⟩ = true) ∧
    ((u.nbuAt 0 15).running = some { nbuRun 0x06 with computed := true } ∧ cmdMerge (nbuRun 0x06).cmd.cmd = false) ∧
    (let w := standWrites u 0 fillRunning
     tasksWait (w.1.regionAt 0) 15 (recompInBank (w.1.regionAt 0).chkBase.toNat w.2.recomp) = false) ∧
    (let r := { Region.empty with mode := .compute, nbus := [(15, Nbu.empty), (2, { Nbu.empty with running := some fillRunning })] }
     tasksWait r 15 (recompInBank 0 [1]) = true) := by decide +kernel
theorem witness_MemoryReadAfterWrite_nbu :
    let u := computing { Nbu.empty with running := some fillRunning }
    (u.nbuAt 0 15).running = some fillRunning ∧ (u.regionAt 0).behind = [] ∧ (u.coreAt 0).inflight = [] ∧ (u.regionAt 0).mirror = none := by
  decide +kernel
theorem witness_CommandsCompute : ∀ op ∈ natsFrom 1 11,
    ((computing { Nbu.empty with running := some (nbuRun op) }).nbuAt 0 15).running = some (nbuRun op) ∧ (nbuRun op).computed = false ∧
    cmdOp (nbuRun op).cmd.cmd = op ∧ bchkWaits (computing { Nbu.empty with running := some (nbuRun op) }) 0 15 = false := by decide +kernel
theorem witness_RegionModesChange :
    let d := fun (m : Nat) => 0x20 + 2047 * 2 ^ 64 + m * 2 ^ 76
    let s := fun (m : Nat) (w : RMode) (us : SMap Nbu) => { chan (d m) with
      part := [(0, { part .free with cores := [2047] })], region := [(2047, { Region.empty with mode := w, nbus := us })] }
    let a := fun (ph : Nat) => ({ kind := .nbu, target := 0, phase := ph, waited := false, again := false, bubbles := 0 } : Admit)
    (∀ m ∈ [0, 1, 2], next (s m .normal []) (d m) 0x20 = true ∧ next (s m .compute []) (d m) 0x20 = true ∧ descMode (BitVec.ofNat 512 (d m)) = m) ∧
    (∀ m ∈ [0, 1, 2], modeRefused (s m .normal []) 2047 m = false ∧ ((s m .normal []).regionAt 2047).modeReqs = [] ∧ next (s m .drain []) (d m) 0x20 = true) ∧
    (modeRefused (chan (d 1)) 2047 1 = true ∧
      ∀ m ∈ [0, 1, 2], ∀ st ∈ [PState.loading, .running, .recovering],
        let x := { chan (d m) with part := [(0, { part st with cores := [2047] })] }
        modeRefused x 2047 m = true ∧ next x (d m) 0x20 = true) ∧
    (((s 0 .drain []).regionAt 2047).working = false ∧
      ((s 0 .drain [(0, { Nbu.empty with queue := [⟨fillCmd, .chimney⟩] })]).regionAt 2047).working = true) ∧
    (∀ m ∈ [0, 1, 2], canStart (tile (0x10 + (2 + 4 * m) * 2 ^ 64)) 0 0x10 (fun r => decide (nbcAction r = 2) && decide (bits r 67 66 = m)) = true) ∧
    (let t := live.modPwr 7 fun v => { v with queue := [a 0] }
     admitOf t 7 .nbu = some (a 0) ∧ 0 + 2 ≤ t.vdlLim 7 ∧ t.vdlLim 7 < 1000 + 2) := by decide +kernel
theorem witness_ProtectionAndBuckets :
    let p := fun (n : Nat) => (0, n, BitVec.ofNat 128 (n * 2 ^ 24))
    protectedPage 1 [] (p 3).2.2 = true ∧ protectedPage 1 ((natsFrom 5 31).map p) (p 4).2.2 = true ∧
    protectedPage 1 ((natsFrom 5 32).map p) (p 4).2.2 = false ∧ bucketOf 63 = 0 ∧ bucketOf 64 = 1 ∧ bucketOf 127 = 1 ∧ bucketOf 128 = 2 ∧
    bucketOf 1048575 = 14 ∧ bucketOf 1048576 = 15 := by decide +kernel
def batchPlan : Plan := { plan with batch := some { core := 0, la := 8, ctr := 1, batchMax := 16, chunkMax := 64 } }
/-- A partition whose batch core has put a request in its signal slot. -/
def asks (v : Nat) (st : Partition) (qs : List KvSeq) : State :=
  { cached run qs with
    part := [(0, { st with plan := some batchPlan })],
    core := [(0, { Core.empty with seq := .running, sig := some ⟨1, BitVec.ofNat 32 v, false, 0, 0, false, 0⟩ })] }
theorem witness_BatchesForm :
    let v := part .running
    let o : Opening := ⟨0, 0, 255, 0⟩
    let s := { cached run [] with kv := { (cached run []).kv with openings := [o] } }
    (s.kv.openings = [o] ∧ mget? s.kv.ctxs 255 = some ctx255 ∧ s.part? 0 = some v) ∧
    ((requestOf (asks 0 v []) 0 0).isSome = true ∧ batchesFull (asks 0 v []) 0 = false ∧ waitingSeqs (dropOverflow (asks 0 v []) 0) 0 = []) ∧
    ((requestOf (asks 1 v [seq255]) 0 1).isSome = true ∧ batchesFull (asks 1 v [seq255]) 0 = false ∧
      ((waitingSeqs (asks 1 v [seq255]) 0).find? fun q => decide (q.done < q.length)) = some seq255) ∧
    (requestOf (asks 0 v [seq255]) 0 0).isSome = true ∧ waitingSeqs (dropOverflow (asks 0 v [seq255]) 0) 0 = [seq255] ∧
    ((requestOf (asks 1 v []) 0 1).isSome = true ∧ batchesFull (asks 1 v []) 0 = false ∧
      ((waitingSeqs (asks 1 v []) 0).find? fun q => decide (q.done < q.length)) = none) ∧
    ((requestOf (asks (2 + 7 * 256) { v with batches := [⟨7, [255], 1⟩] } [seq255]) 0 2).isSome = true) := by decide +kernel
theorem witness_ScanningAndHostReads :
    let s := { live with hst := { live.hst with dbBase := 0x1000, atomicEn := true } }
    let c := { live with hst := { live.hst with scanning := true, chans := [(262143, { Channel.closed0 with raw := [0], inHoldoff := true, irqHeld := true, holdoff := 1 })] } }
    (s.dev.ready = true ∧ s.hst.scanEn = false ∧ scanOutcome s true = .ok) ∧ (c.hst.scanning = true ∧ c.canMaster = true) ∧
    (readsNow c (.doorbell 0) = true ∧ readsNow c (.fetch 262143) = true ∧ readsNow c (.data 0 true) = true ∧ readsNow c (.data 0 false) = true) ∧
    ((c.chanAt 262143).inHoldoff = true ∧ (c.chanAt 262143).irqHeld = true ∧ { Channel.closed0 with inHoldoff := true }.irqHeld = false) := by
  decide +kernel
def group0 (w : Bool) : Group :=
  { tag := 9, members := [], payload := 0, fail := none, waiting := w, ending := none, asked := none, ready := [] }
theorem witness_DescriptorsArrive :
    let d : Line := BitVec.ofNat 512 (2 ^ 32)
    let v := fun (g : Option Group) (n : W32) => { Channel.closed0 with state := .open, raw := [d], nextSeq := n, group := g }
    (descSeq d ≠ 0 ∧ descSeq d = 1 ∧ memberWaits live (v none 0) d = false ∧ memberWaits live (v (some (group0 false)) 1) d = false ∧ takesFetched (v none 0) = true ∧
      ∀ st ∈ [ChState.stalledSeq, .stalledProducer, .stalledCq], takesFetched { v none 0 with state := st } = true) ∧
    (let s := { live with hst := { live.hst with chans := [(1, v (some (group0 true)) 1)] } }
     (s.chanAt 1).group = some (group0 true) ∧ stagedGroups s < 16 ∧ endFetched (s.chanAt 1) (group0 true) = false) := by decide +kernel
def port (v : Port) : State := { live with lnk := { live.lnk with ports := [(24, v)] } }
def ident (unit : W32) : Ident := ⟨unit, 0, 0⟩
theorem witness_PortsTrainAndAlign :
    let eq := { Port.empty with state := .eq, lanesSeen := 8, retraining := true }
    let al := { Port.empty with state := .align, lanesGood := 8 }
    let up := { Port.empty with state := .up }
    ((port { Port.empty with state := .detect }).portAt 24).state = .detect ∧ (0xF#4 &&& ~~~(0#4)) ≠ 0 ∧ (1#4 &&& ~~~(1#4)) = 0 ∧
    eq.state = .eq ∧ eq.retraining = true ∧ (8#4 &&& eq.lanesSeen) ≠ 0 ∧ (7#4 &&& eq.lanesSeen) = 0 ∧
    inTraining al = true ∧ ((port Port.empty).portAt 24).state = .down ∧ ((port Port.empty).dev.ready || (port Port.empty).boot.trainEnd) = true ∧
    (port Port.empty).dev.state ≠ .safe ∧ widthOf (al.lanesGood &&& 0xF#4) ≠ 0 ∧ widthOf (al.lanesGood &&& 7#4) = 0 ∧
    linked up = true ∧ linked { Port.empty with state := .unlicensed } = false ∧
    identState (port up) (ident (BitVec.ofNat 32 (7 * 2 ^ 20))) = .up := by decide +kernel
theorem witness_FlitsAreTaken :
    let s := port { Port.empty with state := .up, peer := some (ident 0), replay := [⟨0, 0⟩] }
    let m := { s with strap := { s.strap with traySlot := 1 } }
    carries (s.portAt 24) = true ∧ (s.portAt 24).replay ≠ [] ∧ portUp s 24 = true ∧ s.time.sentT1 = none ∧ masterPort m = some 24 ∧
    masterPort s = none ∧ s.lnk.lock = false ∧ anyRunning s = false ∧ bits (0#64) 8 0 = s.lnk.tray.toNat ∧ bits (511#64) 8 0 ≠ s.lnk.tray.toNat := by
  decide +kernel
/-- A unit of an SR port, and one of an LR port. -/
theorem witness_FlitsAreTaken_units :
    unitOfMode Port.empty 5 6 (.sr 7) = some (srDecode 5 6 7) ∧
    unitOfMode { Port.empty with lr := true } 5 6 (.lr 5139 1 2) = some (lrDecode 5 6 5139 1 2) := ⟨rfl, rfl⟩
theorem witness_PowerIsBalanced :
    let s := { port { Port.empty with state := .up } with pwr := { live.pwr with balanced := true, jobs := [⟨5, 100, [], [], []⟩] } }
    let j := { s with part := [(63, { part .running with plan := some { plan with job := 7 } })] }
    runningJobs s = [] ∧ runningJobs j = [7] ∧ portUp s 24 = true ∧ bits (BitVec.ofNat 32 (7 * 2 ^ 20)) 31 23 = s.lnk.tray.toNat ∧
    jobStopped s = true ∧ jobStopped j = false ∧ (s.pwr.jobs.find? fun b => decide (b.job = 5)) = some ⟨5, 100, [], [], []⟩ ∧ s.pwr.balanced = true := by decide +kernel
def refs (r : RefIn) : State := { live with clk := { live.clk with refA := r, refB := r, rootLocked := true, timebaseLocked := true } }
theorem witness_ReferencesSwitch :
    let s := refs ⟨true, true, 255⟩
    (∀ r ∈ [Ref.a, Ref.b], (s.refAt r).present = true) ∧ s.clk.active = .a ∧ s.clk.rootLocked = true ∧ s.clk.holdover = false ∧
    switchResult s .b = .ok ∧ s.clk.active ≠ .b ∧ s.clk.autoFailover = true ∧ { s.clk with switchTo := some Ref.b }.switchTo = some .b ∧ { s.clk with holdover := true }.holdover = true ∧
    s.clk.timebaseLocked = true ∧ s.dev.state ≠ .safe ∧
    (let u := { s with clk := { s.clk with refA := ⟨false, false, 0⟩, switchTo := some .b } }
     (u.refAt .b).present = true ∧ ((u.setRef .b ⟨false, false, 0⟩).refAt u.clk.active).present = false) := by decide +kernel
theorem witness_ClockStepsChange :
    let k := { TierClk.empty with target := some 4 }
    let s := live.modClk 7 fun _ => k
    (live.clkAt 7).target = none ∧ (live.clkAt 7).stopped = false ∧ limitOf live 7 ≤ 4 ∧ 4 ≠ (live.clkAt 7).cur ∧
    (s.clkAt 7).target = some 4 ∧ (s.clkAt 7).toBypass = false ∧ (s.clkAt 7).stopped = false ∧ tierDrained s 7 = true ∧
    (let b := live.modClk 7 fun _ => { k with toBypass := true }
     (b.clkAt 7).target = some 4 ∧ (b.clkAt 7).toBypass = true ∧ (b.clkAt 7).stopped = false ∧ tierDrained b 7 = true) := by decide +kernel
theorem witness_GlobalTimeIsKept :
    let s := { refs ⟨true, true, 0⟩ with time := { live.time with missRun := [(7, 2)] } }
    let m := { port { Port.empty with state := .up, peer := some (ident 0) } with strap := { live.strap with traySlot := 1 } }
    s.clk.timebaseLocked = true ∧ s.time.held = false ∧ s.nowNat % 2 ^ 20 = 0 ∧ mget s.time.missRun 7 0 ≠ 3 ∧ mget [(7, 3)] 7 0 = 3 ∧ followsMaster s = false ∧ followsMaster m = true ∧
    s.dev.ready = true ∧ m.dev.ready = true ∧ m.dev.state ≠ .safe := by decide +kernel
theorem witness_DroopsAndRegulators :
    let s := live.modPwr 7 fun v => { v with quads := [(3, .on)], badVdl := natsFrom 0 8 }
    droopLevel live 46 ≠ 0 ∧ droopLevel live 45 = 0 ∧ s.part = [] ∧ s.routes = [] ∧ mget (s.pwrAt 7).quads 3 QState.off = .on ∧
    23 ∉ (s.pwrAt 7).badVdl ∧ (s.pwrAt 7).badVdl.length = 8 ∧ (live.pwrAt 7).badVdl.length ≠ 8 ∧ (s.pwrAt 7).failed = false ∧
    (let o := (live.modPwr 7 fun v => { v with amps := 481 })
     let o := { o with pwr := { o.pwr with coreBubbles := [(2047, 48)] } }
     48 ≤ tierBubbles o 7 ∧ (o.pwrAt 7).phaseLim < (o.pwrAt 7).amps) ∧
    7 ∉ [0, 1] ∧ (live.pwrAt 7).badVda.length ≠ 2 ∧ { live.pwrAt 7 with badVda := [0, 1] }.badVda.length = 2 ∧
    ({ live with routes := [{ route0 with core := 2047 }] }.routes.any fun r => inQuad 7 3 r.core) = true := by decide +kernel
theorem witness_AdmissionsStep :
    let a := fun (ph : Nat) => ({ kind := .compute, target := 3, phase := ph, waited := true, again := false, bubbles := 0 } : Admit)
    let s := fun (ph : Nat) => live.modPwr 7 fun v => { v with queue := [a ph], quads := [(3, .admitting)] }
    ∀ ph ∈ [0, 1], admitOf (s ph) 7 .compute = some (a ph) ∧ stillWaits (s ph) 7 (a ph) = true ∧ (a ph).phase = ph := by decide +kernel
theorem witness_AdmissionsStep_nbu :
    let a : Admit := { kind := .nbu, target := 2047, phase := 1, waited := true, again := false, bubbles := 4 }
    let s := live.modPwr 7 fun v => { v with queue := [a] }
    admitOf s 7 .nbu = some a ∧ stillWaits s 7 a = true ∧ a.phase ≠ 0 := by decide +kernel
theorem witness_SupplyEvents : live.pins.pwrOk = true ∧ live.dev.state ≠ .off := by decide +kernel
theorem witness_CoolingAndTemperature :
    bit (BitVec.ofNat 64 (2 ^ 56 + 255 * 2 ^ 48)) 56 = true ∧ live.thm.lastSeq ≠ some 255#8 ∧ live.thm.coolantLost = false ∧ live.dev.state ≠ .off ∧
    sensorOk (List.replicate 656 0) = true ∧ (live.layerAt 15).suspect = false ∧
    { Layer.empty with suspect := true }.suspect = true ∧
    (let rate := fun (n : Nat) => { live with memc := { live.memc with ce := [(7, BitVec.ofNat 48 n)] }, thm := { live.thm with ceHist := [(7, [1, 1])] } }
     ∀ n ∈ [(3, 0), (4, 1), (31, 1), (32, 2)],
       ((mget (rate n.1).memc.ce 7 0 - mget (rate n.1).thm.ceLast 7 0).toNat * 2 < 4 * 2 ↔ n.2 = 0) ∧
       (32 * 2 ≤ (mget (rate n.1).memc.ce 7 0 - mget (rate n.1).thm.ceLast 7 0).toNat * 2 ↔ n.2 = 2)) ∧
    firmwareRuns live = true ∧ live.thm.thermtrip = false ∧
    (let b := { live with dev := { live.dev with fwDead := true } }
     b.dev.state ≠ .off ∧ firmwareRuns b = false ∧ b.part = []) := by decide +kernel
theorem witness_CoolingAndTemperature_ageing : ageingOk (List.replicate 11520 0) (List.replicate 256 1000) = true :=
  decide_eq_true ⟨List.length_replicate, List.length_replicate⟩
def window0 (n : Nat) : MergeWin := { unit := 5, status := 9, detail := 2, count := n, last := 0 }
theorem witness_RecordsAndWeevil :
    let w := fun (n : Nat) => { live with ras := { live.ras with windows := [window0 n] } }
    let r := { live with weevil := { live.weevil with running := true } }
    let late := { live with time := { live.time with now := 60000000000 } }
    (∀ n ∈ [0, 1], ((w n).ras.windows.find? fun w => decide (w.unit = 5 ∧ w.status = 9 ∧ w.detail = 2)) = some (window0 n)) ∧
    (rasOpen live = true ∧ live.ras.logEnable = false ∧ live.ras.sigEnable = false ∧ bits (16#64) 4 0 = 16 ∧ bits (12#64) 3 0 = 12) ∧
    (live.weevil.enable = true ∧ live.weevil.running = false ∧ live.dev.state = .ready ∧ live.isQuar live.weevil.core = false ∧
      live.ownerOf live.weevil.core = none) ∧
    (r.weevil.running = true ∧ r.weevil.slice + 1 < sliceCount r.fuse.grade ∧
      ∀ g ∈ [Grade.a3, .a4], sliceCount g ≤ { r.weevil with slice := 239 }.slice + 1) ∧
    late.weevil.visitStart.toNat + 60 * oneS ≤ late.nowNat := by decide +kernel
/-- Some word differs from the signature that a slice has (an opaque function of Config). -/
theorem witness_RecordsAndWeevil_mismatch (n m : Nat) : ∃ w : W64, w ≠ Config.weevilSignature n m :=
  ⟨Config.weevilSignature n m + 1, by simp⟩
theorem witness_CorrectedEventsMerge :
    let r : Report := { unit := 5, status := 9, cls := .corrected, code := 2 }
    r.cls = .corrected ∧ ∃ w ∈ [window0 1], w.hasKey r.unit r.status r.code = true := by decide +kernel
theorem witness_RecoveryRuns :
    let v := part .recovering
    let s := { live with part := [(63, v)] }
    let x := { snap0 3 with part := 63 }
    let w := { v with lastSnap := some 1 }
    let t := { live with part := [(63, w)], snaps := [x] }
    let b := { bar0 with part := 63, snap := true, sentArrive := true }
    let u := { live with part := [(63, v)], bars := [b], snaps := [{ snap0 2 with part := 63 }] }
    (live.isRouterQuar 2047 = false ∧ mget? live.ras.parityAt 2047 = none ∧ live.nowNat ≤ (0#64).toNat + dayNs) ∧
    (s.part? 63 = some v ∧ v.state = .recovering ∧ v.restored = false ∧ (s.bars.any fun b => decide (b.part = 63) && b.undecided s.snaps) = false ∧
      downPort (recoveryReset s 63) v = none ∧ (lastTaken (recoveryReset s 63) 63 v).isNone = true ∧ v.plan = some plan) ∧
    (t.part? 63 = some w ∧ lastTaken (recoveryReset t 63) 63 w = some x) ∧
    ((part .running).runSince.toNat + oneS ≤ { live with time := { live.time with now := 1000000000 } }.nowNat ∧
      (part .running).plan = some plan ∧ plan.hasSnap = false) ∧
    ((u.bars.find? fun b => decide (b.part = 63) && b.undecided u.snaps) = some b) := by decide +kernel
theorem witness_EpisodesHaveALimit :
    let s := fun (n : Nat) => { live with part := [(63, { part .running with faults := n })] }
    ∀ n ∈ [0, 1, 2], (s n).part? 63 = some { part .running with faults := n } := by decide +kernel
/-- A machine at a stage of its start, with the bundle in its mailbox buffer. -/
def bundle5 : List Byte :=
  leBytes (0x4E4D5A4B + 2 ^ 32 + 5 * 2 ^ 48) 128 ++ (natsFrom 1 5).flatMap (fun k => leBytes (k + 544 * 2 ^ 32) 16 ++ sha384 []) ++ List.replicate 96 0#8
def stage (n : Nat) : State :=
  { State.reset with boot := { State.reset.boot with stage := n, mbox := true, bundle := bundle5 }, dev := { State.reset.dev with state := .boot } }
theorem witness_StartUpBeginsAndVerifies :
    let off := { State.reset with pins := { State.reset.pins with pwrOk := false } }
    let rel := { State.reset with clk := { State.reset.clk with rootReleased := true } }
    (off.pins.pwrOk = false ∧ off.land.bootSrc ≠ 3#2 ∧ { off.land with bootSrc := 3 }.bootSrc = 3#2) ∧
    (atStage (stage 6) 6 = true ∧ sensorOk (List.replicate 656 0) = true) ∧
    (State.reset.dev.state = .resetHold ∧ State.reset.boot.fault = false ∧ State.reset.clk.rootReleased = false) ∧
    (rel.clk.rootReleased = true ∧ rel.clk.rootLocked = false ∧ atStage rel 0 = true ∧ rel.clk.triedOther = false ∧
      atStage { rel with clk := { rel.clk with triedOther := true } } 0 = true) ∧
    (∀ n ∈ [1, 2, 3, 4, 5], atStage (stage n) n = true ∧ (stage n).dev.state = .boot) ∧ (stage 1).boot.waiting = false ∧
    (imageHolds (stage 2) 1 = true ∧ imageHolds (stage 2) 2 = true ∧ imageHolds (stage 2) 3 = true ∧ afterImages (stage 2) ≤ 5 ∧ (stage 4).thm.thermtrip = false) ∧
    (∀ t ∈ natsFrom 0 8, nextTier { stage 4 with boot := { (stage 4).boot with tiersUp := natsFrom 0 t } } = some t) ∧
    (phasesOf 255 48).length = 8 ∧ (phasesOf 255 24).length = 8 ∧ (phasesOf 3 8).length = 2 := by decide +kernel
theorem witness_StartUpEnds :
    (∀ n ∈ [7, 8, 9, 10], atStage (stage n) n = true) ∧ ([] : List W32).find? (siteUsed (stage 7)) = none ∧
    [BitVec.ofNat 32 256].find? (siteUsed (stage 7)) = some (BitVec.ofNat 32 256) ∧ { (stage 8).boot with cold := false }.cold = false ∧
    (stage 8).memc.selftestPass = false ∧ { (stage 8).memc with selftestPass := true }.selftestPass = true ∧ (stage 8).boot.cold = true ∧
    (stage 10).boot.ucode = false ∧ imageHolds (stage 10) 4 = true ∧ imageHolds (stage 10) 5 = true ∧
    crcFails (stage 10) 4 104 = none ∧ crcFails (stage 10) 5 80 = none ∧ siteUsed (stage 10) (coreUnit (stage 10) 0 104) = true ∧
    (let bad := { stage 10 with boot := { (stage 10).boot with bundle := bundle5.set 332 1#8 } }
     crcFails bad 4 104 = some (coreUnit bad 0 104)) ∧
    (let s := { stage 10 with boot := { (stage 10).boot with ucode := true, trainEnd := true } }
     atStage s 10 = true ∧ s.boot.ucode = true ∧ s.boot.trainEnd = true) := by decide +kernel
theorem witness_TrustIsKept :
    let w := fun (n : Nat) => BitVec.ofNat 64 (n + 2 ^ 16)
    let bs := List.replicate 104 0#8
    let d := { live with sec := { live.sec with dbgFails := 2 } }
    (live.dev.ready = true ∧ { live.boot with stage := 11 }.stage = 11) ∧
    (∀ n ∈ [1, 32768], bits (w n) 15 0 = n ∧ bit (w n) 16 = true) ∧ { live.boot with waiting := true }.waiting = true ∧
    (dbgResponseOk bs = true ∧ d.dev.state ≠ .off ∧ d.sec.dbgLocked = false ∧
      responseOk d bs = false ∧ d.sec.dbgFails = 2) := by decide +kernel
theorem witness_ResetsAreTaken :
    let s := { live with dev := { live.dev with resetWanted := some .devReset } }
    (resetPossible s = true ∧ s.dev.resetWanted = some .devReset) ∧
    (live.dev.ready = true ∧ live.pins.pwrOk = true ∧ live.dev.state = .ready ∧ live.dev.resetWanted = none ∧ live.pins.perst = false) ∧
    (live.dev.resetWanted ≠ some .badStatus ∧ live.dev.state ≠ .off ∧ live.dev.state ≠ .resetHold) ∧
    (4 : Fin 5).val ≠ 0 := by decide +kernel
theorem witness_TapAnswers : State.reset.dev.state ≠ .off ∧ State.reset.dev.state = .resetHold ∧ live.dev.state ≠ .resetHold := by decide +kernel
theorem witness_ScratchRegister :
    (List.replicate 8 255#8).length = 8 ∧ live.hst.linkUp = true ∧ live.hst.d3hot = false ∧ live.dev.ready = true ∧ live.dev.state ≠ .off := by
  decide +kernel

-- Worked examples of the spec, and known answers

/-- SHA-384 of no bytes (FIPS 180-4). -/
theorem test_sha384_of_nothing :
    leNat (fun i => (sha384 []).reverse.getD i 0#8) 0 48 =
      0x38b060a751ac96384cd9327eb1b1e36a21fdb71114be07434c0cc7bf63f6e1da274edebfe76f65fbd51ad2f14898b95b := by decide +kernel
/-- CRC-32C of the nine digits 1 to 9 (R369 names the polynomial). -/
theorem test_crc32c_of_digits : crc32c ((natsFrom 0x31 9).map fun n => BitVec.ofNat 8 n) = 0xE3069283 := by decide +kernel
/-- "One address, every name": the device in slot 6 of tray 2. -/
def slot6 : State := { live with strap := { live.strap with traySlot := 6 }, lnk := { live.lnk with tray := 2 } }
theorem test_one_address_every_name :
    dramDpa 0x5C3 0x2ACC840 = 0x2E1AACC840 ∧ coreIdOf 5 12 3 = 0x5C3 ∧ pageOf 0x2ACC840 = 0x5599 ∧ bankOf 0x2ACC840 = 9 ∧ quadOf 0x5C3 = 2 ∧
    coreUnit slot6 0x5C3 73 = 0x016B8649 ∧ sramDpa 0x5C3 0x123440 = 0x4170D23440 ∧ sramBank 0x123440 = 17 := by decide +kernel
/-- A BAR2 write that runs into the command window fails as a whole, with the status that the region's mode gives (the
example of chapter 1, with 64 bytes on either side). -/
theorem test_write_across_the_window :
    let w := fun (s : State) => match dpaWrite s (dramDpa 0x5C3 0x5FFFFC0) (List.replicate 128 1#8) with
      | .fail t f => t.mem.isEmpty && decide (f.status = .stateConflict)
      | _ => false
    let a := fun (s : State) => match dpaWrite s (dramDpa 0x5C3 0x5FFFFC0) (List.replicate 128 1#8) with
      | .fail t f => t.mem.isEmpty && decide (f.status = .addrFault)
      | _ => false
    w slot6 = true ∧ w { slot6 with region := [(0x5C3, { Region.empty with mode := .drain })] } = true ∧
    a { slot6 with region := [(0x5C3, { Region.empty with mode := .compute })] } = true := by decide +kernel
/-- "Residues through one output": 1.5 × −2.25 and 0.3125 × 3.5 with W = −18. -/
theorem test_residues_through_one_output :
    let v := Val.scaled
    let k := accumulate false { Acc.empty with w := -18 } [(v 12 (-3), v (-9) (-2)), (v 10 (-5), v 14 (-2))]
    k.acc.a.toInt = -598016 ∧ k.acc.res = 1 ∧ k.acc.mismatch false = none ∧ ({ k.acc with a := k.acc.a ^^^ 0x4000#88 } : Acc).mismatch false ≠ none := by
  decide +kernel
/-- "The maximum moves in the last block": three partials in order. -/
theorem test_maximum_moves_in_the_last_block :
    let t := fun (m l a b : Nat) => (⟨BitVec.ofNat 32 m, BitVec.ofNat 32 l, [BitVec.ofNat 32 a, BitVec.ofNat 32 b], 0⟩ : Triple)
    let p := (mergeTriple (t 0x40500000 0x40A00000 0x40200000 0xBF800000) (t 0x40D80000 0x3FC00000 0x3F400000 0x3F000000)).1
    let q := (mergeTriple p (t 0xC3120000 0x40000000 0x3F800000 0x3F800000)).1
    p.m = 0x40D80000 ∧ p.l = 0x3FF8918C ∧ q.m = p.m ∧ q.l = p.l ∧ q.o = p.o := by decide +kernel
/-- Handle of channel 70,000, generation 3. -/
theorem test_handle_of_channel_70000 :
    let s := { live with hst := { live.hst with chans := [(70000, { Channel.closed0 with state := .open, gen := 3 })] } }
    handleChan s 0x000D1170 = some 70000 ∧ handleChan s 0x00091170 = none := by decide +kernel

-- Commands that are not well formed, and the queue

theorem test_malformed_commands :
    (Instr.bar2Read 0 0).wf = false ∧ (Instr.bar2Read 0 4097).wf = false ∧ (Instr.bar2Write 0 []).wf = false ∧
    (Instr.bar2Write 0 (List.replicate 513 0)).wf = false ∧ (Instr.registerWrite (.bar0 0) []).wf = false ∧ (Instr.damperUpdate 0 [] []).wf = false ∧
    (Instr.sensorSample []).wf = false ∧ (Instr.ageingMeasurement 0 [] []).wf = false ∧
    (Instr.dbgResponse []).wf = false ∧ (Instr.ivrPhaseFailure 0 .vda 8).wf = false ∧ (Instr.ivrPhaseFailure 0 .vct 47).wf = true := by decide +kernel
theorem test_malformed_commands_stop :
    exec (.bar2Read 0 0) live = .fault .malformedCommand ∧ exec (.bar2Write 0 []) live = .fault .malformedCommand ∧
    exec (.registerWrite (.bar0 0) []) live = .fault .malformedCommand ∧ exec (.damperUpdate 0 [] []) live = .fault .malformedCommand ∧
    exec (.sensorSample []) live = .fault .malformedCommand ∧
    exec (.ageingMeasurement 0 [] []) live = .fault .malformedCommand ∧ exec (.dbgResponse []) live = .fault .malformedCommand ∧
    exec (.ivrPhaseFailure 0 .vda 8) live = .fault .malformedCommand := ⟨rfl, rfl, rfl, rfl, rfl, rfl, rfl, rfl⟩
/-- The table gives no row any bits, so no word spells a command. -/
theorem test_no_word_spells_a_command : decodeTableWord 8 0 = none ∧ live.withFetchWord 8 0 = live := ⟨rfl, rfl⟩

end Sys2Proof.Tests
end

section
/-! PROOFS. Places and addresses (01_stack_organisation.md): fields of a core ID, what the offsets of a DRAM slot decode to, and
the NBU that a line of either window reaches. -/

namespace Sys2Proof.Machine

-- Fields of words

/-- A bit field of a number that is cut to a word. -/
theorem bits_ofNat (w x hi lo : Nat) : bits (BitVec.ofNat w x) hi lo = x % 2 ^ w / 2 ^ lo % 2 ^ (hi + 1 - lo) := by
  simp only [bits, BitVec.toNat_ofNat, Nat.shiftRight_eq_div_pow]

theorem tierOf_eq_bits (c : Nat) (h : c < 2048) : tierOf c = bits (BitVec.ofNat 11 c) 10 8 := by
  simp only [bits_ofNat, tierOf]; omega
theorem rowOf_eq_bits (c : Nat) : rowOf c = bits (BitVec.ofNat 11 c) 7 4 := by
  simp only [bits_ofNat, rowOf]; omega
theorem colOf_eq_bits (c : Nat) : colOf c = bits (BitVec.ofNat 11 c) 3 0 := by
  simp only [bits_ofNat, colOf]; omega

theorem tierOf_lt (c : Nat) (h : c < 2048) : tierOf c < 8 := by simp only [tierOf]; omega
theorem rowOf_lt (c : Nat) : rowOf c < 16 := Nat.mod_lt _ (by decide)
theorem colOf_lt (c : Nat) : colOf c < 16 := Nat.mod_lt _ (by decide)

/-- The three fields of a core ID make up the whole of it. -/
theorem coreIdOf_fields (c : Nat) : coreIdOf (tierOf c) (rowOf c) (colOf c) = c := by
  simp only [coreIdOf, tierOf, rowOf, colOf]; omega

/-- Bits [23:20] of any slot offset name the NBU, whichever window it lies in. -/
theorem winNbu_eq_bits (off : Nat) : winNbu off = bits (BitVec.ofNat 27 off) 23 20 := by
  simp only [bits_ofNat, winNbu]; omega

-- Window lines

theorem writePiece_command (s : State) (a c off whole : Nat) (bs : List Byte) (h : placeOf a = .cmdWindow c off) :
    writePiece s a whole bs = writeWindow s c off bs whole := by
  unfold writePiece; rw [h]

/-- A whole aligned line that the NBU's command window takes is written (R31, R201). -/
theorem writeWindow_line {s t : State} {c off : Nat} {bs : List Byte} (hm : (s.regionAt c).mode = .compute) (hl : bs.length = 64)
    (ha : off % 64 = 0) (hw : windowWrite s c (winNbu off) (winLine off) (lineOfBytes bs) .service = .done t) :
    writeWindow s c off bs 64 = .done t := by
  simp [writeWindow, hm, hl, ha, hw]

/-- A line of NBU n's share of the result window reads what that NBU holds. -/
theorem readPiece_nbuLine (s : State) (c n j : Nat) (hc : c < 2048) (hn : n < 16) (hj : j < 16384)
    (hm : (s.regionAt c).mode ≠ .normal) :
    readPiece s (dramDpa c (0x7000000 + 0x100000 * n + 64 * j)) 64 = (s.draw, .ok (bytesOf (peekLine s c n j) 64)) := by
  have hp := placeOf_result c (0x7000000 + 0x100000 * n + 64 * j) hc (by omega) (by omega)
  rw [readPiece_result s _ c _ 64 hp, readWindow_line s c _ hm (by omega), winNbu_of _ n _ (by decide) hn (by omega),
    winLine_of _ n j (by decide) hj]

/-- A line written to NBU n's share of the command window reaches that NBU. -/
theorem writePiece_nbuLine {s t : State} {c n j : Nat} {bs : List Byte} (hc : c < 2048) (hn : n < 16) (hj : j < 16384)
    (hl : bs.length = 64) (hm : (s.regionAt c).mode = .compute)
    (hw : windowWrite s c n j (lineOfBytes bs) .service = .done t) :
    writePiece s (dramDpa c (0x6000000 + 0x100000 * n + 64 * j)) 64 bs = .done t := by
  have hd : dramBytes = 0x6000000 := rfl
  have hp := placeOf_command c (0x6000000 + 0x100000 * n + 64 * j) hc (by omega) (by omega)
  rw [writePiece_command s _ c _ 64 bs hp]
  apply writeWindow_line hm hl (by omega)
  rwa [winNbu_of _ n _ (by decide) hn (by omega), winLine_of _ n j (by decide) hj]

-- The statements

/-- Settles O28: both windows start on a multiple of 16 MiB, so the NBU and the line are read off the offset alone. -/
theorem windowBitsSelectTheNbu : Obligations.WindowBitsSelectTheNbu := by
  refine ⟨fun base n k hb hn hk => ?_, fun c n j s hj => ⟨?_, fun bs t hl hm hw => ?_⟩⟩
  · have hbase : base % 0x1000000 = 0 := by
      rcases hb with rfl | rfl <;> rfl
    exact ⟨winNbu_eq_bits _, winNbu_of base n k hbase hn hk⟩
  · exact readPiece_nbuLine s c.val n.val j c.isLt n.isLt hj
  · exact writePiece_nbuLine c.isLt n.isLt hj hl hm hw

/-- Settles O26: the three fields are the digits of the ID in the bases 8, 16 and 16. -/
theorem coreIdNamesItsPlace : Obligations.CoreIdNamesItsPlace :=
  ⟨fun c h => ⟨tierOf_eq_bits c h, rowOf_eq_bits c, colOf_eq_bits c, tierOf_lt c h, rowOf_lt c, colOf_lt c, coreIdOf_fields c⟩, rfl⟩

/-- Settles O27: the core and the slot offset are told from the address, and the offset falls into one of the three ranges. -/
theorem dramSlotOffsetsDecode : Obligations.DramSlotOffsetsDecode := by
  intro c off hc
  have hd : dramBytes = 0x6000000 := rfl
  refine ⟨fun h => ?data, fun h h' => ?command, fun h h' => ?result⟩
  case data => exact placeOf_data c off hc (by omega)
  case command => exact placeOf_command c off hc (by omega) (by omega)
  case result => exact placeOf_result c off hc h (by omega)

end Sys2Proof.Machine
end

section
/-! PROOFS. What every step and every command leave as they are: the rows' frames (Laws/StaysRows.lean) put together along the
table of commands. -/

namespace Sys2Proof.Machine

/-- The fields that a row's frame names lie in those that its command may change. -/
theorem touched {T L : List Field} (e : (T.all fun F => L.contains F) = true) : Sub T L := (Sub.refl L).of e

/-- The frame of every command: its row changes no field outside the list that `touches` gives. -/
theorem exec_stays (c : Instr) (s : State) : RStays (touches c) s (exec c s) := by
  cases c with
  | mma _ => exact execMma_stays (.refl _ s) (touched rfl)
  | mmap _ => exact execMmap_stays (.refl _ s) (touched rfl)
  | ewa _ => exact execEwa_stays (.refl _ s) (touched rfl)
  | vfn _ => exact execVfn_stays (.refl _ s) (touched rfl)
  | red _ => exact execRed_stays (.refl _ s) (touched rfl)
  | qscan _ => exact execQscan_stays (.refl _ s) (touched rfl)
  | qconv _ => exact execQconv_stays (.refl _ s) (touched rfl)
  | dq _ => exact execDq_stays (.refl _ s) (touched rfl)
  | smx _ => exact execSmx_stays (.refl _ s) (touched rfl)
  | smxm _ => exact execSmxm_stays (.refl _ s) (touched rfl)
  | snd _ => exact execSnd_stays (.refl _ s) (touched rfl)
  | rcv _ => exact execRcv_stays (.refl _ s) (touched rfl)
  | xfwdInstall _ => exact execXfwdInstall_stays (.refl _ s) (touched rfl)
  | xfwdRelease _ => exact execXfwdRelease_stays (.refl _ s) (touched rfl)
  | chrd _ => exact execChrd_stays (.refl _ s) (touched rfl)
  | chwr _ => exact execChwr_stays (.refl _ s) (touched rfl)
  | nbcCmd _ => exact execNbcCmd_stays (.refl _ s) (touched rfl)
  | nbcResult _ => exact execNbcResult_stays (.refl _ s) (touched rfl)
  | wait _ => exact execWait_stays (.refl _ s) (touched rfl)
  | waitConditionMet _ => exact execWaitConditionMet_stays (.refl _ s) (touched rfl)
  | bar _ => exact execBar_stays (.refl _ s) (touched rfl)
  | barrierComplete _ _ => exact execBarrierComplete_stays (.refl _ s) (touched rfl)
  | snapshotTaken _ => exact execSnapshotTaken_stays (.refl _ s) (touched rfl)
  | chk _ => exact execChk_stays (.refl _ s) (touched rfl)
  | idle _ => exact execIdle_stays (.refl _ s) (touched rfl)
  | idleSlotEnd _ => exact execIdleSlotEnd_stays (.refl _ s) (touched rfl)
  | loop _ => exact execLoop_stays (.refl _ s) (touched rfl)
  | sig _ => exact execSig_stays (.refl _ s) (touched rfl)
  | optu _ => exact execOptu_stays (.refl _ s) (touched rfl)
  | opComplete _ _ _ => exact execOpComplete_stays (.refl _ s) (touched rfl)
  | opTimeout _ _ => exact execOpTimeout_stays (.refl _ s) (touched rfl)
  | quiesceComplete _ => exact execQuiesceComplete_stays (.refl _ s) (touched rfl)
  | lineArrival _ _ _ _ => exact execLineArrival_stays (.refl _ s) (touched rfl)
  | checkWordArrival _ _ _ => exact execCheckWordArrival_stays (.refl _ s) (touched rfl)
  | creditReturn _ _ _ => exact execCreditReturn_stays (.refl _ s) (touched rfl)
  | transitForward _ _ _ => exact execTransitForward_stays (.refl _ s) (touched rfl)
  | portStarvationGrant _ bank _ => exact execPortStarvationGrant_stays (n1 := bank) (.refl _ s) (touched rfl)
  | sramScrub _ _ => exact execSramScrub_stays (.refl _ s) (touched rfl)
  | sramScrubForced _ _ => exact execSramScrubForced_stays (.refl _ s) (touched rfl)
  | partCreate _ => exact execPartCreate_stays (.refl _ s) (touched rfl)
  | partLoad _ => exact execPartLoad_stays (.refl _ s) (touched rfl)
  | partStart _ => exact execPartStart_stays (.refl _ s) (touched rfl)
  | partQuiesce _ => exact execPartQuiesce_stays (.refl _ s) (touched rfl)
  | partResume _ => exact execPartResume_stays (.refl _ s) (touched rfl)
  | partReset _ => exact execPartReset_stays (.refl _ s) (touched rfl)
  | partUnload _ => exact execPartUnload_stays (.refl _ s) (touched rfl)
  | partDestroy _ => exact execPartDestroy_stays (.refl _ s) (touched rfl)
  | partQuery _ => exact execPartQuery_stays (.refl _ s) (touched rfl)
  | partSnapshot _ => exact execPartSnapshot_stays (.refl _ s) (touched rfl)
  | routerReset _ => exact execRouterReset_stays (.refl _ s) (touched rfl)
  | refreshCommand _ _ => exact execRefreshCommand_stays (.refl _ s) (touched rfl)
  | refreshIntervalRelax _ => exact execRefreshIntervalRelax_stays (.refl _ s) (touched rfl)
  | dramScrubPage _ _ => exact execDramScrubPage_stays (.refl _ s) (touched rfl)
  | scrubLapAlarm _ => exact execScrubLapAlarm_stays (.refl _ s) (touched rfl)
  | chimneyLineTest _ _ _ => exact execChimneyLineTest_stays (.refl _ s) (touched rfl)
  | bar2Read _ _ => exact execBar2Read_stays (.refl _ s) (touched rfl)
  | bar2Write _ _ => exact execBar2Write_stays (.refl _ s) (touched rfl)
  | nbuCommandWrite _ _ _ _ _ => exact execNbuCommandWrite_stays (.refl _ s) (touched rfl)
  | nbuQueueFullTimeout _ _ => exact execNbuQueueFullTimeout_stays (.refl _ s) (touched rfl)
  | queryWrite _ _ _ _ _ _ => exact execQueryWrite_stays (.refl _ s) (touched rfl)
  | queryAllWrite _ _ _ _ _ => exact execQueryAllWrite_stays (.refl _ s) (touched rfl)
  | regionParamWrite _ _ _ => exact execRegionParamWrite_stays (.refl _ s) (touched rfl)
  | popRead _ _ => exact execPopRead_stays (.refl _ s) (touched rfl)
  | groupLine0Read _ _ => exact execGroupLine0Read_stays (.refl _ s) (touched rfl)
  | groupFold _ _ => exact execGroupFold_stays (.refl _ s) (touched rfl)
  | nbuCommandStart _ _ => exact execNbuCommandStart_stays (.refl _ s) (touched rfl)
  | attp _ _ => exact execAttp_stays (.refl _ s) (touched rfl)
  | attqk _ _ => exact execAttqk_stays (.refl _ s) (touched rfl)
  | attav _ _ => exact execAttav_stays (.refl _ s) (touched rfl)
  | kvapp _ _ => exact execKvapp_stays (.refl _ s) (touched rfl)
  | kvdecay _ _ => exact execKvdecay_stays (.refl _ s) (touched rfl)
  | fill _ _ => exact execFill_stays (.refl _ s) (touched rfl)
  | copy _ _ => exact execCopy_stays (.refl _ s) (touched rfl)
  | gather _ _ => exact execGather_stays (.refl _ s) (touched rfl)
  | scatter _ _ => exact execScatter_stays (.refl _ s) (touched rfl)
  | rsum _ _ => exact execRsum_stays (.refl _ s) (touched rfl)
  | bchk _ _ => exact execBchk_stays (.refl _ s) (touched rfl)
  | nbuCommandComplete _ _ => exact execNbuCommandComplete_stays (.refl _ s) (touched rfl)
  | nbuRowBoundary _ _ => exact execNbuRowBoundary_stays (.refl _ s) (touched rfl)
  | evictionSelection => exact execEvictionSelection_stays (.refl _ s) (touched rfl)
  | regionModeNormal _ => exact execRegionModeNormal_stays (.refl _ s) (touched rfl)
  | regionModeCompute _ => exact execRegionModeCompute_stays (.refl _ s) (touched rfl)
  | regionModeDrain _ => exact execRegionModeDrain_stays (.refl _ s) (touched rfl)
  | nbuAdmission _ _ => exact execNbuAdmission_stays (.refl _ s) (touched rfl)
  | batchDecode _ => exact execBatchDecode_stays (.refl _ s) (touched rfl)
  | batchPrefill _ => exact execBatchPrefill_stays (.refl _ s) (touched rfl)
  | batchDone _ => exact execBatchDone_stays (.refl _ s) (touched rfl)
  | scanEnSet _ => exact execScanEnSet_stays (.refl _ s) (touched rfl)
  | scanEnClear => exact execScanEnClear_stays (.refl _ s) (touched rfl)
  | doorbellScan => exact execDoorbellScan_stays (.refl _ s) (touched rfl)
  | descriptorArrival _ => exact execDescriptorArrival_stays (.refl _ s) (touched rfl)
  | groupAdmission _ => exact execGroupAdmission_stays (.refl _ s) (touched rfl)
  | groupTimeout _ => exact execGroupTimeout_stays (.refl _ s) (touched rfl)
  | completionTimeout _ => exact execCompletionTimeout_stays (.refl _ s) (touched rfl)
  | completionError _ err => exact execCompletionError_stays (n1 := err) (.refl _ s) (touched rfl)
  | busMasterDisable => exact execBusMasterDisable_stays (.refl _ s) (touched rfl)
  | busMasterEnable => exact execBusMasterEnable_stays (.refl _ s) (touched rfl)
  | interruptHoldoffExpiry _ => exact execInterruptHoldoffExpiry_stays (.refl _ s) (touched rfl)
  | nop _ => exact execNop_stays (.refl _ s) (touched rfl)
  | chCreate _ => exact execChCreate_stays (.refl _ s) (touched rfl)
  | chDestroy _ => exact execChDestroy_stays (.refl _ s) (touched rfl)
  | channelCloseComplete _ => exact execChannelCloseComplete_stays (.refl _ s) (touched rfl)
  | chResume _ => exact execChResume_stays (.refl _ s) (touched rfl)
  | chQuery _ => exact execChQuery_stays (.refl _ s) (touched rfl)
  | chimneyQuery _ => exact execChimneyQuery_stays (.refl _ s) (touched rfl)
  | licInstall _ _ => exact execLicInstall_stays (.refl _ s) (touched rfl)
  | fwUpdate _ _ => exact execFwUpdate_stays (.refl _ s) (touched rfl)
  | pwrCap _ => exact execPwrCap_stays (.refl _ s) (touched rfl)
  | telemetry _ => exact execTelemetry_stays (.refl _ s) (touched rfl)
  | attest _ => exact execAttest_stays (.refl _ s) (touched rfl)
  | devReset _ => exact execDevReset_stays (.refl _ s) (touched rfl)
  | cpCopy _ => exact execCpCopy_stays (.refl _ s) (touched rfl)
  | cpFill _ => exact execCpFill_stays (.refl _ s) (touched rfl)
  | kvSetup _ => exact execKvSetup_stays (.refl _ s) (touched rfl)
  | kvRelease _ => exact execKvRelease_stays (.refl _ s) (touched rfl)
  | kvPte _ => exact execKvPte_stays (.refl _ s) (touched rfl)
  | kvSeqRegister _ => exact execKvSeqRegister_stays (.refl _ s) (touched rfl)
  | kvSeqPause _ => exact execKvSeqPause_stays (.refl _ s) (touched rfl)
  | kvSeqResume _ => exact execKvSeqResume_stays (.refl _ s) (touched rfl)
  | kvSeqRemove _ => exact execKvSeqRemove_stays (.refl _ s) (touched rfl)
  | kvResult _ => exact execKvResult_stays (.refl _ s) (touched rfl)
  | cpPut _ => exact execCpPut_stays (.refl _ s) (touched rfl)
  | cpGet _ => exact execCpGet_stays (.refl _ s) (touched rfl)
  | portDetect _ _ => exact execPortDetect_stays (.refl _ s) (touched rfl)
  | portEq _ _ _ => exact execPortEq_stays (.refl _ s) (touched rfl)
  | portAlign _ _ _ _ _ => exact execPortAlign_stays (.refl _ s) (touched rfl)
  | portTrainingTimeout _ => exact execPortTrainingTimeout_stays (.refl _ s) (touched rfl)
  | portDetectRetry _ => exact execPortDetectRetry_stays (.refl _ s) (touched rfl)
  | portRetrain _ => exact execPortRetrain_stays (.refl _ s) (touched rfl)
  | lnkRetrain _ => exact execLnkRetrain_stays (.refl _ s) (touched rfl)
  | laneLockLoss _ lane => exact execLaneLockLoss_stays (n1 := lane) (.refl _ s) (touched rfl)
  | flitReceived _ _ _ _ => exact execFlitReceived_stays (.refl _ s) (touched rfl)
  | nakReceived _ _ => exact execNakReceived_stays (.refl _ s) (touched rfl)
  | ackTimeout _ => exact execAckTimeout_stays (.refl _ s) (touched rfl)
  | ident _ _ => exact execIdent_stays (.refl _ s) (touched rfl)
  | barrierArrive _ _ => exact execBarrierArrive_stays (.refl _ s) (touched rfl)
  | barrierRelease _ _ => exact execBarrierRelease_stays (.refl _ s) (touched rfl)
  | timeExchangeTimer => exact execTimeExchangeTimer_stays (.refl _ s) (touched rfl)
  | timeReq _ _ => exact execTimeReq_stays (.refl _ s) (touched rfl)
  | timeResp _ _ _ _ => exact execTimeResp_stays (.refl _ s) (touched rfl)
  | treeTimer => exact execTreeTimer_stays (.refl _ s) (touched rfl)
  | tree _ _ _ => exact execTree_stays (.refl _ s) (touched rfl)
  | slackReport _ => exact execSlackReport_stays (.refl _ s) (touched rfl)
  | slackReportReceived _ _ => exact execSlackReportReceived_stays (.refl _ s) (touched rfl)
  | balancePeriod _ => exact execBalancePeriod_stays (.refl _ s) (touched rfl)
  | slackAssign _ _ => exact execSlackAssign_stays (.refl _ s) (touched rfl)
  | assignTimeout => exact execAssignTimeout_stays (.refl _ s) (touched rfl)
  | trayLock _ => exact execTrayLock_stays (.refl _ s) (touched rfl)
  | referenceLoss _ => exact execReferenceLoss_stays (.refl _ s) (touched rfl)
  | referenceReady _ => exact execReferenceReady_stays (.refl _ s) (touched rfl)
  | referenceSwitchRequest _ => exact execReferenceSwitchRequest_stays (.refl _ s) (touched rfl)
  | referenceSwitchComplete => exact execReferenceSwitchComplete_stays (.refl _ s) (touched rfl)
  | holdoverExpiry => exact execHoldoverExpiry_stays (.refl _ s) (touched rfl)
  | timebaseLockLoss => exact execTimebaseLockLoss_stays (.refl _ s) (touched rfl)
  | freqStepRequest _ _ => exact execFreqStepRequest_stays (.refl _ s) (touched rfl)
  | freqStepStop _ => exact execFreqStepStop_stays (.refl _ s) (touched rfl)
  | freqStepWithdraw _ => exact execFreqStepWithdraw_stays (.refl _ s) (touched rfl)
  | fireflyPulse _ => exact execFireflyPulse_stays (.refl _ s) (touched rfl)
  | fireflyMiss _ => exact execFireflyMiss_stays (.refl _ s) (touched rfl)
  | clkStepCapWrite _ => exact execClkStepCapWrite_stays (.refl _ s) (touched rfl)
  | timeAdjStep _ => exact execTimeAdjStep_stays (.refl _ s) (touched rfl)
  | timeAdjSlew _ => exact execTimeAdjSlew_stays (.refl _ s) (touched rfl)
  | ivrPhaseFailure _ _ _ => exact execIvrPhaseFailure_stays (.refl _ s) (touched rfl)
  | tierOvercurrentTimeout _ => exact execTierOvercurrentTimeout_stays (.refl _ s) (touched rfl)
  | admissionStage _ _ => exact execAdmissionStage_stays (.refl _ s) (touched rfl)
  | admissionWaitTimeout _ _ => exact execAdmissionWaitTimeout_stays (.refl _ s) (touched rfl)
  | powerRegionOff _ _ => exact execPowerRegionOff_stays (.refl _ s) (touched rfl)
  | droopTrip _ _ => exact execDroopTrip_stays (.refl _ s) (touched rfl)
  | droopRelax _ => exact execDroopRelax_stays (.refl _ s) (touched rfl)
  | droopFailure _ => exact execDroopFailure_stays (.refl _ s) (touched rfl)
  | damperUpdate _ _ _ => exact execDamperUpdate_stays (.refl _ s) (touched rfl)
  | capLoop _ _ _ _ => exact execCapLoop_stays (.refl _ s) (touched rfl)
  | vinLow => exact execVinLow_stays (.refl _ s) (touched rfl)
  | vinUndervoltage => exact execVinUndervoltage_stays (.refl _ s) (touched rfl)
  | pwrOkFall => exact execPwrOkFall_stays (.refl _ s) (touched rfl)
  | vbypOutOfRange => exact execVbypOutOfRange_stays (.refl _ s) (touched rfl)
  | vsdOutOfRange => exact execVsdOutOfRange_stays (.refl _ s) (touched rfl)
  | vheVauxOutOfRange => exact execVheVauxOutOfRange_stays (.refl _ s) (touched rfl)
  | coolantReport _ _ => exact execCoolantReport_stays (.refl _ s) (touched rfl)
  | coolantReportTimeout => exact execCoolantReportTimeout_stays (.refl _ s) (touched rfl)
  | sensorSample _ => exact execSensorSample_stays (.refl _ s) (touched rfl)
  | thermalModelRun => exact execThermalModelRun_stays (.refl _ s) (touched rfl)
  | ceRateWindow _ => exact execCeRateWindow_stays (.refl _ s) (touched rfl)
  | thermtrip => exact execThermtrip_stays (.refl _ s) (touched rfl)
  | ageingMeasurement _ _ _ => exact execAgeingMeasurement_stays (.refl _ s) (touched rfl)
  | poweredHoursUpdate => exact execPoweredHoursUpdate_stays (.refl _ s) (touched rfl)
  | correctedMergeExpiry _ _ _ => exact execCorrectedMergeExpiry_stays (.refl _ s) (touched rfl)
  | logEnable _ => exact execLogEnable_stays (.refl _ s) (touched rfl)
  | signatureEnable _ => exact execSignatureEnable_stays (.refl _ s) (touched rfl)
  | weevilSlice => exact execWeevilSlice_stays (.refl _ s) (touched rfl)
  | weevilSliceComplete _ => exact execWeevilSliceComplete_stays (.refl _ s) (touched rfl)
  | weevilVisitTimeout => exact execWeevilVisitTimeout_stays (.refl _ s) (touched rfl)
  | weevilDisable => exact execWeevilDisable_stays (.refl _ s) (touched rfl)
  | routerParityFailure _ => exact execRouterParityFailure_stays (.refl _ s) (touched rfl)
  | recoveryRestoreComplete _ _ => exact execRecoveryRestoreComplete_stays (.refl _ s) (touched rfl)
  | recoveryEpisodeEnd _ => exact execRecoveryEpisodeEnd_stays (.refl _ s) (touched rfl)
  | firmwareWatchdog => exact execFirmwareWatchdog_stays (.refl _ s) (touched rfl)
  | snapReleaseTimeout _ => exact execSnapReleaseTimeout_stays (.refl _ s) (touched rfl)
  | pwrOkRise => exact execPwrOkRise_stays (.refl _ s) (touched rfl)
  | rootPllRelease => exact execRootPllRelease_stays (.refl _ s) (touched rfl)
  | rootPllLock => exact execRootPllLock_stays (.refl _ s) (touched rfl)
  | rootPllLockTimeout => exact execRootPllLockTimeout_stays (.refl _ s) (touched rfl)
  | flashDiscoveryTimeout => exact execFlashDiscoveryTimeout_stays (.refl _ s) (touched rfl)
  | privilegedImageVerify => exact execPrivilegedImageVerify_stays (.refl _ s) (touched rfl)
  | analogueSelftest _ => exact execAnalogueSelftest_stays (.refl _ s) (touched rfl)
  | tierPowerUp _ _ _ _ => exact execTierPowerUp_stays (.refl _ s) (touched rfl)
  | logicBist _ => exact execLogicBist_stays (.refl _ s) (touched rfl)
  | checkerSelftest _ => exact execCheckerSelftest_stays (.refl _ s) (touched rfl)
  | memoryFill => exact execMemoryFill_stays (.refl _ s) (touched rfl)
  | fuseRepair => exact execFuseRepair_stays (.refl _ s) (touched rfl)
  | microcodeDelivery _ => exact execMicrocodeDelivery_stays (.refl _ s) (touched rfl)
  | trainingWaitEnd => exact execTrainingWaitEnd_stays (.refl _ s) (touched rfl)
  | deviceReady => exact execDeviceReady_stays (.refl _ s) (touched rfl)
  | svnAdvance => exact execSvnAdvance_stays (.refl _ s) (touched rfl)
  | mailboxPush _ => exact execMailboxPush_stays (.refl _ s) (touched rfl)
  | mailboxLast _ => exact execMailboxLast_stays (.refl _ s) (touched rfl)
  | mailboxTimeout => exact execMailboxTimeout_stays (.refl _ s) (touched rfl)
  | warmReset _ => exact execWarmReset_stays (.refl _ s) (touched rfl)
  | perstAssert => exact execPerstAssert_stays (.refl _ s) (touched rfl)
  | dbgChallenge => exact execDbgChallenge_stays (.refl _ s) (touched rfl)
  | dbgResponse _ => exact execDbgResponse_stays (.refl _ s) (touched rfl)
  | idcode => exact execIdcode_stays (.refl _ s) (touched rfl)
  | samplePreload _ _ => exact execSamplePreload_stays (.refl _ s) (touched rfl)
  | extest => exact execExtest_stays (.refl _ s) (touched rfl)
  | clamp => exact execClamp_stays (.refl _ s) (touched rfl)
  | highz => exact execHighz_stays (.refl _ s) (touched rfl)
  | bypass => exact execBypass_stays (.refl _ s) (touched rfl)
  | flashWriteRetry _ => exact execFlashWriteRetry_stays (.refl _ s) (touched rfl)
  | registerWrite _ _ => exact execRegisterWrite_stays (.refl _ s) (touched rfl)
  | descriptorCompletion _ => exact execDescriptorCompletion_stays (.refl _ s) (touched rfl)
  | rotationComplete _ _ => exact execRotationComplete_stays (.refl _ s) (touched rfl)
  | perstDeassertion => exact execPerstDeassertion_stays (.refl _ s) (touched rfl)
  | pcieLinkTrained _ _ => exact execPcieLinkTrained_stays (.refl _ s) (touched rfl)
  | peRefclkLoss => exact execPeRefclkLoss_stays (.refl _ s) (touched rfl)
theorem tick_keeps (s : State) : Stays [.clk, .time] s (tick s) := tick_stays (.refl _ s) (Sub.refl _)

/-- What a step leaves as it is, whatever it does: it takes the front of the queue and leaves the flash banks, and every
memory keeps its form. -/
theorem step_keeps {s t : State} (h : step s = .next t) :
    t.pending = s.pending.tail ∧ t.flash = s.flash ∧
    (Mem.wf s.mem = true → Mem.wf t.mem = true) ∧ (Mem.wf s.hostMem = true → Mem.wf t.hostMem = true) := by
  unfold step at h
  split at h
  · next hp =>
    obtain rfl := Host.Outcome.next.inj h
    have k := tick_keeps s
    exact ⟨by rw [k.pending, hp]; rfl, k.flash, k.wfMem, k.wfHost⟩
  · next c rest hp =>
    have k := exec_stays c _ t h
    exact ⟨by rw [k.pending, hp]; rfl, k.flash, k.wfMem, k.wfHost⟩

/-- Only SVN_ADVANCE may burn a fuse (R418). -/
theorem fuse_untouched {c : Instr} (h : c ≠ .svnAdvance) : Field.fuse ∉ touches c := by
  cases c with
  | svnAdvance => exact absurd rfl h
  | _ => exact of_decide_eq_true rfl

/-- Only the edges of PWR_OK may change the sampled straps (R432). -/
theorem strap_untouched {c : Instr} (hr : c ≠ .pwrOkRise) (hf : c ≠ .pwrOkFall) : Field.strap ∉ touches c := by
  cases c with
  | pwrOkRise => exact absurd rfl hr
  | pwrOkFall => exact absurd rfl hf
  | _ => exact of_decide_eq_true rfl

/-- Settles O4: a step is a tick or a command, and both keep the form of the memories and leave the flash. -/
theorem stepsKeepMemoryForm : Obligations.StepsKeepMemoryForm := by
  intro s t hs h
  obtain ⟨-, hflash, hmem, hhost⟩ := step_keeps h
  simp only [State.memOk, Bool.and_eq_true] at hs ⊢
  obtain ⟨⟨m, hm⟩, f⟩ := hs
  exact ⟨⟨hmem m, hhost hm⟩, hflash ▸ f⟩

/-- Settles O6: the step alone takes the front, as no frame holds the queue. -/
theorem queueFirstInFirstOut : Obligations.QueueFirstInFirstOut :=
  ⟨fun _ _ h => (step_keeps h).1, fun c s t h => (exec_stays c s t h).pending⟩

/-- Settles O7: the frame of the command's row, and that the fuses and the straps lie in the lists of few rows. -/
theorem commandsChangeOnlyTheirFields : Obligations.CommandsChangeOnlyTheirFields := by
  intro c s t h
  have k := exec_stays c s t h
  exact ⟨k.frame, k.flash, k.land, fun hc => k.frame .fuse (fuse_untouched hc),
    fun hr hf => k.frame .strap (strap_untouched hr hf)⟩

end Sys2Proof.Machine
end

section
/-! PROOFS. Every command has one outcome: a well-formed one answers a next state, whichever branch of its row holds, and
one that is not well formed is the machine's only fault. -/

namespace Sys2Proof.Machine

-- The outcomes that several rows share

theorem opEnds_answers (c : CoreId) (u : OpUnit) (hw : OpHw) (s : State) : ∃ t, opEnds c u hw s = .next t := by
  unfold opEnds
  repeat' first | exact ⟨_, rfl⟩ | split

theorem windowRow_answers (s : State) (c n line : Nat) (l : Line) (via : Path) : ∃ t, windowRow s c n line l via = .next t := by
  unfold windowRow
  repeat' first | exact ⟨_, rfl⟩ | split

theorem runNbu_answers (s : State) (c n op : Nat) (f : State → Nat → Nat → NbuRun → State × NbuOut) :
    ∃ t, runNbu s c n op f = .next t := by
  unfold runNbu
  repeat' first | exact ⟨_, rfl⟩ | split

/-- A row that a check of its payload guards answers when the payload passes and its meaning answers. -/
theorem guarded_answers {ok : Bool} {r : Res} (h : ok = true) (hr : ∃ t, r = .next t) :
    ∃ t, (if !ok then .fault .malformedCommand else r) = .next t := by
  simpa [h] using hr

/-- A row that a check of its payload guards is a fault when the payload fails it. -/
theorem guarded_faults {ok : Bool} {r : Res} (h : ok = false) : (if !ok then .fault .malformedCommand else r) = .fault .malformedCommand := by
  simp [h]

-- The two halves of the statement

theorem exec_answers (c : Instr) (s : State) (h : c.wf = true) : ∃ t, exec c s = .next t := by
  cases c with
  -- rows that are one next state
  | mma | mmap | ewa | vfn | red | qscan | qconv | dq | smx | smxm | snd | rcv | xfwdInstall | xfwdRelease | chrd
  | chwr | nbcCmd | nbcResult | chk | optu | portStarvationGrant | sramScrub | partCreate | partLoad | partStart
  | partQuiesce | partResume | partReset | partUnload | partDestroy | partQuery | partSnapshot | routerReset
  | regionModeNormal | regionModeCompute | regionModeDrain | scanEnSet | scanEnClear | completionTimeout
  | completionError | busMasterDisable | busMasterEnable | nop | chCreate | chDestroy | chResume | chQuery
  | chimneyQuery | pwrCap | telemetry | attest | devReset | cpCopy | cpFill | kvSetup | kvRelease | kvPte
  | kvSeqRegister | kvSeqPause | kvSeqResume | kvSeqRemove | kvResult | cpPut | cpGet | lnkRetrain | ident
  | treeTimer | trayLock | referenceSwitchRequest | freqStepRequest | freqStepWithdraw | clkStepCapWrite
  | timeAdjStep | timeAdjSlew | droopRelax | droopFailure | vinLow | vinUndervoltage | logEnable | signatureEnable
  | weevilDisable | mailboxPush | mailboxLast | idcode | samplePreload | extest | clamp | highz | bypass
  | perstDeassertion | peRefclkLoss => exact ⟨_, rfl⟩
  -- rows of the NBU, of its windows, and the end of an op
  | nbuCommandWrite | queryWrite | queryAllWrite | regionParamWrite =>
    exact windowRow_answers ..
  | attp | attqk | attav | kvapp | kvdecay | fill | copy | gather | scatter | rsum =>
    exact runNbu_answers ..
  | bchk =>
    dsimp only [exec, execBchk]
    split
    · exact ⟨_, rfl⟩
    · exact runNbu_answers ..
  | opComplete => exact opEnds_answers ..
  -- rows with a payload of one length
  | bar2Read | bar2Write | ivrPhaseFailure | damperUpdate | sensorSample | ageingMeasurement | dbgResponse | registerWrite =>
    refine guarded_answers h ?_
    repeat' first | exact ⟨_, rfl⟩ | split | dsimp only
  | analogueSelftest r =>
    cases r with
    | secondPass =>
      refine guarded_answers h ?_
      split <;> exact ⟨_, rfl⟩
    | _ =>
      dsimp only [exec, execAnalogueSelftest]
      split <;> exact ⟨_, rfl⟩
  -- rows with branches, each a next state
  | wait | waitConditionMet | bar | barrierComplete | snapshotTaken | idle | idleSlotEnd | loop | sig | opTimeout
  | quiesceComplete | lineArrival | checkWordArrival | creditReturn | transitForward | sramScrubForced
  | refreshCommand | refreshIntervalRelax | dramScrubPage | scrubLapAlarm | chimneyLineTest | nbuQueueFullTimeout
  | popRead | groupLine0Read | groupFold | nbuCommandStart | nbuCommandComplete | nbuRowBoundary | evictionSelection
  | nbuAdmission | batchDecode | batchPrefill | batchDone | doorbellScan | descriptorArrival | groupAdmission
  | groupTimeout | interruptHoldoffExpiry | channelCloseComplete | licInstall | fwUpdate | portDetect | portEq
  | portAlign | portTrainingTimeout | portDetectRetry | portRetrain | laneLockLoss | flitReceived | nakReceived
  | ackTimeout | barrierArrive | barrierRelease | timeExchangeTimer | timeReq | timeResp | tree | slackReport
  | slackReportReceived | balancePeriod | slackAssign | assignTimeout | referenceLoss | referenceReady
  | referenceSwitchComplete | holdoverExpiry | timebaseLockLoss | freqStepStop | fireflyPulse | fireflyMiss
  | tierOvercurrentTimeout | admissionStage | admissionWaitTimeout | powerRegionOff | droopTrip | capLoop
  | pwrOkFall | vbypOutOfRange | vsdOutOfRange | vheVauxOutOfRange | coolantReport | coolantReportTimeout
  | thermalModelRun | ceRateWindow | thermtrip | poweredHoursUpdate | correctedMergeExpiry | weevilSlice
  | weevilSliceComplete | weevilVisitTimeout | routerParityFailure | recoveryRestoreComplete | recoveryEpisodeEnd
  | firmwareWatchdog | snapReleaseTimeout | pwrOkRise | rootPllRelease | rootPllLock | rootPllLockTimeout
  | flashDiscoveryTimeout | privilegedImageVerify | tierPowerUp | logicBist | checkerSelftest | memoryFill
  | fuseRepair | microcodeDelivery | trainingWaitEnd | deviceReady | svnAdvance | mailboxTimeout | warmReset
  | perstAssert | dbgChallenge | flashWriteRetry | descriptorCompletion | rotationComplete | pcieLinkTrained =>
    dsimp only [exec,
      execWait, execWaitConditionMet, execBar, execBarrierComplete, execSnapshotTaken, execIdle, execIdleSlotEnd,
      execLoop, execSig, execOpTimeout, execQuiesceComplete, execLineArrival, execCheckWordArrival, execCreditReturn,
      execTransitForward, execSramScrubForced, execRefreshCommand, execRefreshIntervalRelax, execDramScrubPage,
      execScrubLapAlarm, execChimneyLineTest, execNbuQueueFullTimeout, execPopRead, execGroupLine0Read, execGroupFold,
      execNbuCommandStart, execNbuCommandComplete, execNbuRowBoundary, execEvictionSelection, execNbuAdmission,
      execBatchDecode, execBatchPrefill, execBatchDone, execDoorbellScan, execDescriptorArrival, execGroupAdmission,
      execGroupTimeout, execInterruptHoldoffExpiry, execChannelCloseComplete, execLicInstall, execFwUpdate,
      execPortDetect, execPortEq, execPortAlign, execPortTrainingTimeout, execPortDetectRetry, execPortRetrain,
      execLaneLockLoss, execFlitReceived, execNakReceived, execAckTimeout, execBarrierArrive, execBarrierRelease,
      execTimeExchangeTimer, execTimeReq, execTimeResp, execTree, execSlackReport, execSlackReportReceived,
      execBalancePeriod, execSlackAssign, execAssignTimeout, execReferenceLoss, execReferenceReady,
      execReferenceSwitchComplete, execHoldoverExpiry, execTimebaseLockLoss, execFreqStepStop, execFireflyPulse,
      execFireflyMiss, execTierOvercurrentTimeout, execAdmissionStage, execAdmissionWaitTimeout, execPowerRegionOff,
      execDroopTrip, execCapLoop, execPwrOkFall, execVbypOutOfRange, execVsdOutOfRange, execVheVauxOutOfRange,
      execCoolantReport, execCoolantReportTimeout, execThermalModelRun, execCeRateWindow, execThermtrip,
      execPoweredHoursUpdate, execCorrectedMergeExpiry, execWeevilSlice, execWeevilSliceComplete,
      execWeevilVisitTimeout, execRouterParityFailure, execRecoveryRestoreComplete, execRecoveryEpisodeEnd,
      execFirmwareWatchdog, execSnapReleaseTimeout, execPwrOkRise, execRootPllRelease, execRootPllLock,
      execRootPllLockTimeout, execFlashDiscoveryTimeout, execPrivilegedImageVerify, execTierPowerUp, execLogicBist,
      execCheckerSelftest, execMemoryFill, execFuseRepair, execMicrocodeDelivery, execTrainingWaitEnd,
      execDeviceReady, execSvnAdvance, execMailboxTimeout, execWarmReset, execPerstAssert, execDbgChallenge,
      execFlashWriteRetry, execDescriptorCompletion, execRotationComplete, execPcieLinkTrained]
    repeat' first | exact ⟨_, rfl⟩ | split

theorem exec_malformed (c : Instr) (s : State) (h : c.wf = false) : exec c s = .fault .malformedCommand := by
  cases c with
  | bar2Read | bar2Write | ivrPhaseFailure | damperUpdate | sensorSample | ageingMeasurement | dbgResponse | registerWrite =>
    exact guarded_faults h
  | analogueSelftest r =>
    cases r with
    | secondPass => exact guarded_faults h
    | _ => cases h
  | _ => cases h

/-- Settles O3: each row answers in every branch, and only a payload of another length than its kind has is a fault. -/
theorem everyCommandHasItsOutcome : Obligations.EveryCommandHasItsOutcome :=
  fun c s => ⟨exec_answers c s, exec_malformed c s⟩

end Sys2Proof.Machine
end

section
/-! PROOFS. One step, an empty queue, and the values at reset. -/

namespace Sys2Proof.Machine

/-- Settles O1: the step is the command's own meaning, on the queue's rest. -/
theorem stepRunsFrontCommand : Obligations.StepRunsFrontCommand := fun _ _ => rfl

/-- A tick moves global time by its own rule; the tiers' clocks that it moves besides are no part of it. -/
theorem tick_time (s : State) : (tick s).time = s.time.tick s.clk.timebaseLocked (masterPort s).isSome := by
  unfold tick
  dsimp only
  split
  · exact (tickTiers_stays (.refl [.clk] _) (Sub.refl _)).frame .time (by decide)
  · rfl

/-- Without the timebase's lock global time stands still (R326). -/
theorem Time.tick_unlocked (t : Time) (follows : Bool) : t.tick false follows = t := rfl

/-- With the timebase locked and nothing to steer or slew away, a nanosecond counts as one (R310). -/
theorem Time.tick_locked (t : Time) (follows : Bool) (hh : t.held = false) (hs : t.slew = 0) (ho : t.owe = 0)
    (ha : t.slewAcc = 0) : (t.tick true follows).now = t.now + 1 := by
  have rate : ratePpb t follows = 0 := by
    cases follows
    · rw [ratePpb, hs]; rfl
    · rw [ratePpb, ho]; rfl
  simp [Time.tick, hh, rate, ha, slewTick]

/-- Settles O2: the tick's frame is the clocks and global time, and global time moves by the tick's own rule. -/
theorem emptyQueueTicks : Obligations.EmptyQueueTicks := by
  intro s hp
  have k := tick_keeps s
  refine ⟨by simp only [step, hp], k.pending.trans hp, fun hl hh hs ho ha => ?locked, fun hl => ?unlocked, k.flash, k.land,
    fun F hc ht => k.frame F (by simp [hc, ht])⟩
  case locked => rw [tick_time, hl, Time.tick_locked _ _ hh hs ho ha]
  case unlocked => rw [tick_time, hl, Time.tick_unlocked]

/-- Settles O5: the values of `State.reset`, read off. -/
theorem resetState : Obligations.ResetState := by
  refine ⟨⟨rfl, rfl⟩, ?_⟩
  repeat' constructor

end Sys2Proof.Machine
end

section
/-! PROOFS. The sequencer (04_tile_operations.md): the rows by which a record issues, what a word in error does to its fetch, and how
waits and ops end. -/

namespace Sys2Proof.Machine

-- Rows that issue a record

/-- The row of an op that a unit carries out issues the record of its opcode. -/
theorem exec_tileRow {i : Instr} {c : CoreId} {op : Nat} {also : Rec → Bool} (h : tileRow i = some (c, op, also)) (s : State) :
    exec i s = .next (issueTile s c.val op also) := by
  cases i with
  | regionModeNormal src | regionModeCompute src | regionModeDrain src =>
    cases src with
    | nbc => cases h; rfl
    | desc => cases h
  | _ => cases h <;> rfl

theorem exec_of_canStart {i : Instr} {c : CoreId} {op : Nat} {also : Rec → Bool} {s : State}
    (hr : tileRow i = some (c, op, also)) (h : canStart s c.val op also = true) : exec i s = .next (issueOp s c.val) := by
  rw [exec_tileRow hr, issueTile_of_canStart h]

/-- What a sequencer's op does when its record has been fetched. -/
def startSeq (op c : Nat) (s : State) : State :=
  if op = 0x11 then startWait s c else if op = 0x12 then startBar s c else if op = 0x14 then startIdle s c
  else if op = 0x15 then runLoop s c else startSig s c

/-- A SIG waits for the core's signal slot (R124); no other op of the sequencer does. -/
def slotFree (s : State) (c op : Nat) : Bool := if op = 0x16 then (s.coreAt c).sig.isNone else true
theorem slotFree_of {s : State} {c op : Nat} (h : op = 0x16 → (s.coreAt c).sig = none) : slotFree s c op = true := by
  unfold slotFree
  split
  · next ho => rw [h ho]; rfl
  · rfl

/-- The row of an op of the sequencer fetches the record and starts it. -/
theorem exec_seqRow {i : Instr} {c : CoreId} {op : Nat} {also : Rec → Bool} (h : seqRow i = some (c, op, also)) (s : State) :
    exec i s = .next (if mayIssue s c.val op && slotFree s c.val op then fetched s c.val (startSeq op c.val) else s) := by
  cases i with
  | wait | bar | idle | loop =>
    cases h
    simp only [exec, execWait, execBar, execIdle, execLoop, slotFree, Nat.reduceEqDiff, if_false, Bool.and_true]
    split <;> rfl
  | sig =>
    cases h
    simp only [exec, execSig, slotFree, if_true]
    split <;> rfl
  | _ => cases h

theorem exec_of_canFetch {i : Instr} {c : CoreId} {op : Nat} {also : Rec → Bool} {s : State}
    (hr : seqRow i = some (c, op, also)) (h : canFetch s c.val op = true) (hs : slotFree s c.val op = true) :
    exec i s = .next (startSeq op c.val s) := by
  simp only [canFetch, Bool.and_eq_true] at h
  obtain ⟨hm, hf⟩ := h
  rw [exec_seqRow hr, if_pos (by simp [hm, hs]), fetched_clean _ hf]

/-- Settles O9: every op of a unit has its row, and a row whose op can start issues. -/
theorem tileOpsIssue : Obligations.TileOpsIssue :=
  ⟨fun _ _ => ⟨exec_of_canStart rfl, exec_of_canStart rfl, exec_of_canStart rfl, exec_of_canStart rfl, exec_of_canStart rfl,
    exec_of_canStart rfl, exec_of_canStart rfl, exec_of_canStart rfl, exec_of_canStart rfl, exec_of_canStart rfl,
    exec_of_canStart rfl, exec_of_canStart rfl⟩,
   fun _ _ => ⟨exec_of_canStart rfl, exec_of_canStart rfl, exec_of_canStart rfl, exec_of_canStart rfl, exec_of_canStart rfl,
    exec_of_canStart rfl, exec_of_canStart rfl, exec_of_canStart rfl⟩⟩

-- A record with a word in error

/-- A read counts the corrected words ahead of the first uncorrectable one and stops at it (R84). -/
theorem sramRead_uncorrectable {s : State} {c off n w : Nat} {ahead rest : SMap WordErr}
    (h : sramMarks s c off n = ahead ++ (w, .uncorrectable) :: rest) (ha : ∀ e ∈ ahead, e.2 = .corrected) :
    sramRead s c off n =
      (ahead.foldl (fun st e => sramCorrected st c (e.1 * 8 - sramDpa c 0)) s, some (w * 8 - sramDpa c 0)) := by
  rw [sramRead, h, List.foldl_append, List.foldl_cons]
  clear h
  induction ahead generalizing s with
  | nil =>
    dsimp only [List.foldl_nil]
    induction rest with
    | nil => rfl
    | cons e es ih => exact ih
  | cons e es ih =>
    have he : e.2 = .corrected := ha e (.head _)
    simp only [List.foldl_cons, he]
    exact ih fun x hx => ha x (.tail _ hx)

theorem fetched_uncorrectable {s : State} {c w : Nat} {ahead rest : SMap WordErr} (go : State → State)
    (h : sramMarks s c (32 * (s.coreAt c).pc) 32 = ahead ++ (w, .uncorrectable) :: rest) (ha : ∀ e ∈ ahead, e.2 = .corrected) :
    let off := w * 8 - sramDpa c 0
    let t := ahead.foldl (fun st e => sramCorrected st c (e.1 * 8 - sramDpa c 0)) s
    fetched s c go = opFault (noteBank t c (sramBank off)) c
      (opReport t c (16 + sramBank off) (s.coreAt c).pc (recNow t c) .uncorrectable 0 (sramDetail t c off)) := by
  simp only [fetched, sramRead_uncorrectable h ha]

/-- Settles O10: whichever row the op has, it begins with the fetch, and the fetch meets the word. -/
theorem uncorrectableRecordFaults : Obligations.UncorrectableRecordFaults := by
  intro i c op also s ahead rest w hrow hmay halso hmarks hahead
  rcases hrow with ⟨hrow, hroom⟩ | ⟨hrow, hslot⟩
  case inl =>
    rw [exec_tileRow hrow, issueTile, if_pos (by simp [hmay, halso, hroom])]
    exact congrArg _ (fetched_uncorrectable _ hmarks hahead)
  case inr =>
    rw [exec_seqRow hrow, if_pos (by simp [hmay, slotFree_of hslot])]
    exact congrArg _ (fetched_uncorrectable _ hmarks hahead)

-- Ops of the sequencer

/-- An endless LOOP that runs for the first time pushes its index and takes the branch (R123). -/
theorem runLoop_endless_first {s : State} {c : Nat} (hcount : bits (recNow s c) 79 64 = 0) (hloops : (s.coreAt c).loops = []) :
    runLoop s c = s.setCore c { takePre (s.coreAt c) (recNow s c) with
      loops := [⟨(s.coreAt c).pc, 1⟩], pc := bits (recNow s c) 90 80 } := by
  have hl : (takePre (s.coreAt c) (recNow s c)).loops = [] := by
    unfold takePre; split <;> exact hloops
  have hp : (takePre (s.coreAt c) (recNow s c)).pc = (s.coreAt c).pc := by
    unfold takePre; split <;> rfl
  simp [runLoop, hl, hp, hcount]

/-- Settles O11: the five rows of the sequencer, and the first pass of an endless LOOP. -/
theorem sequencerOpsStart : Obligations.SequencerOpsStart := by
  refine ⟨fun c s => ⟨fun h => exec_of_canFetch rfl h rfl, fun h => exec_of_canFetch rfl h rfl,
    fun h => exec_of_canFetch rfl h rfl, fun h => exec_of_canFetch rfl h rfl,
    fun h hs => exec_of_canFetch rfl h (slotFree_of fun _ => hs)⟩, fun c s h hcount hloops => ?_⟩
  rw [exec_of_canFetch rfl h rfl, ← runLoop_endless_first hcount hloops]
  rfl

-- Ends of waits and of ops

/-- An op whose unit met nothing ends when it has moved its lines and waits for no check word and no earlier op (R97). -/
theorem opEnds_clean {c : CoreId} {u : OpUnit} {s : State} {r : OpRun}
    (hf : ((s.coreAt c.val).inflight.find? fun r => decide (r.unit = u)) = some r) (hb : r.busy = false)
    (hc : awaitsCheck s c.val r = false) (hw : waitsForEarlier s c.val r = false) :
    opEnds c u .clean s = .next (endRun s c.val r) := by
  simp [opEnds, hf, hb, hc, hw]

/-- The op that a unit runs ends with TIMEOUT; the signal slot and a barrier joined with NOWAIT are no ops of a unit. -/
theorem execOpTimeout_running {c : CoreId} {u : OpUnit} {s : State} {r : OpRun} (hs : u ≠ .sequencer) (hb : ∀ i, u ≠ .barrier i)
    (hf : ((s.coreAt c.val).inflight.find? fun r => decide (r.unit = u)) = some r) :
    execOpTimeout c (.running u) s = .next (failRun s c.val r .timeout) := by
  cases u with
  | sequencer => exact absurd rfl hs
  | barrier i => exact absurd rfl (hb i)
  | _ => simp only [execOpTimeout, hf]

/-- Settles O12: what a wait, an op that runs and an op that is queued end in, each by its row. -/
theorem waitsAndOpsEnd : Obligations.WaitsAndOpsEnd := by
  refine ⟨⟨fun c s src index value base hw hm => ?wait, fun c s n start hw hn => ?idle⟩,
    fun c u s r => ⟨fun hf hb hc hw => opEnds_clean hf hb hc hw, fun hf hs hb => execOpTimeout_running hs hb hf⟩,
    fun c u n s q hq => ?queued⟩
  case wait =>
    show execWaitConditionMet c s = _
    simp [execWaitConditionMet, hw, hm]
  case idle =>
    show execIdleSlotEnd c s = _
    simp only [execIdleSlotEnd, hw, if_pos hn]
  case queued =>
    show execOpTimeout c (.queued u n) s = _
    simp only [execOpTimeout, hq]

/-- Settles O14: no op may issue on a core that no partition owns, so that the row of any op finds nothing to do. -/
theorem unownedCoreIssuesNothing : Obligations.UnownedCoreIssuesNothing := by
  intro c s h
  have tile : ∀ {i op also}, tileRow i = some (c, op, also) → exec i s = .next s := fun hr => by
    rw [exec_tileRow hr, issueTile_of_not (mayIssue_unowned h)]
  have seq : ∀ {i op also}, seqRow i = some (c, op, also) → exec i s = .next s := fun hr => by
    rw [exec_seqRow hr, mayIssue_unowned h]; rfl
  exact ⟨fun _ _ _ hr => hr.elim tile seq, tile rfl, tile rfl, tile rfl, tile rfl, tile rfl, tile rfl, tile rfl, tile rfl,
    tile rfl, tile rfl, tile rfl, tile rfl, tile rfl, tile rfl, tile rfl, tile rfl, tile rfl, tile rfl, tile rfl, tile rfl,
    tile rfl, tile rfl, tile rfl, seq rfl, seq rfl, seq rfl, seq rfl, seq rfl⟩

end Sys2Proof.Machine
end

section
/-! PROOFS. Barriers, snapshots and quiesces (04_tile_operations.md), and lines on the mesh (05_mesh_and_partitions.md). -/

namespace Sys2Proof.Machine

-- Barriers

/-- No copy is due at a barrier that takes no snapshot (R133). -/
theorem copyDue_of_plain {s : State} {b : Barrier} (h : b.snap = false) : copyDue s b = false := by simp [copyDue, h]

/-- A barrier of a RUNNING partition that every member has reached, and that takes no snapshot, lets its cores pass (R120). -/
theorem execBarrierComplete_plain {p : PartId} {i : Fin 16} {s : State} {b : Barrier} {v : Partition}
    (hb : barAt s p.val i.val = some b) (hd : barDone s b = true) (hr : b.released = false ∨ b.scope = 2) (hsnap : b.snap = false)
    (hv : s.part? p.val = some v) (hrun : v.state = .running) (hx : snapIn s p.val 2 = none) :
    execBarrierComplete p i s = .next (goOn (syncAll s b) b false) := by
  have hheld : (b.released && decide (b.scope < 2)) = false := by
    rcases hr with h | h <;> simp [h]
  simp only [execBarrierComplete, hb, hv, copyDue_of_plain hsnap, hd, hheld, hsnap, hx, hrun, Bool.not_true, Bool.false_and,
    Bool.or_self, Bool.false_eq_true, if_false]

/-- Settles O13: a barrier that passes, a partition's snapshot that has been written, and a quiesce whose cores have stopped. -/
theorem barriersAndQuiescesComplete : Obligations.BarriersAndQuiescesComplete := by
  refine ⟨⟨fun p i s b v hb hd hr hsnap hv hrun hx => execBarrierComplete_plain hb hd hr hsnap hv hrun hx,
    fun p s x v b hx hv hrun hb hscope => ?taken⟩, fun p s v hv hrun hq hcores hlines => ?quiet⟩
  case taken =>
    show execSnapshotTaken p s = _
    simp [execSnapshotTaken, hx, hv, hrun, hb, hscope, goOn]
  case quiet =>
    have hq' : v.quiesce.isNone = false := by rw [← Option.not_isSome, hq]; rfl
    show execQuiesceComplete p s = _
    simp only [execQuiesceComplete, hv, hrun, hq', hcores, hlines, ne_eq, not_true_eq_false, decide_false, Bool.not_true,
      Bool.or_self, Bool.false_eq_true, if_false]

-- Lines on links

/-- A line at the head of a wire reaches the receive buffer when it has room and the router runs (R137, R139). -/
theorem execLineArrival_line {c : CoreId} {port : Fin 6} {st : Fin 16} {s : State} {l : Line} {rest : List WireItem}
    (err : LinkErr) (hw : (s.streamAt (streamKey c.val port.val st.val)).wire = .line l :: rest)
    (hb : (s.streamAt (streamKey c.val port.val st.val)).buf.length < 8) (hr : routerRuns s c.val = true) :
    let k := streamKey c.val port.val st.val
    let v := s.streamAt k
    let x := received l err
    let t := if corrections err = 0 then s
      else { s with linkCorr := mmod s.linkCorr (6 * c.val + port.val) 0 (· + BitVec.ofNat 48 (corrections err)) }
    let u := t.setStream k { v with
      wire := (popEnds rest).2, buf := v.buf ++ [⟨x, none⟩], recvPos := v.recvPos + 1, recvCrc := crcLine v.recvCrc x,
      recvSince := v.recvSince + 1, passed := none }
    execLineArrival c port st err s =
      .next (pumpAll (dropOrphans (freeFlits u c.val port.val (popEnds rest).1) c.val port.val st.val) c.val) := by
  have hroom : ¬ 8 ≤ (s.streamAt (streamKey c.val port.val st.val)).buf.length := by omega
  simp only [execLineArrival, hw, ge_iff_le, hroom, hr, decide_false, Bool.not_true, Bool.or_self, Bool.false_eq_true, if_false]

/-- A check word that agrees with the running check is placed, and the check starts again (R115, R139). -/
theorem execCheckWordArrival_good {c : CoreId} {port : Fin 6} {st : Fin 16} {s : State} {w : W32} {rest : List WireItem}
    (hw : (s.streamAt (streamKey c.val port.val st.val)).wire = .check w :: rest)
    (hc : w = crcWord (s.streamAt (streamKey c.val port.val st.val)).recvCrc) (hr : routerRuns s c.val = true) :
    let k := streamKey c.val port.val st.val
    execCheckWordArrival c port st s = .next (placeCheck (freeFlits
      (s.setStream k { s.streamAt k with wire := (popEnds rest).2, recvCrc := 0xFFFFFFFF#32, recvSince := 0 })
      c.val port.val (popEnds rest).1) c.val port.val st.val w false) := by
  have hbad : decide (w ≠ crcWord (s.streamAt (streamKey c.val port.val st.val)).recvCrc) = false := by simp [hc]
  simp only [execCheckWordArrival, hw, hbad, hr, Bool.not_true, Bool.false_eq_true, if_false]

/-- A routed line goes on at its route's turn, while a credit is left (R138, R142). -/
theorem execTransitForward_turn {c : CoreId} {port : Fin 6} {st : Fin 16} {s s1 : State} {r : Route} {b : BufLine}
    (hroute : routeOn s c.val port.val st.val = some r)
    (hcred : (s.streamAt (streamKey c.val r.outPort r.outStream)).credits ≠ 0) (hr : routerRuns s c.val = true)
    (hturn : routeTurn s r = true) (hhead : takeHead s c.val port.val st.val = some (b, s1)) :
    execTransitForward c port st s =
      .next (pumpAll (dropOrphans (countRoute (forwardLine s1 c.val r b) r) c.val port.val st.val) c.val) := by
  simp [execTransitForward, hroute, hcred, hr, hturn, hhead]

/-- Settles O15: each row of the links, in the case that its words name. -/
theorem linksDeliver : Obligations.LinksDeliver := by
  refine ⟨fun c port st s l rest hw hb hr => ?line, fun c port st s w rest hw hc hr => execCheckWordArrival_good hw hc hr,
    fun c port st s => ?credit, fun c port st s s1 r b hroute hcred hr hturn hhead hcheck => ?forward⟩
  case line =>
    have row := fun err => execLineArrival_line err hw hb hr
    exact ⟨row .clean, row .corrected, row .correctedBoth, fun m => ⟨row (.flipped m), row (.correctedFlipped m)⟩⟩
  case credit =>
    intro k v hv hr
    show execCreditReturn c port st s = _
    simp [execCreditReturn, hr, hv, k, v]
  case forward =>
    intro spent left
    rw [show exec (.transitForward c port st) s = _ from execTransitForward_turn hroute hcred hr hturn hhead]
    simp only [forwardLine, hcheck]
    rfl

end Sys2Proof.Machine
end

section
/-! PROOFS. Scrubbing, refresh and the line test of chimney groups (03_arrays_and_core.md, 06_tier_memory.md). -/

namespace Sys2Proof.Machine

/-- A starvation grant at a row counts 32 refused cycles there, and at the arrays' row the stalled cycles too (R83, R93). -/
theorem execPortStarvationGrant_row (c : CoreId) (bank : Fin 32) (row : Fin 7) (s : State) :
    (row.val ≠ 0 → execPortStarvationGrant c bank row s = .next (s.modCore c.val fun k => bumpCtr k (14 + row.val) 32)) ∧
    (row.val = 0 → execPortStarvationGrant c bank row s = .next (s.modCore c.val fun k => bumpCtr (stallArrays k 32) 14 32)) :=
  ⟨fun h => by simp only [execPortStarvationGrant, if_neg h], fun h => by simp only [execPortStarvationGrant, h, if_true]⟩

/-- A lap that exceeds the threshold sets SCRUB_ALARM; its record is written once (R173). -/
theorem execScrubLapAlarm_late {c : CoreId} {s : State}
    (h : lapFrom s (s.regionAt c.val) + max 1 s.memc.alarmS * oneS < s.nowNat) :
    let t := { s with memc := { s.memc with scrubAlarm := true } }
    execScrubLapAlarm c s = if (s.regionAt c.val).alarmed then .next t else .next (reportContained
      (t.setRegion c.val { s.regionAt c.val with alarmed := true }) (coreUnit t c.val 80) .timeout 5) := by
  simp only [execScrubLapAlarm, if_neg (Nat.not_le.mpr h)]

/-- The line test of a paused group that finds new faults, by the spares that they leave (R180, R181). -/
theorem execChimneyLineTest_faults {c : CoreId} {g : Fin 8} {faulty : List (Fin 134)} {s : State} {l : Nat} {ls : List Nat}
    (h : (s.chimAt c.val).paused.contains g.val = true) (hn : newFaults s c.val g.val faulty = l :: ls) :
    let used := mget (s.chimAt c.val).spares g.val 0 + (l :: ls).length
    let t := logLines s c.val g.val (l :: ls)
    execChimneyLineTest c g faulty s =
      if used ≤ 4 then
        .next ((l :: ls).foldl (fun st x => report st (lineReport st c.val g.val x .corrected))
          (t.setChim c.val { (s.chimAt c.val).unpause g.val with spares := mset (s.chimAt c.val).spares g.val used 0 }))
      else if (s.chimAt c.val).disabled.length < 2 then .next (disableGroup t c.val g.val l)
      else .next (failChimney t c.val g.val l) := by
  simp only [execChimneyLineTest, h, hn, Bool.not_true, Bool.false_eq_true, if_false]

/-- Settles O16: the rows that serve the stored data, each in the cases that its words name. -/
theorem storedDataIsServed : Obligations.StoredDataIsServed := by
  refine ⟨fun c bank row s =>
      ⟨(execPortStarvationGrant_row c bank row s).1, (execPortStarvationGrant_row c bank row s).2, rfl, rfl⟩,
    ⟨fun c n s => ⟨fun h => ?refresh, fun h => ?lost⟩, fun t s h => ?relax⟩,
    ⟨fun c n s hl => ⟨fun hd => ?page, fun hd => ?defers⟩, fun c s h => ⟨fun ha => ?again, fun ha => ?first⟩⟩,
    fun c g faulty s h => ⟨fun hn => ?none, fun l ls hn => ⟨fun hu => ?spared, fun hu hd => ?disabled, fun hu hd => ?failed⟩⟩⟩
  case refresh => show execRefreshCommand c n s = _; simp only [execRefreshCommand, h, Bool.false_eq_true, if_false]
  case lost => show execRefreshCommand c n s = _; simp only [execRefreshCommand, h, if_true]
  case relax => exact if_pos h
  case page =>
    show execDramScrubPage c n s = _
    simp only [execDramScrubPage, hl, hd, Bool.or_self, Bool.false_eq_true, if_false]
  case defers => show execDramScrubPage c n s = _; simp only [execDramScrubPage, hd, Bool.or_true, if_true]
  case again => exact (execScrubLapAlarm_late h).trans (if_pos ha)
  case first => exact (execScrubLapAlarm_late h).trans (if_neg (by simp [ha]))
  case none =>
    show execChimneyLineTest c g faulty s = _
    simp only [execChimneyLineTest, h, hn, Bool.not_true, Bool.false_eq_true, if_false]
  case spared => exact (execChimneyLineTest_faults h hn).trans (if_pos hu)
  case disabled => exact (execChimneyLineTest_faults h hn).trans ((if_neg (Nat.not_le.mpr hu)).trans (if_pos hd))
  case failed =>
    exact (execChimneyLineTest_faults h hn).trans ((if_neg (Nat.not_le.mpr hu)).trans (if_neg (Nat.not_lt.mpr hd)))

end Sys2Proof.Machine
end

section
/-! PROOFS. Descriptors of channels, queries and caps (09_host_channels.md). -/

namespace Sys2Proof.Machine

-- Rows of descriptors

section
variable {s t : State} {ch i op : Nat} {d : Line} {also : Line → Bool} {f : State → DescEnv → Line → Eff}

/-- The next descriptor of a channel ends with OK when its effect does. -/
theorem row_ok {det : BitVec 128} (h : nextDesc s ch i d op = true) (ha : also d = true) (hf : f s ⟨ch, false⟩ d = .ok t det) :
    (.next (descRow s ch op also f) : Res) = .next (entryEnds t ch i .ok det) := congrArg _ (descRow_ok also f h ha hf)

/-- It ends with the status of its effect's failure. -/
theorem row_fail {st : Status} {unit : W32} {more : Nat} (h : nextDesc s ch i d op = true) (ha : also d = true)
    (hf : f s ⟨ch, false⟩ d = .fail t st unit more) :
    (.next (descRow s ch op also f) : Res) = .next (entryEnds t ch i st (failDetail unit more)) :=
  congrArg _ (descRow_fail also f h ha hf)

/-- It runs on when its effect does. -/
theorem row_run {pos : Nat} (h : nextDesc s ch i d op = true) (ha : also d = true) (hf : f s ⟨ch, false⟩ d = .run t pos) :
    (.next (descRow s ch op also f) : Res) = .next (entryRuns t ch i pos) := congrArg _ (descRow_run also f h ha hf)
end

-- Queries

/-- Settles O17: the effects of the queries, and what a handle that names no channel leads to. -/
theorem queriesAnswer : Obligations.QueriesAnswer := by
  refine ⟨fun ch i d s => ⟨fun h => row_ok h rfl rfl, fun h => row_ok h rfl rfl, fun k h hk => ?query, fun h ha hq => ?one,
    fun h ha hq => ?quarantined, fun h ha => ?all, fun h hd ha => ?telemetry⟩,
    fun ch i d s hn => ⟨fun h => ?destroy, fun h => ?resume, fun h => ?stale⟩⟩
  case query => exact row_ok h rfl (by simp only [chQueryEff, hk])
  case one => exact row_ok h rfl (by simp [chimneyQueryEff, ha, hq])
  case quarantined => exact row_fail h rfl (by simp [chimneyQueryEff, ha, hq])
  case all => exact row_ok h rfl (if_pos ha)
  case telemetry => exact row_ok h rfl (by simp [telemetryEff, hd, ha])
  case destroy => exact row_fail h rfl (by simp only [chDestroyEff, hn]; rfl)
  case resume => exact row_fail h rfl (by simp only [chResumeEff, hn]; rfl)
  case stale => exact row_fail h rfl (by simp only [chQueryEff, hn]; rfl)

end Sys2Proof.Machine
end

section
/-! PROOFS. Channels, partitions and plan loads by descriptor (05_mesh_and_partitions.md, 09_host_channels.md). -/

namespace Sys2Proof.Machine

variable {s : State}

-- Completion records

/-- Only a settled head of finished entries is written: an empty queue has none. -/
theorem writeDone_empty (n ch : Nat) (h : (s.chanAt ch).q = []) : writeDone n s ch = s := by
  cases n with
  | zero => rfl
  | succ n => simp only [writeDone, h, settleHead, headCommitted, Bool.not_false, if_true]

/-- A write of host memory leaves the channels alone. -/
@[simp] theorem chanAt_hostWrite (k addr : Nat) (bs : List Byte) : (hostWrite s addr bs).chanAt k = s.chanAt k := by
  unfold hostWrite; split <;> rfl

/-- So does a raised vector. -/
@[simp] theorem chanAt_raiseVector (k v : Nat) : (raiseVector s v).chanAt k = s.chanAt k := by
  unfold raiseVector; split
  · rfl
  · split <;> rfl

/-- A completion record leaves the entries of its channel alone. -/
@[simp] theorem putRecord_q (ch : Nat) (r : CRec) : ((putRecord s ch r).chanAt ch).q = (s.chanAt ch).q := by
  simp only [putRecord, State.chanAt_setChan]; split <;> rfl

/-- So does an interrupt of the channel. -/
@[simp] theorem raiseChannel_q (ch : Nat) : ((raiseChannel s ch).chanAt ch).q = (s.chanAt ch).q := by
  simp only [raiseChannel]; split <;> simp only [State.chanAt_setChan]

/-- An only entry that has ended outside a group is settled. -/
theorem settleHead_single {e : DescEntry} (h : e.inGroup = false) : settleHead [e] = some [e] := by
  simp only [settleHead, headCommitted, h, Bool.false_and, Bool.not_false, if_true]

/-- The record of the only entry of a channel, which has ended. -/
theorem writeDone_single {ch : Nat} {e : DescEntry} {st : Status} {det : BitVec 128} {t : W64} (hq : (s.chanAt ch).q = [e])
    (hg : e.inGroup = false) (hp : e.phase = .done st det t) (hf : (s.chanAt ch).freeEntries ≠ 0) :
    let ended := putRecord (s.setChan ch { s.chanAt ch with q := [], completed := (s.chanAt ch).completed + 1 }) ch
      (entryRecord e st det t)
    writeDone 2 s ch = if bit e.desc 9 then raiseChannel ended ch else ended := by
  simp only [writeDone, hq, settleHead_single hg, hp, hf, if_false]
  exact writeDone_empty 1 ch (by split <;> simp only [raiseChannel_q, putRecord_q, State.chanAt_setChan])

-- Channels

/-- Settles O18: the effects of the channel descriptors, and a close whose entries have all ended. -/
theorem channelsOpenAndClose : Obligations.ChannelsOpenAndClose := by
  refine ⟨fun ch i k d s h hd hp hk => row_ok h rfl ?create, fun ch i k d s h hk h0 hc hs => row_run h rfl ?destroy,
    fun ch i k d s h hk hst => row_ok h rfl ?resume, fun k s hq hc => ?close⟩
  case create =>
    have hbound : ¬(bits d 65 64 = 0 ∧ (s.part? (bits d 71 66)).isNone = true) := by
      rintro ⟨h0, hn⟩
      rcases hp with hp | hp
      · exact hp h0
      · simp only [Option.isNone_iff_eq_none] at hn
        rw [hn] at hp; cases hp
    simp only [chCreateEff, hd, Bool.not_true, Bool.false_eq_true, if_false, hbound, hk]
  case destroy => simp only [chDestroyEff, hk, h0, hc, hs, or_self, if_false]
  case resume =>
    rcases hst with hst | hst <;> simp only [chResumeEff, hk, hst] <;> rfl
  case close =>
    refine ⟨fun hn => ?_, fun c hn => ?_⟩ <;>
    · show execChannelCloseComplete k s = _
      simp only [execChannelCloseComplete, writeDone_empty _ _ hq, hc, hq, hn, ne_eq, not_true, decide_false, List.isEmpty_nil,
        Bool.not_true, Bool.or_self, Bool.false_eq_true, if_false]

-- Partitions

/-- A search that a property of every element rules out finds none. -/
theorem find?_none_of_all {l : List Nat} {p : Nat → Bool} (h : ∀ c ∈ l, p c = false) : l.find? p = none :=
  List.find?_eq_none.mpr fun c hc => by rw [h c hc]; exact Bool.false_ne_true

/-- A partition runs when every op list and the routes of every router pass. -/
theorem runPart_passes {p : Nat} {v : Partition} (hl : firstBadList (listNow s) v.cores = none) (hr : fullRouter s p v = none) :
    runPart s p v = Eff.done ((releaseSeqs s v.cores).modPart p fun v => { v with state := .running, runSince := s.time.now }) := by
  simp only [runPart, hl, hr]

/-- Settles O19: the effects of the partition descriptors in the states that accept them. -/
theorem partitionsComeMoveAndGo : Obligations.PartitionsComeMoveAndGo := by
  refine ⟨⟨fun ch i d s h ha hp hc ho hq => row_ok h rfl ?create, fun ch i d s v h hp hs hb => row_ok h rfl ?destroy⟩,
    fun ch i d s v h hp => ⟨fun hk hs hl hr => row_ok h (decide_eq_true hk) ?start,
      fun hk hs => row_run h (decide_eq_true hk) ?quiesce, fun hk hs hl hr => row_ok h (decide_eq_true hk) ?resume,
      fun hk hs => row_ok h (decide_eq_true hk) ?reset, fun hk hs => row_ok h (decide_eq_true hk) ?unload⟩⟩
  case create =>
    have hown : ((mapCores (rdBytes s.hostMem (descAddr d) 256)).any fun c => (s.ownerOf c).isSome) = false :=
      List.any_eq_false.mpr fun c hc => by rw [ho c hc]; exact Bool.false_ne_true
    simp only [partCreateEff, ha, hp, hc, hown, find?_none_of_all hq, ne_eq, not_true, Option.isSome_none, Bool.not_true,
      Bool.false_eq_true, if_false, Eff.done]
  case destroy =>
    simp only [partDestroyEff, hp, hs, hb, ne_eq, not_true, decide_false, Bool.or_self, Bool.false_eq_true, if_false, Eff.done]
  case start => simp only [partCtrlEff, hk, startEff, hp, hs, if_true, runPart_passes hl hr, Eff.done]
  case quiesce => simp only [partCtrlEff, hk, quiesceEff, hp, hs, if_true, State.modPart_of_some _ hp]
  case resume => simp only [partCtrlEff, hk, resumeEff, hp, hs, if_true, runPart_passes hl hr, Eff.done]
  case reset =>
    rcases hs with hs | hs | hs <;>
      simp only [partCtrlEff, hk, resetEff, hp, hs, reduceCtorEq, if_false, Eff.done]
  case unload =>
    rcases hs with hs | hs | hs <;> simp only [partCtrlEff, hk, unloadEff, hp, hs, Eff.done]

/-- Settles O20: a load whose regions are off or on, and the completion of a channel whose only entry has ended. -/
theorem plansLoad : Obligations.PlansLoad := by
  refine ⟨fun ch i d s t v im pl h hp hs hc hon => row_run h rfl ?waits,
    fun ch i d s t u v im pl h hp hs hc hon hi => row_ok h rfl ?writes, fun ch s e st det t hq hg hp hn hf => ?single,
    fun ch s => rfl⟩
  case waits =>
    simp only [partLoadEff, hp, hs, ne_eq, not_true, if_false, hc, hon, Bool.or_self, Bool.false_eq_true]
  case writes =>
    simp only [partLoadEff, hp, hs, ne_eq, not_true, if_false, hc, hon, Bool.or_true, if_true, commitLoad, hi, Eff.done]
  case single =>
    have hrun : e.running = false := by simp only [DescEntry.running, hp]
    have hload : runningAt (s.chanAt ch.val) 0x19 = [] := by
      simp only [runningAt, hq, List.filter_cons, hrun, Bool.false_and, Bool.false_eq_true, if_false, List.filter_nil]
    have hgo : continueAll s ch.val = s := by
      simp only [continueAll, hq, List.filter_cons, hrun, Bool.false_eq_true, if_false, List.filter_nil, List.foldl_nil]
    have hend : endGroup s ch.val = s := by simp only [endGroup, hn]
    show execDescriptorCompletion ch s = _
    simp only [execDescriptorCompletion, hload, List.foldl_nil, hgo, hend, hq, List.length_singleton]
    exact congrArg _ (writeDone_single hq hg hp hf)

end Sys2Proof.Machine
end

section
/-! PROOFS. Snapshots, rotations, power caps, security, transfers and the cache by descriptor (08_attention_and_kv_cache.md,
09_host_channels.md, 12_power.md, 15_startup_and_trust.md). -/

namespace Sys2Proof.Machine

variable {s t : State}

-- Snapshots and rotations

/-- Settles O21: the descriptors of snapshots and routers, and the exchange of two drained cores. -/
theorem snapshotRouterAndRotation : Obligations.SnapshotRouterAndRotation := by
  refine ⟨⟨fun ch i d s v pl h hp hs hv hn => row_run h rfl ?snapshot, fun ch i d s h =>
    ⟨fun hq ho hr => row_ok h rfl ?reset, fun hq ho hr => row_fail h rfl ?needed, fun hq => row_fail h rfl (if_pos hq)⟩⟩,
    fun p set s t v x hp hx hs hc => ⟨fun hr => ?exchange, fun c o hr => ?lost⟩⟩
  case snapshot =>
    simp only [partSnapshotEff, hp, hs, hv, Option.map_some, Option.getD_some, hn, ne_eq, not_true, decide_false, Bool.not_true,
      Bool.or_self, Bool.false_eq_true, if_false, State.modPart_of_some _ hp]
  case reset => simp only [routerResetEff, hq, ho, hr, Bool.false_eq_true, if_false, Eff.done]
  case needed => simp only [routerResetEff, hq, ho, hr, Bool.false_eq_true, if_false, if_true]
  case exchange =>
    show execRotationComplete p set s = _
    simp only [execRotationComplete, hp, hx, hs, hc, hr, ne_eq, not_true, decide_false, Bool.not_true, Bool.or_self,
      Bool.false_eq_true, if_false]
  case lost =>
    show execRotationComplete p set s = _
    simp only [execRotationComplete, hp, hx, hs, hc, hr, ne_eq, not_true, decide_false, Bool.not_true, Bool.or_self,
      Bool.false_eq_true, if_false]

-- Power caps

/-- A fold that writes each of a run of keys once, from what the key held. -/
theorem mget_foldl_mput {α : Type} (g : Nat → α → α) (x : α) (k : Nat) : ∀ (n a : Nat) (m : SMap α),
    mget ((natsFrom a n).foldl (fun m t => mput m t (g t (mget m t x))) m) k x =
      if a ≤ k ∧ k < a + n then g k (mget m k x) else mget m k x
  | 0, a, m => by rw [if_neg (by omega)]; rfl
  | n + 1, a, m => by
    rw [natsFrom, List.foldl_cons, mget_foldl_mput g x k n (a + 1)]
    by_cases hk : k = a
    · subst hk; rw [if_neg (by omega), if_pos (by omega), mget_mput_same]
    · rw [mget_mput_ne _ _ _ _ _ hk]
      by_cases hr : a + 1 ≤ k ∧ k < a + 1 + n
      · rw [if_pos hr, if_pos (by omega)]
      · rw [if_neg hr, if_neg (by omega)]

/-- The end of a ms puts its bubbles in front of every tier's history. -/
theorem closeMs_bubbleMs (s : State) (t : TierId) :
    mget (closeMs s).pwr.bubbleMs t.val [] = (mget s.pwr.bubbleSum t.val (0, 0) :: mget s.pwr.bubbleMs t.val []).take 64 :=
  (mget_foldl_mput (fun t h => (mget s.pwr.bubbleSum t (0, 0) :: h).take 64) [] t.val 8 0 s.pwr.bubbleMs).trans
    (if_pos ⟨Nat.zero_le _, by omega⟩)

/-- The scale behind a cap loop: the last one while the partitions have no estimate (R343). -/
def capScale (s : State) (p1ms restW : Nat) : Nat × Nat :=
  let total := s.part.foldl (fun a e => a + mget s.pwr.estSum e.1 0) 0
  if total = 0 then s.pwr.scale else ((p1ms - restW) * 1000 * s.pwr.estN, total)

/-- Rescaling writes the scale alone. -/
theorem rescale_eq (s : State) (p1ms restW : Nat) :
    rescale s p1ms restW = { s with pwr := { s.pwr with scale := capScale s p1ms restW } } := by
  simp only [rescale, capScale]; split <;> rfl

/-- Settles O22: the ranges of a cap, and the fields that the damper and the cap loop write. -/
theorem powerCaps : Obligations.PowerCaps := by
  refine ⟨fun ch i d s h => ⟨fun hd hlo hhi hf => row_ok h rfl ?device, fun v hd hw hhi hp hf => row_ok h rfl ?partition,
    fun hd hw => row_fail h rfl ?range⟩, fun p1us amps activity s h => ?damper, fun p1ms p10ms vinMv restW s => ?loop⟩
  case device =>
    have hin : ¬(bits d 95 80 < 1800 ∨ bits d 95 80 > 3300) := by omega
    simp only [pwrCapEff, hd, if_true, hin, if_false, hf, Bool.or_true, Eff.done]
  case partition =>
    have hin : ¬(bits d 95 80 ≠ 0 ∧ bits d 95 80 < 50 ∨ bits d 95 80 > 3300) := by omega
    simp only [pwrCapEff, hd, Bool.false_eq_true, if_false, hin, hp, hf, Bool.or_true, if_true, Eff.done]
  case range => simp only [pwrCapEff, hd, if_true, if_pos hw, Eff.no]
  case damper =>
    show execDamperUpdate p1us amps activity s = _
    simp only [execDamperUpdate, h, Bool.not_true, Bool.false_eq_true, if_false]
    rfl
  case loop =>
    let s1 : State := { s with pwr := { s.pwr with p1ms := p1ms, p10ms := p10ms, vinMv := vinMv } }
    refine ⟨capScale s1 p1ms restW, (integrateCaps (rescale s1 p1ms restW)).pwr.partInt,
      (closeMs (integrateCaps (rescale s1 p1ms restW))).pwr.bubbleMs, ?next, fun hp => ⟨?scale, ?integrals⟩, fun ht => if_neg ht,
      fun t => ?history⟩
    case next =>
      show (.next ((natsFrom 0 8).foldl stepByBubbles (closeMs (integrateCaps (rescale s1 p1ms restW)))) : Res) = _
      rw [rescale_eq]; rfl
    case scale => exact if_pos (by simp only [s1, hp, List.foldl_nil])
    case integrals => simp only [rescale_eq, integrateCaps, s1, hp, List.foldl_nil]
    case history => rw [closeMs_bubbleMs, rescale_eq]; rfl

end Sys2Proof.Machine
end

section
/-! PROOFS. Security, transfers and the cache by descriptor (07_near_bank_units.md, 08_attention_and_kv_cache.md,
09_host_channels.md, 15_startup_and_trust.md). -/

namespace Sys2Proof.Machine

variable {s t : State}

-- Security

/-- A channel without a group awaits no outcome. -/
theorem awaited_of_no_group {ch : Nat} (op : Nat) (h : (s.chanAt ch).group = none) : awaited s ch op = none := by
  simp only [awaited, h]

/-- A licence of a form and length that LIC_INSTALL takes (R422). -/
theorem licForm_held {n : Nat} {b : List Byte} (h1 : 1 ≤ n) (h2 : n ≤ 4096) (hf : licForm b = true) :
    ¬(n = 0 ∨ n > 4096 ∨ (!licForm b) = true) := by
  rintro (h | h | h)
  · omega
  · omega
  · rw [hf] at h; cases h

/-- Images whose hashes and CRCs hold: every hash does, and no image is found without its CRC. -/
theorem images_hold {f : Nat → Byte} {es : List Image} (h : (es.all fun e => hashHolds f e && crcHolds f e) = true) :
    es.all (hashHolds f) = true ∧ (es.find? fun e => !crcHolds f e) = none := by
  simp only [List.all_eq_true, Bool.and_eq_true] at h
  refine ⟨List.all_eq_true.mpr fun e he => (h e he).1, List.find?_eq_none.mpr fun e he => ?_⟩
  rw [(h e he).2]; exact Bool.false_ne_true

/-- Settles O23: the effects of the security descriptors, alone or as the member that a group's end waits for. -/
theorem securityDescriptors : Obligations.SecurityDescriptors := by
  refine fun ch i d s => ⟨fun k h hk hi hu => row_ok h rfl ?attest, fun h hkey hs => row_ok h rfl ?reset,
    fun g k ha => ⟨?stored, ?unstored⟩, fun g k u ha => ⟨?delivered, ?undelivered⟩,
    fun ok hg h h1 h2 hf hb hsig hi hu hx => ?held, fun hg h h1 h2 hf hb hsig hi hu hx hl => ?new,
    fun v hg h h1 h2 hp hs hf hm hok hall => ?update⟩
  case attest => simp only [attestEff, hk, hi, hu, Bool.not_true, Bool.or_self, Bool.false_eq_true, if_false]
  case reset =>
    have href : ¬(s.dev.state = .safe ∧ (!s.clk.refA.ready) = true ∧ (!s.clk.refB.ready) = true) := by
      rintro ⟨hsafe, hA, hB⟩
      rcases hs with h | h | h
      · exact h hsafe
      · rw [h] at hA; exact nomatch hA
      · rw [h] at hB; exact nomatch hB
    simp only [devResetEff, hkey, ne_eq, not_true, if_false, href, Eff.done]
  case stored => show execLicInstall ch true s = _; simp only [execLicInstall, ha, if_true]
  case unstored => show execLicInstall ch false s = _; simp only [execLicInstall, ha, Bool.false_eq_true, if_false]
  case delivered => show execFwUpdate ch none s = _; simp only [execFwUpdate, ha, Option.map_none]
  case undelivered => show execFwUpdate ch (some u) s = _; simp only [execFwUpdate, ha, Option.map_some]
  case held =>
    have hn := licForm_held h1 h2 hf
    show execLicInstall ch ok s = _
    simp only [execLicInstall, awaited_of_no_group _ hg]
    refine row_ok h rfl ?_
    simp only [licInstallEff, hn, hb, hsig, hi, hu, hx, Bool.not_true, Bool.or_self, Bool.false_eq_true, if_false, if_true]
  case new =>
    have hn := licForm_held h1 h2 hf
    show execLicInstall ch true s = _
    simp only [execLicInstall, awaited_of_no_group _ hg]
    refine row_ok h rfl ?_
    simp only [licInstallEff, hn, hb, hsig, hi, hu, hx, Nat.not_le_of_lt hl, Bool.not_true, Bool.or_self,
      Bool.false_eq_true, if_false]
  case update =>
    have hn : ¬(bits d 223 192 = 0 ∨ bits d 223 192 > 524288) := by omega
    have hst : ¬(v.state ≠ .loaded ∧ v.state ≠ .quiesced) := fun hne => hs.elim hne.1 hne.2
    obtain ⟨hhash, hcrc⟩ := images_hold hall
    show execFwUpdate ch none s = _
    simp only [execFwUpdate, awaited_of_no_group _ hg]
    refine row_ok h rfl ((if_neg hn).trans ?_)
    simp only [hp, hst, if_false, hf, hm, hok, hhash, Bool.not_true, Bool.or_self, Bool.false_eq_true]
    rw [hcrc]; rfl

-- Transfers

/-- A transfer of at most one unit moves it and is done. -/
theorem moveUnits_one {ch n : Nat} {d : Line} {f : State → Nat → Nat → UnitOut} (h0 : 0 < copyLen d) (h1 : copyLen d ≤ 4096)
    (hf : f s 0 (copyLen d) = .moved t) : moveUnits ch d f (n + 2) s 0 = Eff.done t := by
  have hu : min copyUnit (copyLen d - 0) = copyLen d := by simp only [copyUnit]; omega
  simp only [moveUnits, Nat.not_le_of_lt h0, if_false, hu, hf, Nat.zero_add, Nat.le_refl, if_true]

/-- Settles O24: transfers that need not wait. -/
theorem transfersMove : Obligations.TransfersMove := by
  refine ⟨fun ch i d s => ⟨fun h hs hd h0 h1 => row_ok h rfl ?copy, fun t h h0 h1 hl ha hw hp => row_ok h rfl ?fill,
    fun h h0 => row_fail h rfl (if_pos h0), fun m t h hm hw => row_run h rfl ?put, fun m t bs h hm hr => row_ok h rfl ?get⟩,
    fun ch i d s h hc hl hg hm hf => row_ok h rfl ?result⟩
  case copy =>
    refine (if_neg (Nat.ne_of_gt h0)).trans (moveUnits_one h0 h1 ?_)
    simp only [copyOne, hs, hd, Bool.false_and, Bool.or_self, Bool.false_eq_true, if_false, Nat.add_zero]
  case fill =>
    refine (if_neg (by omega)).trans (moveUnits_one h0 h1 ?_)
    simp only [fillOne, putUnit, Nat.add_zero, hw, Bool.false_eq_true, if_false, hp]
  case put => simp only [cpPutEff, hm, hw]
  case get => simp only [cpGetEff, hm, hr]
  case result =>
    refine (if_neg (by omega)).trans ?_
    simp only [hf, Bool.not_true, Bool.false_eq_true, if_false, hc, resultFrom, Nat.le_zero_eq, Nat.one_ne_zero, hm, Nat.add_zero, hg,
      Nat.zero_add, Nat.le_refl, if_true]
    rfl

-- The cache

/-- Settles O25: contexts, page tables and sequences in the states that accept their descriptors. -/
theorem contextsTablesAndSequences : Obligations.ContextsTablesAndSequences := by
  refine ⟨⟨fun ch i d s v => ?setup, fun ch i d s x h hx hf => row_ok h rfl ?release, fun ch i d s => ?pte⟩,
    fun ch i d s h => ⟨fun ha h1 h2 hc hq => row_ok h (decide_eq_true ha) ?register, fun q hq =>
      ⟨fun ha hp hf hwp hwr => row_ok h (decide_eq_true ha) ?pause, fun ha hp => row_ok h (decide_eq_true ha) ?resume,
        fun ha hf hwr => row_ok h (decide_eq_true ha) ?remove⟩⟩⟩
  case setup =>
    intro x t h hok hm hsh hp hx
    have hlt : decide (x.shards ≤ x.shard) = false := decide_eq_false (Nat.not_le_of_lt hsh)
    refine ⟨fun hpod hpr => row_ok h rfl ?_, fun hpod => row_fail h rfl ?_⟩
    · simp only [kvSetupEff, hok, x, t, hm, hlt, hp, hx, hpod, hpr, Bool.not_true, Bool.not_false, Bool.and_false, Bool.or_self,
        Bool.false_eq_true, if_false, Eff.done]
    · simp only [kvSetupEff, hok, x, t, hm, hlt, hp, hx, hpod, Bool.not_true, Bool.or_self, Bool.false_eq_true, if_false, if_true, Eff.no]
  case release => simp only [kvReleaseEff, hx, hf, Bool.false_eq_true, if_false, Eff.done]
  case pte =>
    intro c es h h1 h2 hform hfree hframe
    have hn : ¬(pteEdits d = 0 ∨ pteEdits d > 2048) := by omega
    refine row_ok h rfl ?_
    simp only [kvPteEff, hn, hform, hfree, c, es, hframe, Bool.not_true, Bool.false_eq_true, if_false]
  case register =>
    have hn : ¬(bits d 116 96 = 0 ∨ bits d 116 96 > maxTokens) := by omega
    have hsome : (mget? s.kv.ctxs (descCtx d)).isNone = false := by rw [← Option.not_isSome, hc]; rfl
    simp only [kvSeqEff, ha, seqRegister, hn, if_false, hsome, hq, Option.isSome_none, Bool.or_self, Bool.false_eq_true]
  case pause =>
    simp only [kvSeqEff, ha, seqPause, hq, hp, hf, hwp, hwr, Option.isSome_none, Bool.or_self, Bool.false_eq_true, if_false]
  case resume => simp only [kvSeqEff, ha, seqResume, hq, hp, Bool.not_true, Bool.false_eq_true, if_false]
  case remove => simp only [kvSeqEff, ha, seqRemove, hq, hf, hwr, Option.isSome_none, Bool.false_eq_true, if_false]

end Sys2Proof.Machine
end

section
/-! PROOFS. Written bytes, accesses over a service path, BAR2 and BAR0 (01_stack_organisation.md, 06_tier_memory.md,
09_host_channels.md). -/

namespace Sys2Proof.Machine

variable {s : State}

-- Written bytes

/-- Written bytes leave every other byte as it was. -/
theorem rdByte_wrBytes_ne : ∀ (bs : List Byte) (m : Mem) (a x : Nat), outside a bs.length x →
    rdByte (wrBytes m a bs) x = rdByte m x
  | [], _, _, _, _ => rfl
  | b :: bs, m, a, x, h => by
    simp only [outside, List.length_cons] at h
    rw [wrBytes_cons, rdByte_wrBytes_ne bs _ _ _ (by simp only [outside]; omega), rdByte_wrByte_ne _ _ _ _ (by omega)]

/-- Written bytes read back. -/
theorem rdBytes_wrBytes_same : ∀ (bs : List Byte) (m : Mem) (a : Nat), rdBytes (wrBytes m a bs) a bs.length = bs
  | [], _, _ => rfl
  | b :: bs, m, a => by
    rw [wrBytes_cons, List.length_cons, rdBytes, rdBytes_wrBytes_same bs, rdByte_wrBytes_ne _ _ _ _ (Or.inl (Nat.lt_succ_self a)),
      rdByte_wrByte_same]

-- Folds and runs of numbers

/-- A fold whose every step leaves the start as it is. -/
theorem foldl_of_fixed {α β : Type} {f : α → β → α} {x : α} : ∀ {l : List β}, (∀ e ∈ l, f x e = x) → l.foldl f x = x
  | [], _ => rfl
  | e :: l, h => by
    rw [List.foldl_cons, h e List.mem_cons_self]; exact foldl_of_fixed fun y hy => h y (List.mem_cons_of_mem _ hy)

/-- The numbers of a run. -/
theorem mem_natsFrom {x : Nat} : ∀ {n a : Nat}, x ∈ natsFrom a n ↔ a ≤ x ∧ x < a + n
  | 0, a => by simp only [natsFrom, List.not_mem_nil, false_iff]; omega
  | n + 1, a => by simp only [natsFrom, List.mem_cons, mem_natsFrom (n := n)]; omega

-- Registers before READY

/-- Whole registers of a write lie inside it. -/
theorem wholeRegs_inside {off : Nat} {data : List Byte} {e : Nat × W64} (h : e ∈ wholeRegs off data) :
    off ≤ e.1 ∧ e.1 + 8 ≤ off + data.length := by
  simp only [wholeRegs, List.mem_map, mem_natsFrom] at h
  obtain ⟨k, hk, rfl⟩ := h
  have hlo : off ≤ cdiv off 8 * 8 := by simp only [cdiv]; omega
  dsimp only
  omega

/-- Before READY and outside SAFE a write outside the BOOT block has no effect on a register (R255, R446). -/
theorem writeReg_early (v : W64) {off : Nat} (hr : s.dev.ready = false) (hs : s.dev.state ≠ .safe) (hb : off / 0x10000 ≠ 9) :
    writeReg s off v = s := by
  have hw : wholeMap s = false := by simp only [wholeMap, hr, hs, decide_false, Bool.or_self]
  simp only [writeReg, hw, Bool.false_or, decodedEarly, hb, decide_false, Bool.or_false]
  split
  · rfl
  · next h =>
    simp only [Bool.not_eq_true, Bool.not_eq_false', decide_eq_true_eq] at h
    rw [show off / 0x10000 = 0 by omega]
    exact if_neg (by omega)

/-- A write that meets no byte of BOOT_MBOX_DATA leaves the window (R407). -/
theorem writeMboxWindow_outside {off : Nat} {data : List Byte} (h : off + data.length ≤ 0x98000 ∨ 0xA0000 ≤ off) :
    writeMboxWindow s off data = s := by
  simp only [writeMboxWindow]
  split
  · rfl
  · have hmiss : ∀ e ∈ (natsFrom off data.length).zip data, ¬(0x098000 ≤ e.1 ∧ e.1 < 0x0A0000) := fun e he => by
      have := mem_natsFrom.mp (List.of_mem_zip (a := e.1) (b := e.2) he).1
      omega
    rw [foldl_of_fixed fun e he => if_neg (hmiss e he)]

/-- Settles O29: requests past the aperture, and BAR0 writes before READY. -/
theorem accessBeforeReadyDoesNothing : Obligations.AccessBeforeReadyDoesNothing := by
  refine ⟨fun a n bs s hl => ⟨fun hn hb => ?read, fun hn hb => ?write, fun hr => ?ready⟩, fun off bs s hn hl ho hr hs hout => ?bar0⟩
  case read => show execBar2Read a n s = _; simp only [execBar2Read, hn, hl, hb, Bool.not_true, Bool.not_false, Bool.false_eq_true, if_false, if_true]
  case write => show execBar2Write a bs s = _; simp only [execBar2Write, hn, hl, hb, Bool.not_true, Bool.not_false, Bool.false_eq_true, if_false, if_true]
  case ready => simp only [inBar2, hr, Bool.false_and]
  case bar0 =>
    have hkeep : writeBar0 s off.toNat bs = s := by
      rw [writeBar0, writeMboxWindow_outside (by omega)]
      refine foldl_of_fixed fun e he => ?_
      obtain ⟨hlo, hhi⟩ := wholeRegs_inside he
      rw [writeReg_early e.2 hr hs (by omega), ite_self]
    show execRegisterWrite (.bar0 off) bs s = _
    simp only [execRegisterWrite, hn, hl, ho, hkeep, Bool.not_true, decide_false, Bool.or_self, Bool.false_eq_true, if_false, ite_self]

-- Accesses over a service path

/-- A region behind whose path nothing waits has nothing to settle. -/
theorem settlePath_of_free {c : Nat} (h : pathFree s c = true) : settlePath s c = s := by
  simp only [pathFree, Bool.and_eq_true, List.isEmpty_iff] at h
  simp only [settlePath, h.1, List.length_nil, drainPath]

/-- A free path serves an access at once (R185). -/
theorem acceptReq_of_free {c : Nat} {q : PathReq} (h : pathFree s c = true) : acceptReq s c q = serveReq s c q := by
  simp only [acceptReq, settlePath_of_free h, h, if_true]

/-- An address of a slot's data reaches the slot's region. -/
theorem regionOfDpa_data {a c off : Nat} (h : placeOf a = .dram c off) : regionOfDpa a = some c := by
  simp only [regionOfDpa, h]

/-- Settles O30: a read of error-free data of one slot. -/
theorem bar2ReadsDram : Obligations.Bar2ReadsDram := by
  intro a n c off s hl hn hb hd hf hlost hm
  have hn1 : 1 ≤ n := (decide_eq_true_eq.mp hn).1
  obtain ⟨hp, hpieces, ha⟩ := piecesOf_inDram a.toNat n c off hd hn1
  have hread : dpaRead s a.toNat n = (s, .ok (rdBytes s.mem a.toNat n)) := by
    simp only [dpaRead, hpieces, readPieces, readPiece_data s a.toNat c off n hp, readDram_clean s c off n hlost hm, List.append_nil, ← ha]
  show execBar2Read a n s = _
  simp only [execBar2Read, hn, hl, hb, Bool.not_true, Bool.false_eq_true, if_false, regionOfDpa_data hp, acceptReq_of_free hf,
    serveReq, bar2ReadNow, hread]

-- Writes of tier memory without an error

/-- No word of tier memory is in error, and no page stale. -/
structure ErrorFree (s : State) : Prop where
  dram : s.err.dram = []
  synd : s.err.synd = []
  stale : s.err.stale = []

/-- Without an error every word is clean. -/
theorem ErrorFree.wordSay (h : ErrorFree s) (w : Nat) : wordSay s w = .clean := by
  simp only [Machine.wordSay, wordFlips, h.dram, mget, mget?, Option.getD_none, if_true]

/-- Without an error a read delivers the data that stand for the word. -/
theorem ErrorFree.readOff (h : ErrorFree s) (w : Nat) : readOff s w = 0#512 := by simp only [Machine.readOff, h.wordSay]

/-- Without an error no marks go. -/
theorem ErrorFree.clearDramMarks (h : ErrorFree s) (lo hi : Nat) : clearDramMarks s lo hi = s := by
  obtain ⟨hd, -, -⟩ := h
  simp only [Machine.clearDramMarks, hd, List.filter_nil]
  rw [← hd]

/-- Without an error the words of a page that are in error are none. -/
theorem ErrorFree.flipped (h : ErrorFree s) (key : Nat) : flipped s key = [] := by
  simp only [Machine.flipped, h.dram, List.filter_nil, List.map_nil]

/-- Zero syndromes are not listed. -/
theorem ErrorFree.setSynd (h : ErrorFree s) (key : Nat) : mset s.err.synd key (0#512, 0#512) (0#512, 0#512) = s.err.synd := by
  simp only [h.synd, mset, if_true, mdel]

/-- Without an error the parity of a page stands as it is. -/
theorem ErrorFree.parityFresh (h : ErrorFree s) (key : Nat) : parityFresh s key = s := by
  simp only [Machine.parityFresh, residSynd, h.flipped, List.foldl_nil, h.setSynd]

/-- Without an error a parity delta leaves no syndrome. -/
theorem ErrorFree.absorb (h : ErrorFree s) (key lo hi : Nat) : absorb s key lo hi = s := by
  have hp : pageSynd s key = (0#512, 0#512) := by simp only [pageSynd, h.synd, mget, mget?, Option.getD_none]
  simp only [Machine.absorb, h.flipped, List.filter_nil, List.foldl_nil, hp, h.setSynd]

/-- No page is stale, so none becomes fresh. -/
theorem ErrorFree.setStale (h : ErrorFree s) (key : Nat) : setStale s key false = s := by
  obtain ⟨-, -, hs⟩ := h
  simp only [Machine.setStale, hs, Bool.false_eq_true, if_false, List.filter_nil]
  rw [← hs]

/-- Without an error a write of a page's part leaves the codes (R169). -/
theorem ErrorFree.dramWritePage (h : ErrorFree s) (c a n : Nat) : dramWritePage s c a n = s := by
  have hstale : isStale s (pageKey c a) = false := by simp only [isStale, h.stale, List.contains_nil]
  have hbad : pageUes s (pageKey c a) = [] := by simp only [pageUes, h.flipped, List.filter_nil]
  simp only [Machine.dramWritePage, h.clearDramMarks, h.parityFresh, h.setStale, hstale, hbad, List.filter_nil, List.find?_nil,
    List.isEmpty_nil, h.absorb, Bool.false_eq_true, ite_self]

/-- Without an error a write stores its bytes and nothing else (R169). -/
theorem ErrorFree.dramWrite (h : ErrorFree s) (c off : Nat) (bs : List Byte) :
    dramWrite s c off bs = ({ s with mem := wrBytes s.mem (dramDpa c off) bs }, none) := by
  have hpart : dramPartialFails s c off bs.length = none := by
    simp [dramPartialFails, h.wordSay]
  have hmend : ∀ o m, mendWord s c o m = m := fun o m => by simp only [mendWord, h.readOff, or_true, if_true]
  have hfold : ∀ ps : List (Nat × Nat), ps.foldl (fun st p => Machine.dramWritePage st c p.1 p.2) s = s :=
    fun _ => foldl_of_fixed fun p _ => h.dramWritePage c p.1 p.2
  simp only [Machine.dramWrite, hpart, hmend, hfold]

/-- Settles O31: a write of error-free data of one slot in a region at rest. -/
theorem bar2WritesDram : Obligations.Bar2WritesDram := by
  intro a c off bs s hl hn hb hd he1 he2 he3 hg hf
  have herr : ErrorFree s := ⟨he1, he2, he3⟩
  have hn1 : 1 ≤ bs.length := (decide_eq_true_eq.mp hn).1
  obtain ⟨hp, hpieces, ha⟩ := piecesOf_inDram a.toNat bs.length c off hd hn1
  have hwrite : dpaWrite s a.toNat bs = .done { s with mem := wrBytes s.mem a.toNat bs } := by
    simp only [dpaWrite, hpieces, writePieces, writePiece, hp, List.take_length, writeDram, busyIn, hg, Bool.false_eq_true, if_false,
      herr.dramWrite, ← ha]
  refine ⟨bar2Out { s with mem := wrBytes s.mem a.toNat bs } none none, ?_, rdBytes_wrBytes_same _ _ _,
    fun x hx => rdByte_wrBytes_ne _ _ _ _ hx, rfl, rfl, rfl, rfl, rfl, rfl, rfl, rfl, rfl, rfl, rfl⟩
  show execBar2Write a bs s = _
  simp only [execBar2Write, hn, hl, hb, Bool.not_true, Bool.false_eq_true, if_false, regionOfDpa_data hp, acceptReq_of_free hf,
    serveReq, bar2WriteNow, hwrite]

end Sys2Proof.Machine
end

section
/-! PROOFS. Near-bank units and region modes (07_near_bank_units.md, 12_power.md). -/

namespace Sys2Proof.Machine

variable {s t : State}

-- Writes of the command window

/-- A window write that is done, over the chimney or a free path. -/
theorem windowRow_done {c n line : Nat} {l : Line} {via : Path} (hv : via = .chimney ∨ pathFree s c = true)
    (hw : windowWrite s c n line l via = .done t) : windowRow s c n line l via = .next t := by
  cases via with
  | chimney => simp only [windowRow, hw]
  | service =>
    rcases hv with hv | hv
    · cases hv
    · simp only [windowRow, acceptReq_of_free hv, serveReq, windowNow, hw]

/-- A region outside COMPUTE refuses a window write of a free service path (R31, R199). -/
theorem windowRow_refused (n line : Nat) (l : Line) {c : Nat} (hm : (s.regionAt c).mode ≠ .compute) (hf : pathFree s c = true) :
    windowRow s c n line l .service = .next (serviceFail s c n .stateConflict) := by
  simp only [windowRow, acceptReq_of_free hf, serveReq, windowNow, windowWrite, ne_eq, hm, not_false_eq_true, if_true]

/-- A COMMAND line queues a command. -/
theorem windowWrite_command {c n line : Nat} (l : Line) (via : Path) (hm : (s.regionAt c).mode = .compute) (h : line < 256) :
    windowWrite s c n line l via = enqueueCmd s c n l via := by
  rw [windowWrite, if_neg (not_not_intro hm), if_pos h]

/-- A QUERY line writes its line of its slot. -/
theorem windowWrite_query {c n : Nat} (slot : Fin 4) (line : Fin 18) (l : Line) (via : Path) (hm : (s.regionAt c).mode = .compute) :
    windowWrite s c n (256 + 18 * slot.val + line.val) l via = writeQuery s c n slot.val line.val l := by
  rw [windowWrite, if_neg (not_not_intro hm), if_neg (by omega), if_pos (by omega),
    show (256 + 18 * slot.val + line.val - 256) / 18 = slot.val by omega,
    show (256 + 18 * slot.val + line.val - 256) % 18 = line.val by omega]

/-- A QUERY_ALL line writes it in every NBU. -/
theorem windowWrite_queryAll {c n : Nat} (slot : Fin 4) (line : Fin 18) (l : Line) (via : Path)
    (hm : (s.regionAt c).mode = .compute) :
    windowWrite s c n (512 + 18 * slot.val + line.val) l via = writeQueryAll s c slot.val line.val l := by
  rw [windowWrite, if_neg (not_not_intro hm), if_neg (by omega), if_neg (by omega), if_pos (by omega),
    show (512 + 18 * slot.val + line.val - 512) / 18 = slot.val by omega,
    show (512 + 18 * slot.val + line.val - 512) % 18 = line.val by omega]

/-- The REGION_PARAM line writes CHK_BASE. -/
theorem windowWrite_param {c n : Nat} (l : Line) (via : Path) (hm : (s.regionAt c).mode = .compute) :
    windowWrite s c n 1024 l via = writeParam s c l := by
  rw [windowWrite, if_neg (not_not_intro hm), if_neg (by omega), if_neg (by omega), if_neg (by omega), if_pos rfl]

/-- Settles O32: window writes in COMPUTE, and their refusal elsewhere. -/
theorem windowWrites : Obligations.WindowWrites :=
  ⟨fun _ _ l via _ _ hm hv =>
    ⟨fun line hw => windowRow_done hv ((windowWrite_command l via hm line.isLt).trans hw),
     fun slot line hw => windowRow_done hv ((windowWrite_query slot line l via hm).trans hw),
     fun slot line hw => windowRow_done hv ((windowWrite_queryAll slot line l via hm).trans hw),
     fun hw => windowRow_done hv ((windowWrite_param l via hm).trans hw)⟩,
   fun _ n l _ _ _ hm hf => ⟨fun _ => windowRow_refused n.val _ l hm hf, windowRow_refused n.val _ l hm hf, windowRow_refused 0 _ l hm hf,
     windowRow_refused 0 _ l hm hf⟩⟩

-- Results and commands

/-- Settles O33: a full queue's time-out, reads that consume, and a fold. -/
theorem resultsAreRead : Obligations.ResultsAreRead := by
  refine ⟨fun c n q s hq => ?timeout, fun c n s hm => if_neg hm, fun c g s hm => if_neg hm, fun c g s hp hb => ?fold⟩
  case timeout => show execNbuQueueFullTimeout c n s = _; simp only [execNbuQueueFullTimeout, hq]
  case fold =>
    show execGroupFold c g s = _
    simp only [execGroupFold, hp, hb, Bool.not_true, Bool.or_self, Bool.false_eq_true, if_false]

/-- Settles O34: the start, the end and a yield of an NBU's command. -/
theorem commandsStartAndComplete : Obligations.CommandsStartAndComplete := by
  refine ⟨fun c n s q qs hq hm => ?start, fun c n s run hr hc hg => ?complete, fun c n s hr => if_pos hr⟩
  case start =>
    show execNbuCommandStart c n s = _
    simp only [execNbuCommandStart, hq, hm, Bool.not_true, Bool.false_eq_true, if_false]
  case complete =>
    have hround : (cmdMerge run.cmd.cmd && (mget (s.regionAt c.val).groups (cmdGroup run.cmd.cmd) MGroup.empty).pendingFold &&
        !run.inRound) = false := by
      rcases hg with h | h | h <;> rw [h]
      · rfl
      · exact Bool.and_false _
      · rw [Bool.and_false, Bool.false_and]
    refine ⟨fun hw => ?_, fun hw => ?_⟩
    · show execNbuCommandComplete c n s = _
      simp only [execNbuCommandComplete, hr, hc, hround, Bool.not_true, Bool.or_self, Bool.false_eq_true, if_false]
      exact if_pos hw
    · show execNbuCommandComplete c n s = _
      simp only [execNbuCommandComplete, hr, hc, hround, Bool.not_true, Bool.or_self, Bool.false_eq_true, if_false]
      exact if_neg (Bool.eq_false_iff.mp hw)

/-- A running command that has not computed runs the operation of its opcode. -/
theorem runNbu_computes {c n op : Nat} {run : NbuRun} (f : State → Nat → Nat → NbuRun → State × NbuOut)
    (hr : (s.nbuAt c n).running = some run) (hc : run.computed = false) (ho : cmdOp run.cmd.cmd = op) :
    runNbu s c n op f = .next ((f s c n run).1.modNbu c n fun u => { u with running := some (run.take (f s c n run).2) }) := by
  simp only [runNbu, hr, ho, hc, ne_eq, not_true, decide_false, Bool.or_self, Bool.false_eq_true, if_false]

/-- Settles O35: each operation runs its own function once. -/
theorem commandsCompute : Obligations.CommandsCompute := fun _ _ _ _ hr hc =>
  ⟨runNbu_computes _ hr hc, runNbu_computes _ hr hc, runNbu_computes _ hr hc, runNbu_computes _ hr hc, runNbu_computes _ hr hc,
   runNbu_computes _ hr hc, runNbu_computes _ hr hc, runNbu_computes _ hr hc, runNbu_computes _ hr hc, runNbu_computes _ hr hc,
   fun ho hw => (if_neg (Bool.eq_false_iff.mp hw)).trans (runNbu_computes _ hr hc ho)⟩

-- Region modes

/-- The descriptor of a request that takes effect at once: nothing refuses it, and no request is ahead of it. -/
theorem regionModeEff_now {ch : Nat} {d : Line} (hm : descMode d ≤ 2) (hr : modeRefused s (descCore d) (descMode d) = false)
    (hq : (s.regionAt (descCore d)).modeReqs = []) (hd : decideMode s (descCore d) (descMode d) = .now t .ok) :
    regionModeEff s ⟨ch, false⟩ d = Eff.done t := by
  have hn : ¬descMode d > 2 := by omega
  simp only [regionModeEff, hn, if_false, hr, Bool.false_and, Bool.or_self, Bool.false_eq_true, requestMode, hq, List.isEmpty_nil,
    Bool.not_true, hd]

/-- The descriptor of a request that the region's state does not accept (R199). -/
theorem regionModeEff_conflict {ch : Nat} {d : Line} (hm : descMode d ≤ 2) (hr : modeRefused s (descCore d) (descMode d) = false)
    (hq : (s.regionAt (descCore d)).modeReqs = []) (hd : decideMode s (descCore d) (descMode d) = .now t .stateConflict) :
    regionModeEff s ⟨ch, false⟩ d = .fail t .stateConflict (coreUnit s (descCore d) 80) 0 := by
  have hn : ¬descMode d > 2 := by omega
  simp only [regionModeEff, hn, if_false, hr, Bool.false_and, Bool.or_self, Bool.false_eq_true, requestMode, hq, List.isEmpty_nil,
    Bool.not_true, hd]

/-- The descriptor of a request that waits for its admission (R340). -/
theorem regionModeEff_admission {ch : Nat} {d : Line} (hm : descMode d ≤ 2) (hr : modeRefused s (descCore d) (descMode d) = false)
    (hq : (s.regionAt (descCore d)).modeReqs = []) (hd : decideMode s (descCore d) (descMode d) = .admission t) :
    regionModeEff s ⟨ch, false⟩ d =
      .run (t.modRegion (descCore d) fun r => { r with modeReqs := [⟨some ch, descMode d, false⟩] }) 0 := by
  have hn : ¬descMode d > 2 := by omega
  simp only [regionModeEff, hn, if_false, hr, Bool.false_and, Bool.or_self, Bool.false_eq_true, requestMode, hq, List.isEmpty_nil,
    Bool.not_true, hd]

/-- The descriptor of a request that is refused (R151, R200). -/
theorem regionModeEff_refused {ch : Nat} {d : Line} (hm : descMode d ≤ 2) (hr : modeRefused s (descCore d) (descMode d) = true) :
    regionModeEff s ⟨ch, false⟩ d = .fail s .stateConflict (coreUnit s (descCore d) 80) 0 := by
  have hn : ¬descMode d > 2 := by omega
  simp only [regionModeEff, hn, if_false, hr, Bool.true_or, if_true]

/-- What a region becomes that returns to NORMAL by a request: its groups and what its NBUs hold are dropped (R199, R223). -/
def Region.returned (r : Region) : Region :=
  { r with
    mode := .normal, groups := [],
    nbus := mall r.nbus Nbu.empty fun u => { u with
      results := [], slots := [], arms := [], partials := [],
      discarded := BitVec.ofNat 16 (satAdd 16 u.discarded.toNat u.results.length) } }

/-- NORMAL of an idle region takes effect at once (R199). -/
theorem decideMode_normal {c : Nat} (hm : (s.regionAt c).mode ≠ .normal) (hw : (s.regionAt c).working = false) :
    decideMode s c 0 = .now (s.modRegion c Region.returned) .ok := by
  cases h : (s.regionAt c).mode with
  | normal => exact absurd h hm
  | compute | drain => simp only [decideMode, h, RMode.code, if_false, hw, Bool.false_eq_true]; rfl

/-- NORMAL of a region with work is refused (R199). -/
theorem decideMode_working {c : Nat} (hm : (s.regionAt c).mode ≠ .normal) (hw : (s.regionAt c).working = true) :
    decideMode s c 0 = .now s .stateConflict := by
  cases h : (s.regionAt c).mode with
  | normal => exact absurd h hm
  | compute | drain => simp only [decideMode, h, RMode.code, hw, if_true]; exact if_neg (by decide)

/-- Settles O36: what a mode request leads to, by descriptor and by NBC, and an admission of a region. -/
theorem regionModesChange : Obligations.RegionModesChange := by
  refine ⟨fun ch i d s h => ⟨fun hr hq => ⟨fun hd hm => ?admission, fun hd hm => ?compute, fun hd hm => ?drain, fun hd hm => ?same,
      fun hd hm hw => ?normal, fun hd hm hw => ?working⟩, fun hr => ⟨fun hd => ?toNormal, fun hd => ?toCompute, fun hd => ?toDrain⟩⟩,
    fun c s mode row hrow hs => ?nbc, fun t amps s a ha => ⟨fun hroom => ?grant, fun hshort => ?short⟩⟩
  case admission =>
    refine row_run h (decide_eq_true hd) ((regionModeEff_admission (by omega) hr hq ?_).trans (by rw [hd]))
    simp [hd, decideMode, hm, RMode.code]
  case compute =>
    refine row_ok h (decide_eq_true hd) (regionModeEff_now (by omega) hr hq ?_)
    simp [hd, decideMode, hm, RMode.code]
  case drain =>
    refine row_ok h (decide_eq_true hd) (regionModeEff_now (by omega) hr hq ?_)
    simp [hd, decideMode, hm, RMode.code]
  case same =>
    refine row_ok h (decide_eq_true hd) (regionModeEff_now (by omega) hr hq ?_)
    simp [hd, decideMode, hm, RMode.code]
  case normal =>
    refine ⟨s.modRegion (descCore d) Region.returned, row_ok h (decide_eq_true hd) (regionModeEff_now (by omega) hr hq ?_), ?_, ?_, rfl⟩
    · rw [hd, decideMode_normal hm hw]
    · rw [State.regionAt_modRegion]; rfl
    · rw [State.regionAt_modRegion]; rfl
  case working =>
    refine row_fail h (decide_eq_true hd) (regionModeEff_conflict (by omega) hr hq ?_)
    rw [hd, decideMode_working hm hw]
  case toNormal => exact row_fail h (decide_eq_true hd) (regionModeEff_refused (by omega) hr)
  case toCompute => exact row_fail h (decide_eq_true hd) (regionModeEff_refused (by omega) hr)
  case toDrain => exact row_fail h (decide_eq_true hd) (regionModeEff_refused (by omega) hr)
  case nbc =>
    rcases hrow with ⟨rfl, rfl⟩ | ⟨rfl, rfl⟩ | ⟨rfl, rfl⟩ <;> exact exec_of_canStart rfl hs
  case grant =>
    show execNbuAdmission t amps s = _
    simp only [execNbuAdmission, ha, hroom, if_true]
  case short =>
    show execNbuAdmission t amps s = _
    simp only [execNbuAdmission, ha, Nat.not_le_of_lt hshort, if_false]

end Sys2Proof.Machine
end

section
/-! PROOFS. Eviction, batches, scanning, arriving descriptors and DEV_SCRATCH (08_attention_and_kv_cache.md, 09_host_channels.md,
17_setup_registers.md). -/

namespace Sys2Proof.Machine

variable {s t : State}

-- The cache

/-- The bucket of a length between two powers of two (R246). -/
theorem bucketOf_of_range {n k : Nat} (h1 : 2 ^ k ≤ n) (h2 : n < 2 ^ (k + 1)) : bucketOf n = min 15 (k - 5) := by
  have hn : n ≠ 0 := Nat.ne_of_gt (Nat.lt_of_lt_of_le (Nat.two_pow_pos k) h1)
  rw [bucketOf, (Nat.log2_eq_iff hn).mpr ⟨h1, h2⟩]

/-- Settles O37: protection with one shard, and the buckets. -/
theorem protectionAndBuckets : Obligations.ProtectionAndBuckets := by
  refine ⟨fun all e => ?young, fun n h1 h2 => ⟨fun h => ?short, fun b hb1 hb2 hlo hhi => ?middle, fun h => ?long⟩⟩
  case young =>
    have hall : cdiv 32 (max 1 1) = 32 := rfl
    simp only [protectedPage, hall, higherSeq, Bool.or_eq_true, decide_eq_true_eq]
  case short =>
    have hlog : n.log2 < 6 := (Nat.log2_lt (by omega)).mpr (by omega)
    simp only [bucketOf]; omega
  case middle => rw [bucketOf_of_range hlo hhi]; omega
  case long => subst h; exact bucketOf_of_range (k := 20) (by decide) (by decide)

/-- Settles O38: the answers of the eviction and of the batch former. -/
theorem batchesForm : Obligations.BatchesForm := by
  refine ⟨fun s o rest cx v ho hc hp => ?evict, fun p s b g hr hf => ⟨fun hw => ?none, fun q qs hw => ?decode⟩,
    fun p s b g hr hf => ⟨fun hw => ?empty, fun q hw => ?prefill⟩, fun p s b g v x hr hp hx => ?ends⟩
  case evict =>
    show execEvictionSelection s = _
    simp only [State.part?] at hp
    simp only [execEvictionSelection, ho, hc, State.part?, hp]
  case none =>
    show execBatchDecode p s = _
    simp only [execBatchDecode, hr, hf, Bool.false_eq_true, if_false, hw]
  case decode =>
    show execBatchDecode p s = _
    simp only [execBatchDecode, hr, hf, Bool.false_eq_true, if_false, hw]
  case empty =>
    show execBatchPrefill p s = _
    simp only [execBatchPrefill, hr, hf, Bool.false_eq_true, if_false, hw]
  case prefill =>
    show execBatchPrefill p s = _
    simp only [execBatchPrefill, hr, hf, Bool.false_eq_true, if_false, hw]
  case ends => show execBatchDone p s = _; simp only [execBatchDone, hr, hp, hx]

-- Scanning and reads of host memory

/-- A failing read under way that is not of a member as it arrives. -/
theorem readFailure_fails {what : HostRead} (st : Status) (hr : readsNow s what = true) (h : ∀ ch, what ≠ .data ch true) :
    readFailure what st s = hostReadFails (if st = .timeout then noteTimeout s else s) what st := by
  simp only [readFailure, hr, Bool.not_true, Bool.false_eq_true, if_false]

/-- A failing read of a member as it arrives. -/
theorem readFailure_arriving {ch : ChanId} (st : Status) (hr : readsNow s (.data ch true) = true) :
    readFailure (.data ch true) st s = failArriving (if st = .timeout then noteTimeout s else s) ch.val st := by
  simp only [readFailure, hr, Bool.not_true, Bool.false_eq_true, if_false]

/-- Settles O39: the scanner's switch, failing reads, and the end of a hold-off. -/
theorem scanningAndHostReads : Obligations.ScanningAndHostReads := by
  refine ⟨⟨fun ok s hr he ho => ?set, fun s hr => ?clear, fun s => rfl, fun s => rfl, fun s hs hm => ?scan⟩,
    fun what err s hr => ⟨fun h => ⟨congrArg _ (readFailure_fails .timeout hr h), congrArg _ (readFailure_fails .addrFault hr h)⟩,
      fun ch h => ?arriving⟩, fun ch s hh => ⟨fun hi => ?held, fun hi => ?free⟩⟩
  case set =>
    have hw : wholeMap s = true := by rw [wholeMap, hr, Bool.true_or]
    show execScanEnSet ok s = _
    simp only [execScanEnSet, setScanEn, hw, he, ho, Bool.not_true, Bool.or_self, Bool.false_eq_true, if_false, if_true]
  case clear =>
    have hw : wholeMap s = true := by rw [wholeMap, hr, Bool.true_or]
    show execScanEnClear s = _
    simp only [execScanEnClear, clearScanEn, hw, if_true]
  case scan =>
    show execDoorbellScan s = _
    simp only [execDoorbellScan, hs, hm, Bool.and_self, if_true]
  case arriving =>
    subst h
    exact ⟨congrArg _ (readFailure_arriving .timeout hr), congrArg _ (readFailure_arriving .addrFault hr)⟩
  case held =>
    show execInterruptHoldoffExpiry ch s = _
    simp only [execInterruptHoldoffExpiry, hh, hi, Bool.not_true, Bool.false_eq_true, if_false, if_true]
  case free =>
    show execInterruptHoldoffExpiry ch s = _
    simp only [execInterruptHoldoffExpiry, hh, hi, Bool.not_true, Bool.false_eq_true, if_false]

/-- Settles O40: a descriptor that arrives, and a group that is admitted or times out. -/
theorem descriptorsArrive : Obligations.DescriptorsArrive := by
  refine ⟨fun ch s d rest hraw ht hw => ⟨fun hd => ?wrong, fun hd hg => ?alone, fun g hd hg => ?member⟩,
    fun ch s g hg => ⟨fun hw hs => ?admitted, fun he hn => ?timeout⟩⟩
  case wrong =>
    show execDescriptorArrival ch s = _
    simp only [execDescriptorArrival, hraw, ht, hw, Bool.not_true, Bool.or_self, Bool.false_eq_true, if_false, ne_eq, hd,
      not_false_eq_true, if_true]
  case alone =>
    show execDescriptorArrival ch s = _
    simp only [execDescriptorArrival, hraw, ht, hw, Bool.not_true, Bool.or_self, Bool.false_eq_true, if_false, ne_eq, hd,
      not_true, hg]
  case member =>
    show execDescriptorArrival ch s = _
    simp only [execDescriptorArrival, hraw, ht, hw, Bool.not_true, Bool.or_self, Bool.false_eq_true, if_false, ne_eq, hd,
      not_true, hg]
  case admitted =>
    have hfree : decide (stagedGroups s ≥ 16) = false := decide_eq_false (by omega)
    show execGroupAdmission ch s = _
    simp only [execGroupAdmission, hg, hw, hfree, Bool.not_true, Bool.or_self, Bool.false_eq_true, if_false]
  case timeout =>
    show execGroupTimeout ch s = _
    simp only [execGroupTimeout, hg, he, hn, Option.isSome_none, Bool.or_self, Bool.false_eq_true, if_false]

-- DEV_SCRATCH

/-- A notice leaves the device's own registers. -/
theorem postNotice_dev (s : State) (unit : W32) (kind value : Nat) : (postNotice s unit kind value).dev = s.dev :=
  (postNotice_stays (.refl _ s) (.refl _)).frame .dev (by decide)

/-- A change of the device's state leaves DEV_SCRATCH. -/
theorem setDevState_scratch (s : State) (d : DevState) : (setDevState s d).dev.scratch = s.dev.scratch := by
  unfold setDevState
  split
  · rfl
  · rw [postNotice_dev]

/-- What the end of partitions, channels and links changes at the begin of a warm reset: not the device's own registers. -/
def unreset : List Field :=
  [.free, .mem, .hostMem, .err, .hst, .clk, .time, .pwr, .ras, .lnk, .memc, .weevil, .core, .stream, .linkCorr, .routes, .region,
   .part, .bars, .snaps, .kv]

/-- The begin of a warm reset leaves it (R449). -/
theorem beginWarmReset_scratch (s : State) (c : WarmCause) : (beginWarmReset s c).dev.scratch = s.dev.scratch := by
  have hstop : (warmRegs (portsDown (endChannels (endPartitions ((natsFrom 0 8).foldl
      (fun st t => (stopClock st t).modClk t fun k => { k with target := none, toBypass := false }) s))))).dev = s.dev :=
    (warmRegs_stays (portsDown_stays (endChannels_stays (endPartitions_stays (L := unreset)
      (Stays.foldl _ (fun _ _ h => modClk_stays (stopClock_stays h ⟨by decide⟩) ⟨by decide⟩) (.refl _ s)) ⟨by decide⟩)
      ⟨by decide⟩) ⟨by decide⟩) ⟨by decide⟩).frame .dev (by decide)
  have hclocks : ∀ u : State, (warmClocks u).dev = u.dev :=
    fun u => (warmClocks_stays (.refl _ u) (.refl _)).frame .dev (by decide)
  have hboot : ∀ u : State, (warmBoot u).dev = u.dev := fun _ => rfl
  simp only [beginWarmReset, hclocks, setDevState_scratch, hboot]
  exact congrArg Dev.scratch hstop

/-- Settles O41: reads and writes of DEV_SCRATCH, and what a reset and the loss of power leave of it. -/
theorem scratchRegister : Obligations.ScratchRegister := by
  refine ⟨rfl, fun s hr ho => ?read, fun bs s hb hl hd hr ho => ?write, beginWarmReset_scratch, fun s => rfl⟩
  case read =>
    have hw : wholeMap s = true := by rw [wholeMap, hr, Bool.true_or]
    rw [readReg, if_neg ho, hw]; rfl
  case write =>
    have hw : wholeMap s = true := by rw [wholeMap, hr, Bool.true_or]
    have hok : regWriteOk bs = true := by simp only [regWriteOk, hb]; rfl
    show execRegisterWrite (.bar0 0x10) bs s = _
    simp only [execRegisterWrite, hok, hl, ho, hd, Bool.not_true, decide_false, Bool.or_self, Bool.false_eq_true, if_false]
    have hregs : wholeRegs 0x10 bs = [(0x10, BitVec.ofNat 64 (leNat (fun i => bs.getD i 0#8) 0 8))] := by
      simp only [wholeRegs, hb]; rfl
    have hbar : writeBar0 s 0x10 bs = writeReg s 0x10 (BitVec.ofNat 64 (leNat (fun i => bs.getD i 0#8) 0 8)) := by
      rw [writeBar0, writeMboxWindow_outside (by omega), hregs, List.foldl_cons, List.foldl_nil]
      exact if_pos (by omega)
    refine congrArg _ (hbar.trans ?_)
    simp only [writeReg, hw, Bool.true_or, Bool.not_true, Bool.false_eq_true, if_false]
    rfl

end Sys2Proof.Machine
end

section
/-! PROOFS. Muold ports and balancing across devices (10_muold_links.md, 12_power.md). -/

namespace Sys2Proof.Machine

variable {s t : State}

-- Training

/-- Settles O42: the steps of training, identity and retrains. -/
theorem portsTrainAndAlign : Obligations.PortsTrainAndAlign := by
  refine ⟨fun p s => ⟨fun lanes hs hl => ?seen, fun lanes hs hl => ?unseen, fun good fine hs => ⟨fun ho => ?good, fun ho => ?bad⟩,
      fun ht => if_pos ht, fun hs hr hd => ?retry⟩,
    fun p s => ⟨fun pg pf pm peer hs => ⟨fun hw => ?aligned, fun hw => ?apart⟩, fun peer hl hi => ?ident, fun hl => if_pos hl,
      fun _ hl => if_pos hl, fun w hr hd => ?register⟩⟩
  case seen => show execPortDetect p lanes s = _; simp only [execPortDetect, hs, ne_eq, not_true, if_false, hl]
  case unseen => show execPortDetect p lanes s = _; simp only [execPortDetect, hs, ne_eq, not_true, if_false, hl, if_true]
  case good => show execPortEq p good fine s = _; simp only [execPortEq, hs, ne_eq, not_true, if_false, ho]
  case bad => show execPortEq p good fine s = _; simp only [execPortEq, hs, ne_eq, not_true, if_false, ho, if_true]
  case retry =>
    show execPortDetectRetry p s = _
    simp only [execPortDetectRetry, hs, hr, ne_eq, hd, not_false_eq_true, decide_true, Bool.and_self, if_true]
  case aligned => show execPortAlign p pg pf pm peer s = _; simp only [execPortAlign, hs, ne_eq, not_true, if_false, hw]
  case apart => show execPortAlign p pg pf pm peer s = _; simp only [execPortAlign, hs, ne_eq, not_true, if_false, hw, if_true]
  case ident =>
    show execIdent p peer s = _
    simp only [execIdent, applyIdent, hl, hi, Bool.not_true, Bool.false_eq_true, if_false, if_true]
  case register =>
    show execLnkRetrain w s = _
    simp only [execLnkRetrain, writeRetrain, hr, hd, Bool.not_true, decide_false, Bool.or_self, Bool.false_eq_true, if_false]

-- Flits

/-- A port that carries traffic and has flits to acknowledge retrains at the time-out. -/
theorem execAckTimeout_retrains {p : PortId} (hc : carries (s.portAt (p.val + 1)) = true) (hr : (s.portAt (p.val + 1)).replay ≠ []) :
    execAckTimeout p s = .next (retrain s (p.val + 1)) := by
  have he : (s.portAt (p.val + 1)).replay.isEmpty = false := by rw [List.isEmpty_eq_false_iff]; exact hr
  simp only [execAckTimeout, hc, he, Bool.not_false, Bool.and_self, if_true]

/-- Settles O43: flits, acknowledgements, timers and TRAY_LOCK. -/
theorem flitsAreTaken : Obligations.FlitsAreTaken := by
  refine ⟨fun p s hc => ⟨fun header payload code h w fec hu => ?flit, fun ack => if_pos hc, execAckTimeout_retrains hc⟩,
    fun p s => ⟨fun hu => ⟨fun _ => if_pos hu, fun _ => if_pos hu, fun _ => if_pos hu, fun _ _ _ => if_pos hu, fun _ _ => if_pos hu⟩,
      rfl, fun q ht hm => ?asks, fun ht hm => ?free, fun w hr hl hp => ⟨fun hw => ?same, fun hw => ?moved⟩⟩⟩
  case flit =>
    show execFlitReceived p header payload code s = _
    simp only [execFlitReceived, hc, hu, Bool.not_true, Bool.false_eq_true, if_false]
  case asks =>
    show execTimeExchangeTimer s = _
    simp only [execTimeExchangeTimer, ht, hm, Option.isSome_none, Bool.false_eq_true, if_false]
    rfl
  case free =>
    show execTimeExchangeTimer s = _
    simp only [execTimeExchangeTimer, ht, hm, Option.isSome_none, Bool.false_eq_true, if_false]
  case same =>
    have hm : wholeMap s = true := by rw [wholeMap, hr, Bool.true_or]
    show execTrayLock w s = _
    simp only [execTrayLock, writeIdentity, hm, hl, hp, hw, BitVec.ofNat_toNat, BitVec.setWidth_eq, Bool.not_true, Bool.or_self,
      Bool.false_eq_true, if_false, if_true]
  case moved =>
    have hm : wholeMap s = true := by rw [wholeMap, hr, Bool.true_or]
    have hne : BitVec.ofNat 9 (bits w 8 0) ≠ s.lnk.tray := fun h => hw (by
      rw [← h, BitVec.toNat_ofNat, Nat.mod_eq_of_lt]
      exact Nat.mod_lt _ (by decide))
    show execTrayLock w s = _
    simp only [execTrayLock, writeIdentity, hm, hl, hp, hne, Bool.not_true, Bool.or_self, Bool.false_eq_true, if_false]

-- Balancing

/-- Settles O44: reports, balances and assignments. -/
theorem powerIsBalanced : Obligations.PowerIsBalanced := by
  refine fun p s => ⟨fun shares hr hj => ?stopped, fun shares hj => ?reports, fun rep hu ht => ?recorded, fun job b hb => ?balance,
    fun asg hu => if_pos hu, fun hb => ?absent⟩
  case stopped =>
    show execSlackReport shares s = _
    simp only [execSlackReport, hr, List.foldl_nil, leaveJobs, hj, if_true, Bool.not_true, Bool.and_false, List.contains_nil,
      Bool.false_eq_true, if_false]
  case reports =>
    show execSlackReport shares s = _
    simp only [execSlackReport, leaveJobs, hj, Bool.false_eq_true, if_false, Bool.not_false, Bool.and_true]
  case recorded =>
    show execSlackReportReceived p rep s = _
    simp only [execSlackReportReceived, hu, ht, decide_true, Bool.and_self, if_true]
  case balance => show execBalancePeriod job s = _; simp only [execBalancePeriod, hb]
  case absent =>
    show execAssignTimeout s = _
    simp only [execAssignTimeout, hb, Bool.not_true, Bool.false_eq_true, if_false]

end Sys2Proof.Machine
end

section
/-! PROOFS. References, clock steps, global time, droops, regulators, admissions and the supply (11_clocks_and_time.md, 12_power.md,
16_package_and_lands.md). -/

namespace Sys2Proof.Machine

variable {s t : State}

-- References

/-- A reference is written alone: which one is active stays. -/
@[simp] theorem setRef_active (s : State) (r : Ref) (v : RefIn) : (s.setRef r v).clk.active = s.clk.active := by cases r <;> rfl
/-- So does the target of a switch, -/
@[simp] theorem setRef_switchTo (s : State) (r : Ref) (v : RefIn) : (s.setRef r v).clk.switchTo = s.clk.switchTo := by cases r <;> rfl
/-- the lock of the root PLL, -/
@[simp] theorem setRef_rootLocked (s : State) (r : Ref) (v : RefIn) : (s.setRef r v).clk.rootLocked = s.clk.rootLocked := by
  cases r <;> rfl
/-- its holdover, -/
@[simp] theorem setRef_holdover (s : State) (r : Ref) (v : RefIn) : (s.setRef r v).clk.holdover = s.clk.holdover := by cases r <;> rfl
/-- and the choice of automatic failover. -/
@[simp] theorem setRef_autoFailover (s : State) (r : Ref) (v : RefIn) : (s.setRef r v).clk.autoFailover = s.clk.autoFailover := by
  cases r <;> rfl

/-- A loss hits the root PLL when it is of the active reference, or of the target of a switch whose active one is lost (R330). -/
theorem losesRoot_setRef (s : State) (r : Ref) (v : RefIn) :
    losesRoot (s.setRef r v) r = true ↔
      (s.clk.active = r ∨ s.clk.switchTo = some r ∧ ((s.setRef r v).refAt s.clk.active).present = false) := by
  simp only [losesRoot, setRef_active, setRef_switchTo, Bool.or_eq_true, Bool.and_eq_true, decide_eq_true_eq, Bool.not_eq_true']

/-- Settles O45: what references do, and what enters SAFE for a clock. -/
theorem referencesSwitch : Obligations.ReferencesSwitch := by
  refine fun r s => ⟨fun hp => ?tolerance, ⟨fun hp hn => ?aside, fun hp hl hr hh => ?lost⟩, rfl, fun hp hh => ?ready,
    fun hp hh ha => ?taken, fun hr hs ho hne => ?request, fun ht hp => ?complete, fun hh => if_pos hh, fun hl => ?unlocked⟩
  case tolerance =>
    show execReferenceLoss ⟨r, .tolerance⟩ s = _
    simp only [execReferenceLoss, hp, Bool.not_true, Bool.false_eq_true, if_false]
  case aside =>
    show execReferenceLoss ⟨r, .edges⟩ s = _
    simp only [execReferenceLoss, hp, Bool.not_true, Bool.false_eq_true, if_false]
    refine if_neg fun h => ?_
    simp only [Bool.and_eq_true, losesRoot_setRef, setRef_rootLocked, setRef_holdover, Bool.not_eq_true'] at h
    obtain ⟨⟨hlost, hroot⟩, hhold⟩ := h
    rcases hn with hn | hn | hn
    · exact hn hlost
    · rw [hn] at hroot; cases hroot
    · rw [hn] at hhold; cases hhold
  case lost =>
    show execReferenceLoss ⟨r, .edges⟩ s = _
    simp only [execReferenceLoss, hp, Bool.not_true, Bool.false_eq_true, if_false, (losesRoot_setRef s r _).mpr hl,
      setRef_rootLocked, hr, setRef_holdover, hh, Bool.not_false, Bool.and_self, if_true]
  case ready =>
    show execReferenceReady ⟨r, .qualified⟩ s = _
    simp only [execReferenceReady, hp, Bool.not_true, setRef_holdover, hh, Bool.false_and, Bool.false_eq_true, if_false]
  case taken =>
    have hgo : (decide (s.clk.active = r) || s.clk.autoFailover) = true := by
      simp only [Bool.or_eq_true, decide_eq_true_eq]; exact ha
    show execReferenceReady ⟨r, .qualified⟩ s = _
    simp only [execReferenceReady, hp, Bool.not_true, Bool.false_eq_true, if_false, setRef_holdover, hh, setRef_active,
      setRef_autoFailover, hgo, Bool.and_self, if_true, startSwitch]
  case request =>
    show execReferenceSwitchRequest r s = _
    simp only [execReferenceSwitchRequest, requestSwitch, hr, hs, ho, hne, Bool.not_true, Bool.not_false, decide_false, decide_true,
      Bool.or_self, Bool.false_and, Bool.and_self, Bool.false_eq_true, if_false, if_true]
  case complete =>
    show execReferenceSwitchComplete s = _
    simp only [execReferenceSwitchComplete, ht, hp, if_true]
  case unlocked =>
    show execTimebaseLockLoss s = _
    simp only [execTimebaseLockLoss, hl, Bool.not_true, Bool.false_eq_true, if_false]

/-- Settles O46: steps of a tier's clock. -/
theorem clockStepsChange : Obligations.ClockStepsChange := by
  refine fun t s => ⟨fun step ht hs hl hc => ?request, fun step ht hs hd => ⟨fun hb => ?made, fun hb => ?bypass⟩,
    fun ht hb => ?withdrawn, fun w hr hs => ?cap⟩
  case request =>
    have hlo : decide (step.val < limitOf s t.val) = false := decide_eq_false (Nat.not_lt_of_le hl)
    have hhi : decide (step.val > 4) = false := decide_eq_false (by omega)
    show execFreqStepRequest t step s = _
    simp only [execFreqStepRequest, requestStep, ht, hs, hlo, hc, hhi, Option.isSome_none, decide_false, Bool.or_self,
      Bool.false_eq_true, if_false]
  case made =>
    show execFreqStepStop t s = _
    simp only [execFreqStepStop, ht, hs, hd, hb, Bool.not_true, Bool.or_self, Bool.false_eq_true, if_false]
  case bypass =>
    show execFreqStepStop t s = _
    simp only [execFreqStepStop, ht, hs, hd, hb, Bool.not_true, Bool.or_self, Bool.false_eq_true, if_false, if_true]
  case withdrawn =>
    have hn : (s.clkAt t.val).target.isNone = false := by rw [← Option.not_isSome, ht]; rfl
    show execFreqStepWithdraw t s = _
    simp only [execFreqStepWithdraw, withdrawStep, hn, hb, Bool.or_self, Bool.false_eq_true, if_false]
  case cap =>
    show execClkStepCapWrite w s = _
    simp only [execClkStepCapWrite, writeStepCap, hr, hs, Bool.not_true, decide_false, Bool.or_self, Bool.false_eq_true, if_false]

/-- Settles O47: pulses, misses and TIME_ADJ. -/
theorem globalTimeIsKept : Obligations.GlobalTimeIsKept := by
  refine fun s => ⟨fun reached hl hh hz => ?pulse, fun t => ⟨fun h3 => ?miss, fun h3 => ?fourth⟩, fun w hr hs hf => ?step,
    fun w hr hf => ?slew, fun w hr hs hf => ?ignored⟩
  case pulse =>
    show execFireflyPulse reached s = _
    simp only [execFireflyPulse, hl, hh, hz, ne_eq, not_true, decide_false, Bool.not_true, Bool.or_self, Bool.false_eq_true, if_false]
  case miss => exact if_neg (by omega)
  case fourth => exact if_pos (by omega)
  case step =>
    show execTimeAdjStep w s = _
    simp only [execTimeAdjStep, adjStep, hr, hs, hf, Bool.not_true, decide_false, Bool.or_self, Bool.false_eq_true, if_false]
  case slew =>
    have hm : wholeMap s = true := by rw [wholeMap, hr, Bool.true_or]
    show execTimeAdjSlew w s = _
    simp only [execTimeAdjSlew, adjSlew, hm, hf, Bool.not_true, Bool.false_eq_true, if_false]
  case ignored =>
    show execTimeAdjStep w s = _
    simp only [execTimeAdjStep, adjStep, hr, hs, hf, Bool.not_true, decide_false, Bool.or_self, Bool.false_eq_true, if_false, if_true]

-- Power

/-- Settles O48: droops, regions that go off, phases that fail and over-current. -/
theorem droopsAndRegulators : Obligations.DroopsAndRegulators := by
  refine ⟨fun t s => ⟨fun mv hl => if_neg hl, rfl, rfl, fun q hp hr hq => ?off, fun q hr => if_pos hr⟩,
    fun t phase s => ⟨?vct, fun hlt hnew => ⟨fun hn => ?vdl, fun hn => ?vdlRail⟩, fun hlt hnew => ⟨fun hn => ?vda, fun hn => ?vdaRail⟩,
      fun hf hb hl => ?current⟩⟩
  case off =>
    have hroute : (s.routes.any fun r => inQuad t.val q.val r.core) = false :=
      List.any_eq_false.mpr fun r h => by rw [hr r h]; exact Bool.false_ne_true
    have hcore : (s.part.any fun e => e.2.cores.any (inQuad t.val q.val)) = false :=
      List.any_eq_false.mpr fun e he => by
        rw [List.any_eq_false.mpr fun c hc => by rw [hp e he c hc]; exact Bool.false_ne_true]; exact Bool.false_ne_true
    show execPowerRegionOff t q s = _
    simp only [execPowerRegionOff, hroute, hcore, hq, ne_eq, not_true, decide_false, Bool.or_self, Bool.false_eq_true, if_false]
  case vct =>
    have hok : phaseOk .vct phase.val = true := decide_eq_true phase.isLt
    show execIvrPhaseFailure t .vct phase s = _
    simp only [execIvrPhaseFailure, hok, Bool.not_true, Bool.false_eq_true, if_false]
  case vdl =>
    have hok : phaseOk .vdl phase.val = true := decide_eq_true hlt
    show execIvrPhaseFailure t .vdl phase s = _
    simp only [execIvrPhaseFailure, hok, Bool.not_true, Bool.false_eq_true, if_false, hnew, hn, State.modPwr]
  case vdlRail =>
    have hok : phaseOk .vdl phase.val = true := decide_eq_true hlt
    show execIvrPhaseFailure t .vdl phase s = _
    simp only [execIvrPhaseFailure, hok, Bool.not_true, Bool.false_eq_true, if_false, hnew, hn, if_true, State.modPwr]
  case vda =>
    have hok : phaseOk .vda phase.val = true := decide_eq_true hlt
    show execIvrPhaseFailure t .vda phase s = _
    simp only [execIvrPhaseFailure, hok, Bool.not_true, Bool.false_eq_true, if_false, hnew, hn, State.modPwr]
  case vdaRail =>
    have hok : phaseOk .vda phase.val = true := decide_eq_true hlt
    show execIvrPhaseFailure t .vda phase s = _
    simp only [execIvrPhaseFailure, hok, Bool.not_true, Bool.false_eq_true, if_false, hnew, hn, if_true, State.modPwr]
  case current =>
    have ho : overRemaining s t.val = true := by rw [overRemaining, decide_eq_true hb, decide_eq_true hl]; rfl
    show execTierOvercurrentTimeout t s = _
    simp only [execTierOvercurrentTimeout, hf, ho, Bool.not_true, Bool.or_self, Bool.false_eq_true, if_false]

/-- Settles O49: a stage, a second try and a denial. -/
theorem admissionsStep : Obligations.AdmissionsStep := by
  refine fun t s => ⟨fun amps a ha => ?stage, fun k a ha hw hp => ?again, fun k a ha hw hp => ⟨fun hk => ?region, fun hk => ?nbu⟩⟩
  case stage => show execAdmissionStage t amps s = _; simp only [execAdmissionStage, ha]
  case again =>
    show execAdmissionWaitTimeout t k s = _
    simp only [execAdmissionWaitTimeout, ha, hw, hp, Bool.not_true, Bool.false_eq_true, if_false, if_true]
  case region =>
    subst hk
    show execAdmissionWaitTimeout t .compute s = _
    simp only [execAdmissionWaitTimeout, ha, hw, hp, Bool.not_true, Bool.false_eq_true, if_false]
  case nbu =>
    subst hk
    show execAdmissionWaitTimeout t .nbu s = _
    simp only [execAdmissionWaitTimeout, ha, hw, hp, Bool.not_true, Bool.false_eq_true, if_false]

/-- Settles O50: each supply event is its own row; the last one waits for PWR_OK. -/
theorem supplyEvents : Obligations.SupplyEvents := by
  refine fun s => ⟨rfl, rfl, rfl, rfl, rfl, fun hp => ?_⟩
  show execVheVauxOutOfRange s = _
  simp only [execVheVauxOutOfRange, hp, Bool.not_true, Bool.false_eq_true, if_false]

end Sys2Proof.Machine
end

section
/-! PROOFS. Coolant, temperatures, THERMTRIP and ageing (13_cooling_thermal.md). -/

namespace Sys2Proof.Machine

variable {s t : State}

-- THERMTRIP, in its three parts (R360)

/-- The comparator has tripped: the state behind its note and, where firmware runs, its record. -/
def tripNoted (s : State) : State :=
  let t := { s with thm := { s.thm with thermtrip := true } }
  if firmwareRuns s then report t { unit := hearthUnit t 256, status := 0, cls := .deviceFatal, action := 4 } else t
/-- Every tier stops and its rails open. -/
def tripRails (s : State) : State :=
  (natsFrom 0 8).foldl (fun st t => st.modPwr t fun v => { v with quads := [], queue := [] }) ((natsFrom 0 8).foldl stopClock s)
/-- Every partition stops. -/
def tripParts (s : State) : State := (s.part.map Prod.fst).foldl stopPartition s

/-- THERMTRIP of a device with power takes its three parts, and nothing of tier memory stays. -/
theorem execThermtrip_parts (hs : s.dev.state ≠ .off) (ht : s.thm.thermtrip = false) :
    execThermtrip s = .next
      (let u := tripParts (tripRails (tripNoted s))
       { u with memc := { u.memc with lost := natsFrom 0 8 }, boot := { u.boot with tiersUp := [] } }) := by
  simp only [execThermtrip, hs, ht, decide_false, Bool.or_self, Bool.false_eq_true, if_false]
  rfl

/-- The stop of partitions changes no clock and no temperature. -/
theorem tripParts_stays (s : State) :
    Stays [.hostMem, .hst, .ras, .lnk, .core, .stream, .linkCorr, .routes, .part, .bars, .snaps] s (tripParts s) :=
  Stays.foldl _ (fun _ _ h => stopPartition_stays h (.refl _)) (.refl _ s)

/-- The opening of the rails changes clocks and rails alone. -/
theorem tripRails_stays (s : State) : Stays [.clk, .pwr] s (tripRails s) :=
  Stays.foldl _ (fun _ _ h => modPwr_stays h ⟨by decide⟩)
    (Stays.foldl _ (fun _ _ h => stopClock_stays h ⟨by decide⟩) (.refl _ s))

/-- A stopped clock stays stopped whichever tier's clock stops next. -/
theorem stopClock_stopped (t k : Nat) (h : k = t ∨ (s.clkAt k).stopped = true) : ((stopClock s t).clkAt k).stopped = true := by
  by_cases hk : k = t
  · subst hk; rw [stopClock, State.clkAt_modClk]
  · rw [stopClock, State.clkAt_modClk_ne _ _ _ _ hk]; exact h.resolve_left hk

/-- Every clock of a list stops. -/
theorem foldl_stopClock_stopped (k : Nat) : ∀ (l : List Nat) (s : State), k ∈ l ∨ (s.clkAt k).stopped = true →
    ((l.foldl stopClock s).clkAt k).stopped = true
  | [], _, h => h.resolve_left List.not_mem_nil
  | t :: l, s, h => by
    refine foldl_stopClock_stopped k l _ ?_
    rcases h with h | h
    · rcases List.mem_cons.mp h with rfl | h
      · exact Or.inr (stopClock_stopped _ _ (Or.inl rfl))
      · exact Or.inl h
    · exact Or.inr (stopClock_stopped _ _ (Or.inr h))

/-- Behind the rails every tier's clock is stopped. -/
theorem tripRails_stopped (s : State) (k : TierId) : ((tripRails s).clkAt k.val).stopped = true := by
  have hclk : (tripRails s).clk = ((natsFrom 0 8).foldl stopClock s).clk :=
    (Stays.foldl _ (fun _ _ h => modPwr_stays h (.refl _)) (.refl _ _)).frame .clk (by decide)
  rw [State.clkAt, hclk]
  exact foldl_stopClock_stopped k.val _ s (Or.inl (mem_natsFrom.mpr ⟨Nat.zero_le _, by omega⟩))

/-- The note is taken whether or not firmware writes its record. -/
theorem tripNoted_thermtrip (s : State) : (tripNoted s).thm.thermtrip = true := by
  unfold tripNoted
  dsimp only
  split
  · exact congrArg Thm.thermtrip ((report_stays (.refl _ _) (.refl _)).frame .thm (by decide))
  · rfl

-- Ageing

/-- An ageing measurement up to the tier's next step and the check of its grade (R365, R366). -/
def aged (t : Nat) (guard : List Int) (ratios : List Nat) (s : State) : State :=
  let refit := (natsFrom 0 5).foldl (refitStep guard t) (keepStored s)
  let noted := modAge refit t fun a =>
    { a with guards := guardsNow s refit t guard, hours := BitVec.ofNat 16 s.thm.poweredHours }
  (natsFrom 0 256).foldl (ringRecord t ratios) (noted.modPwr t fun v => { v with setpoint := setpointOf noted t (noted.clkAt t).cur })

/-- It touches neither memory nor partitions. -/
theorem aged_stays (t : Nat) (guard : List Int) (ratios : List Nat) (s : State) :
    Stays [.hostMem, .hst, .clk, .pwr, .thm, .ras] s (aged t guard ratios s) :=
  Stays.foldl _ (fun _ _ h => ringRecord_stays h ⟨by decide⟩)
    (modPwr_stays (modAge_stays (Stays.foldl _ (fun _ _ h => refitStep_stays h ⟨by decide⟩)
      (keepStored_stays (.refl _ s) ⟨by decide⟩)) ⟨by decide⟩) ⟨by decide⟩)

/-- It keeps the hours at which it was made. -/
theorem aged_hours (t : Nat) (guard : List Int) (ratios : List Nat) (s : State) :
    ((aged t guard ratios s).ageAt t).hours = BitVec.ofNat 16 s.thm.poweredHours := by
  have hthm : ∀ u : State, ((natsFrom 0 256).foldl (ringRecord t ratios) u).thm = u.thm := fun u =>
    (Stays.foldl _ (fun _ _ h => ringRecord_stays h (.refl _)) (.refl _ u)).frame .thm (by decide)
  simp only [aged, State.ageAt, hthm, State.modPwr, modAge, mget_mset_same]

/-- The note of what flash is to keep leaves temperatures and hours. -/
theorem keepStored_thm (s : State) : (keepStored s).thm = s.thm := (keepStored_stays (.refl _ s) (.refl _)).frame .thm (by decide)

/-- Settles O51: coolant reports and sensors, the thermal model, the error rate, THERMTRIP and ageing. -/
theorem coolingAndTemperature : Obligations.CoolingAndTemperature := by
  refine ⟨fun s => ⟨fun v auxW hs hv hq => ?coolant, fun hl hs => ?timeout, fun dc hok => ?sensors, fun hf => ?hours⟩,
    fun s => ⟨fun ho => ?model, fun ho => ?tooHot⟩, fun t s => ⟨fun hs => ?history, fun hs => ⟨fun h4 => ?low, fun h4 h32 => ?high,
      fun h32 => ?safe⟩⟩, fun s hs ht => ?trip, fun t guard ratios s hok => ?ageing⟩
  case coolant =>
    have hfresh : (bit v 56 && decide (s.thm.lastSeq ≠ some (BitVec.ofNat 8 (bits v 55 48)))) = true := by
      rw [hv, decide_eq_true hq]; rfl
    show execCoolantReport v auxW s = _
    simp only [execCoolantReport, hs, if_false, hfresh, Bool.not_true, Bool.false_eq_true]
  case timeout =>
    show execCoolantReportTimeout s = _
    simp only [execCoolantReportTimeout, hl, hs, decide_false, Bool.or_self, Bool.false_eq_true, if_false]
  case sensors =>
    show execSensorSample dc s = _
    simp only [execSensorSample, hok, Bool.not_true, Bool.false_eq_true, if_false]
  case hours =>
    show execPoweredHoursUpdate s = _
    simp only [execPoweredHoursUpdate, hf, Bool.not_true, Bool.false_eq_true, if_false, keepStored_thm]
  case model => show execThermalModelRun s = _; simp only [execThermalModelRun, ho, Bool.false_eq_true, if_false]
  case tooHot => show execThermalModelRun s = _; simp only [execThermalModelRun, ho, if_true]
  case history => exact if_pos ((Bool.not_eq_true' _).mpr hs)
  case low =>
    refine (if_neg fun h => ?_).trans ((if_neg (by omega)).trans (if_neg (by omega)))
    exact absurd (((Bool.not_eq_true' _).mp h).symm.trans hs) Bool.false_ne_true
  case high =>
    refine (if_neg fun h => ?_).trans ((if_neg (by omega)).trans (if_pos h4))
    exact absurd (((Bool.not_eq_true' _).mp h).symm.trans hs) Bool.false_ne_true
  case safe =>
    refine (if_neg fun h => ?_).trans (if_pos h32)
    exact absurd (((Bool.not_eq_true' _).mp h).symm.trans hs) Bool.false_ne_true
  case trip =>
    have hparts := tripParts_stays (tripRails (tripNoted s))
    have hrails := tripRails_stays (tripNoted s)
    refine ⟨_, execThermtrip_parts hs ht, ?_, fun k => ?_, rfl, rfl, fun hf hp => ?_⟩
    · show (tripParts (tripRails (tripNoted s))).thm.thermtrip = true
      rw [hparts.frame .thm (by decide), hrails.frame .thm (by decide), tripNoted_thermtrip]
    · show ((tripParts (tripRails (tripNoted s))).clkAt k.val).stopped = true
      rw [State.clkAt, hparts.frame .clk (by decide)]
      exact tripRails_stopped _ k
    · have hnote : tripNoted s = { s with thm := { s.thm with thermtrip := true } } := by
        simp only [tripNoted, hf, Bool.false_eq_true, if_false]
      have hpart : (tripRails (tripNoted s)).part = [] := (hrails.frame .part (by decide)).trans (by rw [hnote]; exact hp)
      have hnone : tripParts (tripRails (tripNoted s)) = tripRails (tripNoted s) := by
        rw [tripParts, hpart, List.map_nil, List.foldl_nil]
      show (tripParts (tripRails (tripNoted s))).ras = s.ras
      exact (congrArg State.ras hnone).trans ((hrails.frame .ras (by decide)).trans (by rw [hnote]))
  case ageing =>
    obtain hfr := aged_stays t.val guard ratios s
    refine ⟨aged t.val guard ratios s, ?_, hfr.frame .mem (by decide), hfr.frame .part (by decide), aged_hours _ _ _ _⟩
    show execAgeingMeasurement t guard ratios s = _
    simp only [execAgeingMeasurement, hok, Bool.not_true, Bool.false_eq_true, if_false]
    rfl

end Sys2Proof.Machine
end

section
/-! PROOFS. Records, Weevil, router faults and partition recovery (14_faults_and_checking.md). -/

namespace Sys2Proof.Machine

variable {s t : State}

-- Records and Weevil

/-- A core of no partition is visited like one of a partition in FREE. -/
theorem ownerState_of_none {c : Nat} (h : s.ownerOf c = none) : s.ownerState c = .free := by rw [State.ownerState, h]

/-- A READY device tests its cores. -/
theorem inService_ready (h : s.dev.state = .ready) : inService s = true := by rw [inService, h]

/-- Settles O52: merge windows, log and signature settings, and Weevil's visits. -/
theorem recordsAndWeevil : Obligations.RecordsAndWeevil := by
  refine ⟨⟨fun u st d s w hw => ⟨fun h0 => ?silent, fun h0 => ?further⟩, fun w s ho he h6 h16 => ?log, fun w s ho he h4 h12 => ?sig⟩,
    fun s => ⟨fun he hr hs hq hown => ?slice, fun hr hn => ?next, fun hr hn => ?visit, fun w hr hne => ?wrong,
      fun hs hv => ?timeout, fun ho => ?disable⟩⟩
  case silent => show execCorrectedMergeExpiry u st d s = _; simp only [execCorrectedMergeExpiry, hw, h0, if_true]
  case further => show execCorrectedMergeExpiry u st d s = _; simp only [execCorrectedMergeExpiry, hw, h0, if_false]
  case log =>
    have hin : ¬(bits w 4 0 < 6 ∨ 16 < bits w 4 0) := by omega
    show execLogEnable w s = _
    simp only [execLogEnable, writeLogCfg, ho, he, hin, Bool.not_true, decide_false, Bool.or_self, Bool.false_eq_true, if_false]
  case sig =>
    have hin : ¬(bits w 3 0 < 4 ∨ 12 < bits w 3 0) := by omega
    show execSignatureEnable w s = _
    simp only [execSignatureEnable, writeSigCfg, ho, he, hin, Bool.not_true, decide_false, Bool.or_self, Bool.false_eq_true, if_false]
  case slice =>
    show execWeevilSlice s = _
    simp only [execWeevilSlice, he, hr, inService_ready hs, hq, Bool.not_true, Bool.or_self, Bool.false_eq_true, if_false, trySlice,
      ownerState_of_none hown]
  case next =>
    show execWeevilSliceComplete _ s = _
    simp only [execWeevilSliceComplete, hr, hn, Bool.not_true, Bool.false_eq_true, if_false, ne_eq, not_true_eq_false, if_true]
  case visit =>
    show execWeevilSliceComplete _ s = _
    simp only [execWeevilSliceComplete, hr, Nat.not_lt.mpr hn, Bool.not_true, Bool.false_eq_true, if_false, ne_eq, not_true_eq_false]
  case wrong =>
    show execWeevilSliceComplete w s = _
    simp only [execWeevilSliceComplete, hr, hne, Bool.not_true, Bool.false_eq_true, if_false, ne_eq, not_false_eq_true, if_true]
  case timeout =>
    show execWeevilVisitTimeout s = _
    simp only [execWeevilVisitTimeout, inService_ready hs, Nat.not_lt.mpr hv, Bool.not_true, decide_false, Bool.or_self,
      Bool.false_eq_true, if_false]
  case disable => exact congrArg _ (if_pos ho)

-- Merging (R378)

/-- A CORRECTED event of an open window is one more event of that window, and nothing else (R378). -/
theorem report_merges {r : Report} (hc : r.cls = .corrected) (hw : ∃ w ∈ s.ras.windows, w.hasKey r.unit r.status r.code = true) :
    report s r = { s with ras := { s.ras with
      windows := s.ras.windows.map fun x => if x.hasKey r.unit r.status r.code then x.merge (recordBody s r) else x } } := by
  obtain ⟨w, hfind⟩ := Option.isSome_iff_exists.mp (List.find?_isSome.mpr hw)
  simp only [report, hc, hfind]

/-- Settles O53: a further event of an open window writes nothing. -/
theorem correctedEventsMerge : Obligations.CorrectedEventsMerge := by
  intro s r hc hw
  rw [report_merges hc hw]
  exact ⟨rfl, rfl, rfl, List.length_map _⟩

-- Router parity and recovery (R388, R392 to R396)

/-- Settles O54: router parity, recovery, the end of an episode and its time-out. -/
theorem recoveryRuns : Obligations.RecoveryRuns := by
  refine ⟨fun c port st s hq => ⟨fun h => ?first, fun at_ h => ⟨fun hl => ?late, fun hl => ?again⟩⟩,
    fun p hw s v hp hs hr hb hd => ⟨fun x hx => ?restore, fun pl hx hpl => ?reload⟩,
    fun p s v pl hp hs hpl hn ht => ?episode, fun p s v b hp hs hb => ?undecided⟩
  case first =>
    show execRouterParityFailure ⟨c, port, st⟩ s = _
    simp only [execRouterParityFailure, hq, h, Bool.false_eq_true, if_false]
  case late =>
    show execRouterParityFailure ⟨c, port, st⟩ s = _
    simp only [execRouterParityFailure, hq, h, State.within, Nat.not_le.mpr hl, decide_false, Bool.false_eq_true, if_false]
  case again =>
    show execRouterParityFailure ⟨c, port, st⟩ s = _
    simp only [execRouterParityFailure, hq, h, State.within, hl, decide_true, Bool.false_eq_true, if_false, if_true]
  case restore =>
    show execRecoveryRestoreComplete p hw s = _
    simp only [execRecoveryRestoreComplete, hp, hs, hr, hb, hd, hx, ne_eq, not_true_eq_false, decide_false, Bool.or_self,
      Bool.false_eq_true, if_false]
  case reload =>
    show execRecoveryRestoreComplete p hw s = _
    simp only [execRecoveryRestoreComplete, hp, hs, hr, hb, hd, hx, hpl, ne_eq, not_true_eq_false, decide_false, Bool.or_self,
      Bool.false_eq_true, if_false]
  case episode =>
    show execRecoveryEpisodeEnd p s = _
    simp only [execRecoveryEpisodeEnd, hp, hs, hpl, hn, Nat.not_lt.mpr ht, ne_eq, not_true_eq_false, decide_false, Bool.or_self,
      Bool.false_eq_true, if_false, State.modPart_of_some _ hp]
  case undecided =>
    show execSnapReleaseTimeout p s = _
    simp only [execSnapReleaseTimeout, hp, hb, hs, ne_eq, not_true_eq_false, if_false]

-- Episodes (R394)

/-- A snapshot request that is dropped leaves its partition's EPOCH and its count of faults. -/
theorem dropSnapReq_part {p : Nat} {v : Partition} (h : s.part? p = some v) :
    ∃ w : Partition, (dropSnapReq s p).part? p = some w ∧ w.epoch = v.epoch ∧ w.faults = v.faults := by
  simp only [dropSnapReq, h]
  split
  · exact ⟨v, h, rfl, rfl⟩
  · have hkept : (finishEvery s (isPartSnapshot p) .stateConflict (detUnit noUnit)).part? p = some v := h
    exact ⟨{ v with snapReq := none }, by rw [State.modPart_of_some _ hkept, State.part?_setPart], rfl, rfl⟩

/-- What marks a record for a retest leaves the partitions. -/
theorem retestAction_part (r : Report) : (retestAction s r).1.part = s.part := rfl

/-- A record leaves the partitions. -/
theorem report_part (r : Report) (late : Bool) : (report s r late).part = s.part :=
  (report_stays (.refl _ s) (.refl _)).frame .part (by decide)

/-- Settles O55: the third fault of an episode ends it, and an earlier one moves the partition to RECOVERING. -/
theorem episodesHaveALimit : Obligations.EpisodesHaveALimit := by
  intro s p r v hp hs
  refine ⟨fun h => ?third, fun h => ?earlier⟩
  case third => simp only [partFault, hp, hs, ge_iff_le, h, if_true, State.modPart_of_some _ hp]
  case earlier =>
    obtain ⟨w, hw, hepoch, hfaults⟩ := dropSnapReq_part hp
    refine ⟨{ w with epoch := v.epoch + 1, faults := v.faults + 1 }, ?_, rfl, rfl⟩
    simp only [partFault, hp, hs, ge_iff_le, Nat.not_le.mpr h, if_false]
    rw [State.modPart_of_some (v := w) _ (by rw [State.part?, report_part, retestAction_part]; exact hw), State.part?_setPart]
    rw [hepoch, hfaults]

end Sys2Proof.Machine
end

section
/-! PROOFS. The stages of a start (15_startup_and_trust.md: Cold start). -/

namespace Sys2Proof.Machine

variable {s t : State}

-- Stages

/-- A start stands at one stage only. -/
theorem atStage_other {n m : Nat} (h : atStage s n = true) (hne : n ≠ m) : atStage s m = false := by
  simp only [atStage, Bool.and_eq_true, decide_eq_true_eq] at h
  obtain ⟨-, hn⟩ := h
  rw [atStage, decide_eq_false (fun hm => hne (hn.symm.trans hm)), Bool.and_false]

/-- What the move to a device state reports leaves the sampled straps. -/
theorem setDevState_strap (s : State) (d : DevState) : (setDevState s d).strap = s.strap :=
  (setDevState_stays (.refl _ s) (.refl _)).frame .strap (by decide)

/-- A command that acts at one stage of the start acts there. -/
theorem atStage_row {α : Type} {n : Nat} {x y : α} (h : atStage s n = true) : (if atStage s n then x else y) = x := if_pos h

/-- A command that a stage lets pass is not ended by its check. -/
theorem atStage_pass {α : Type} {n : Nat} {x y : α} (h : atStage s n = true) : (if !atStage s n then x else y) = y := by
  rw [h]; rfl

/-- Settles O56: the start from PWR_OK to the power-up of the tiers. -/
theorem startUpBeginsAndVerifies : Obligations.StartUpBeginsAndVerifies := by
  refine ⟨fun s => ⟨fun hp => ⟨fun hb => ?begins, fun hb => ?reserved⟩, fun hs hf hr => ?release, fun hr hl h0 hs => ?lock,
      fun hr hl h0 ht => ?other, fun hr hl h0 ht => ?noRef⟩,
    fun s => ⟨fun h1 hs => ?flash, fun h1 hs hw => ?kindling, fun h2 hi1 hi2 hi3 => ?images, fun h5 hi3 => ?tiers,
      fun h3 => ?firstPass, fun tb h3 => ?jitter, fun t h3 => ?regulator, fun lanes dc h6 hok => ?secondPass,
      fun t badVct badVdl badVda h4 ht hn hvct hvdl hvda => ?power⟩⟩
  case begins =>
    show execPwrOkRise s = _
    simp only [execPwrOkRise, hp, Bool.false_eq_true, if_false]
    exact if_neg fun h => hb ((congrArg Straps.bootSrc (setDevState_strap _ _)).symm.trans h)
  case reserved =>
    show execPwrOkRise s = _
    simp only [execPwrOkRise, hp, Bool.false_eq_true, if_false]
    exact if_pos ((congrArg Straps.bootSrc (setDevState_strap _ _)).trans hb)
  case release =>
    show execRootPllRelease s = _
    simp only [execRootPllRelease, hs, hf, hr, ne_eq, not_true_eq_false, decide_false, Bool.or_self, Bool.false_eq_true, if_false]
  case lock =>
    have hstate : (decide (s.dev.state ≠ .resetHold) && decide (s.dev.state ≠ .boot)) = false := by
      rcases hs with h | h <;> rw [h] <;> rfl
    show execRootPllLock s = _
    simp only [execRootPllLock, hr, hl, h0, hstate, Bool.not_true, Bool.or_self, Bool.false_eq_true, if_false]
  case other =>
    show execRootPllLockTimeout s = _
    simp only [execRootPllLockTimeout, hr, hl, h0, ht, Bool.not_true, Bool.not_false, Bool.or_self, Bool.false_eq_true, if_false, if_true]
  case noRef =>
    show execRootPllLockTimeout s = _
    simp only [execRootPllLockTimeout, hr, hl, h0, ht, Bool.not_true, Bool.or_self, Bool.false_eq_true, if_false]
  case flash =>
    show execFlashDiscoveryTimeout s = _
    simp only [execFlashDiscoveryTimeout, h1, hs, decide_true, Bool.and_self, if_true]
  case kindling =>
    show execPrivilegedImageVerify s = _
    simp only [execPrivilegedImageVerify, h1, hs, hw, decide_true, Bool.not_false, Bool.and_self, if_true]
  case images =>
    have hthird : (decide (afterImages s > 5) && !imageHolds s 3) = false := by
      rcases hi3 with h | h
      · rw [decide_eq_false (Nat.not_lt.mpr h), Bool.false_and]
      · rw [h, Bool.not_true, Bool.and_false]
    show execPrivilegedImageVerify s = _
    simp only [execPrivilegedImageVerify, atStage_other h2 (m := 1) (by decide), h2, hi1, hi2, hthird, Bool.false_and, Bool.not_true,
      Bool.false_eq_true, if_false, if_true]
  case tiers =>
    show execPrivilegedImageVerify s = _
    simp only [execPrivilegedImageVerify, atStage_other h5 (m := 1) (by decide), atStage_other h5 (m := 2) (by decide), h5, hi3,
      Bool.false_and, Bool.false_eq_true, if_false, if_true]
  case firstPass => exact atStage_row h3
  case jitter => exact atStage_row h3
  case regulator => exact atStage_row h3
  case secondPass =>
    show execAnalogueSelftest (.secondPass lanes dc) s = _
    simp only [execAnalogueSelftest, hok, h6, Bool.not_true, Bool.false_eq_true, if_false, if_true]
  case power =>
    have hvdl' : ¬(phasesOf badVdl 24).length > 8 := Nat.not_lt.mpr hvdl
    have hvda' : ¬(phasesOf badVda 8).length > 2 := Nat.not_lt.mpr hvda
    have hvct' : ¬(phasesOf badVct 48).length > 8 := Nat.not_lt.mpr hvct
    show execTierPowerUp t badVct badVdl badVda s = _
    simp only [execTierPowerUp, h4, ht, hn, hvdl', hvda', hvct', Bool.not_true, ne_eq, not_true_eq_false, decide_false, Bool.or_self,
      Bool.false_eq_true, if_false]
    exact (apply_ite _ _ _ _).symm

-- READY

/-- The device at the end of its start, its tiers at their fastest steps and Weevil at its first core's visit. -/
def startEnded (s : State) : State :=
  let t := s.boot.tiersUp.foldl stepUp (toStage s 11)
  { t with
    dev := { t.dev with ready := true },
    weevil := { t.weevil with running := false, slice := 0, slot := none, visitStart := t.time.now, lapStart := t.time.now } }

/-- The steps of the tiers leave the stage. -/
theorem startEnded_stage (s : State) : (startEnded s).boot.stage = 11 := by
  have hboot : (s.boot.tiersUp.foldl stepUp (toStage s 11)).boot = (toStage s 11).boot :=
    (Stays.foldl _ (fun _ _ h => stepUp_stays h (.refl _)) (.refl _ _)).frame .boot (by decide)
  exact congrArg Boot.stage hboot

/-- Settles O57: the start from its built-in tests to READY or DEGRADED. -/
theorem startUpEnds : Obligations.StartUpEnds := by
  refine fun s => ⟨fun ms h7 hm => ?bist, fun ms u h7 hm => ?mismatch,
    fun h8 hp => ⟨fun hc => ?checkedCold, fun hc => ?checkedWarm, fun f => ?checkerFails⟩, fun h8 hp hc => ?fill, fun h9 => ?repairs,
    fun h10 hu hi4 hi5 => ⟨fun hc4 hc5 => ⟨?delivered, fun u hused => ?twice⟩, fun u w hc4 => ?noCrc⟩,
    fun h10 => ?wait, fun h10 hu he => ?ready⟩
  case bist => exact (atStage_pass h7).trans (by simp only [hm])
  case mismatch => exact (atStage_pass h7).trans (by simp only [hm])
  case checkedCold =>
    show execCheckerSelftest none s = _
    simp only [execCheckerSelftest, h8, hp, hc, Bool.not_true, Bool.or_self, Bool.false_eq_true, if_false, if_true]
  case checkedWarm =>
    show execCheckerSelftest none s = _
    simp only [execCheckerSelftest, h8, hp, hc, Bool.not_true, Bool.or_self, Bool.false_eq_true, if_false]
  case checkerFails =>
    show execCheckerSelftest (some f) s = _
    simp only [execCheckerSelftest, h8, hp, Bool.not_true, Bool.or_self, Bool.false_eq_true, if_false]
  case fill =>
    show execMemoryFill s = _
    simp only [execMemoryFill, h8, hp, hc, Bool.and_self, if_true]
  case repairs => exact atStage_pass h9
  case delivered =>
    show execMicrocodeDelivery none s = _
    simp only [execMicrocodeDelivery, h10, hu, hi4, hi5, hc4, hc5, Bool.not_true, Bool.or_self, Bool.false_eq_true, if_false,
      Option.orElse_none, Option.filter_none]
  case twice =>
    show execMicrocodeDelivery (some u) s = _
    simp only [execMicrocodeDelivery, h10, hu, hi4, hi5, hc4, hc5, Bool.not_true, Bool.or_self, Bool.false_eq_true, if_false,
      Option.orElse_none, Option.filter_some, hused, if_true]
  case noCrc =>
    show execMicrocodeDelivery w s = _
    simp only [execMicrocodeDelivery, h10, hu, hi4, hi5, hc4, Bool.not_true, Bool.or_self, Bool.false_eq_true, if_false,
      Option.orElse_some]
  case wait => exact atStage_row h10
  case ready =>
    refine ⟨startEnded s, ?_, rfl, startEnded_stage s⟩
    show execDeviceReady s = _
    simp only [execDeviceReady, h10, hu, he, Bool.not_true, Bool.and_false, Bool.or_self, Bool.false_eq_true, if_false]
    rfl

end Sys2Proof.Machine
end

section
/-! PROOFS. Trust, resets and the test access port (chapters 15 and 16). -/

namespace Sys2Proof.Machine

variable {s t : State}

-- Trust (R418, R407, R423)

/-- A pushed chunk of an allowed length is taken while the mailbox waits. -/
theorem writeMboxCtrl_takes {w : W64} (hw : s.boot.waiting = true) (h1 : 1 ≤ bits w 15 0) (hmax : bits w 15 0 ≤ 32768)
    (hpush : bit w 16 = true) :
    writeMboxCtrl s w = takeChunk { s with boot := { s.boot with
      mboxLen := BitVec.ofNat 16 (bits w 15 0), mboxSeq := BitVec.ofNat 16 (bits w 47 32), ack := false } } (bit w 17) := by
  have hlen : 1 ≤ bits w 15 0 ∧ bits w 15 0 ≤ 32768 := ⟨h1, hmax⟩
  simp only [writeMboxCtrl, hw, hlen, hpush, Bool.not_true, Bool.false_eq_true, if_false, and_self, decide_true, if_true]

/-- What the port has loaded bears on no response. -/
theorem responseOk_tap (x : Tap) (bs : List Byte) : responseOk { s with tap := x } bs = responseOk s bs := rfl

/-- The port of a device with power answers. -/
theorem tapLive_of_power (h : s.dev.state ≠ .off) : tapLive s = true := decide_eq_true h

/-- Settles O58: SVN_ADVANCE, the boot mailbox and debug unlock. -/
theorem trustIsKept : Obligations.TrustIsKept := by
  refine fun s => ⟨fun m hm hr hst => ?svn, fun w hw h1 hmax hp => ⟨?push, ?last⟩, fun hw => ?timeout, fun ho => ?challenge,
    fun bs hok ho hl hno hf => ?third⟩
  case svn =>
    show execSvnAdvance s = _
    simp only [execSvnAdvance, hm, hr, hst, Bool.not_true, ne_eq, not_true_eq_false, decide_false, Bool.or_self, Bool.false_eq_true,
      if_false]
  case push => exact congrArg _ (writeMboxCtrl_takes hw h1 hmax hp)
  case last => exact congrArg _ (writeMboxCtrl_takes hw h1 hmax hp)
  case timeout => exact if_pos hw
  case challenge =>
    have hlen : ((natsFrom 0 32).map (Config.random s.free)).length = 32 := by rw [List.length_map]; rfl
    refine ⟨(natsFrom 0 32).map (Config.random s.free) ++ s.keyHash, by rw [List.length_append, hlen], ?_, ?_⟩
    · exact List.drop_left' hlen
    · show execDbgChallenge s = _
      simp only [execDbgChallenge, tapLive_of_power ho, Bool.not_true, Bool.false_eq_true, if_false, State.draw]
  case third =>
    show execDbgResponse bs s = _
    simp only [execDbgResponse, hok, tapLive_of_power ho, hl, responseOk_tap, hno, failDebug, hf, Bool.not_true, Bool.false_eq_true,
      if_false]
    rfl

-- Resets (R375, R395, R398, R415)

/-- Settles O59: warm resets, the watchdog, PERST#, the PCIe link and a flash write that is tried again. -/
theorem resetsAreTaken : Obligations.ResetsAreTaken := by
  refine fun s => ⟨fun cause hp hw => ?asked, fun hw ho hh => ?badStatus, fun hr => ?watchdog, fun hp hs hw => ?perst, rfl,
    fun rate width hp ho hwd => ?trained, rfl, rfl, rfl⟩
  case asked => exact (if_pos hw).trans (if_pos hp)
  case badStatus => exact (if_neg hw).trans (if_pos ⟨rfl, ho, hh⟩)
  case watchdog => exact if_pos hr
  case perst =>
    show execPerstAssert s = _
    simp only [execPerstAssert, hp, coldOrHeld, hs, Bool.not_true, Bool.false_eq_true, if_false, wantReset, pcieDown, hw,
      Option.orElse_none]
  case trained =>
    show execPcieLinkTrained rate width s = _
    simp only [execPcieLinkTrained, hp, ho, hwd, decide_false, Bool.or_self, Bool.false_eq_true, if_false]

-- The test access port (R439)

/-- A row of the port of a device with power. -/
theorem tapRow_live (h : s.dev.state ≠ .off) : tapRow s t = .next t := by
  rw [tapRow, tapLive_of_power h, if_pos rfl]

/-- An instruction of RESET_HOLD is taken there. -/
theorem tapRow_held (h : s.dev.state = .resetHold) : tapRow s (loadHeld s t) = .next t := by
  rw [tapRow_live (by rw [h]; decide), loadHeld, if_pos h]

/-- Elsewhere it acts as BYPASS. -/
theorem tapRow_not_held (h : s.dev.state ≠ .resetHold) : tapRow s (loadHeld s t) = execBypass s := by
  rw [loadHeld, if_neg h, execBypass]

/-- Settles O60: the six instructions of the port and BYPASS. -/
theorem tapAnswers : Obligations.TapAnswers := fun s ho =>
  ⟨tapRow_live ho, fun _ _ => tapRow_live ho, tapRow_live ho,
    fun hh => ⟨⟨landLevels s, tapRow_held hh⟩, tapRow_held hh, tapRow_held hh⟩,
    fun hh => ⟨tapRow_not_held hh, tapRow_not_held hh, tapRow_not_held hh⟩⟩

end Sys2Proof.Machine
end

section
/-! PROOFS. Which bytes of device memory an access leaves as they are (01_stack_organisation.md: The device physical address map;
06_tier_memory.md: Reading). -/

namespace Sys2Proof.Machine

variable {s t u : State} {x : Nat}

-- Address ranges

/-- Outside a range is outside each part of it. -/
theorem outside.part {a n b m : Nat} (h : outside a n x) (hlo : a ≤ b) (hhi : b + m ≤ a + n) : outside b m x := by
  simp only [outside] at h ⊢; omega

/-- Outside the words of a range is outside the words of each part of it. -/
theorem outsideWords.part {a n b m : Nat} (h : outsideWords a n x) (hlo : a ≤ b) (hhi : b + m ≤ a + n) : outsideWords b m x := by
  simp only [outsideWords, cdiv] at h ⊢; omega

/-- Outside the words of a range is outside the range. -/
theorem outsideWords.outside {a n : Nat} (h : outsideWords a n x) : outside a n x := by
  simp only [outsideWords, Machine.outside, cdiv] at h ⊢; omega

/-- A range of whole words is its words. -/
theorem outside.words {a n : Nat} (h : outside a n x) (ha : a % 64 = 0) (hn : n % 64 = 0) : outsideWords a n x := by
  simp only [outsideWords, Machine.outside, cdiv] at h ⊢; omega

/-- The words of a range hold the word of its first byte, and that of the byte behind it where it ends inside a word. -/
theorem outsideWords.word {a n b : Nat} (h : outsideWords a n x) (hlo : a ≤ b) (hhi : b ≤ a + n) (hb : b % 64 ≠ 0) :
    Machine.outside (b / 64 * 64) 64 x := by
  simp only [outsideWords, Machine.outside, cdiv] at h ⊢; omega

-- A byte that stays

/-- A byte of device memory reads as before. -/
def KeepsByte (x : Nat) (s t : State) : Prop := rdByte t.mem x = rdByte s.mem x

theorem KeepsByte.refl (s : State) : KeepsByte x s s := rfl
theorem KeepsByte.trans (h : KeepsByte x s t) (k : KeepsByte x t u) : KeepsByte x s u := Eq.trans k h
theorem KeepsByte.of_mem (h : t.mem = s.mem) : KeepsByte x s t := congrArg (rdByte · x) h

/-- What changes no memory keeps every byte. -/
theorem KeepsByte.of_stays {L : List Field} (h : Stays L s t) (hm : Field.mem ∉ L) : KeepsByte x s t := .of_mem (h.frame .mem hm)

/-- A fold whose every step keeps a byte keeps it. -/
theorem KeepsByte.foldl {β : Type} {f : State → β → State} (l : List β) (h : ∀ e ∈ l, ∀ u, KeepsByte x u (f u e)) (s : State) :
    KeepsByte x s (l.foldl f s) := by
  induction l generalizing s with
  | nil => exact .refl s
  | cons e l ih => exact (h e List.mem_cons_self s).trans (ih (fun e he => h e (List.mem_cons_of_mem _ he)) _)

-- Writes of core SRAM

/-- A write of SRAM stores at its own bytes, whether it stores or fails. -/
theorem sramWrite_keeps {c off : Nat} {bs : List Byte} (h : outside (sramDpa c off) bs.length x) :
    KeepsByte x s (sramWrite s c off bs).1 := by
  have hcount : ∀ l : SMap WordErr, (l.foldl (fun st e => sramCorrected st c (e.1 * 8 - sramDpa c 0)) s).mem = s.mem := fun _ =>
    (Stays.foldl _ (fun _ _ h => sramCorrected_stays h (.refl _)) (.refl _ s)).frame .mem (by decide)
  simp only [sramWrite]
  split
  · exact .refl s
  · simp only [KeepsByte, hcount]
    exact rdByte_wrBytes_ne _ _ _ _ h

-- Writes of tier memory

/-- An offset of a slot stands in its word as its address does. -/
theorem dramDpa_mod (c off : Nat) : dramDpa c off % 64 = off % 64 := by simp only [dramDpa]; omega

/-- A written line leaves every byte outside its word. -/
theorem rdByte_wrLine_ne {m : Mem} {a : Nat} {l : Line} (h : outside a 64 x) : rdByte (wrLine m a l) x = rdByte m x :=
  rdByte_wrBytes_ne _ _ _ _ (by rw [leBytes_length]; exact h)

/-- The word merged for a part that begins or ends inside it lies among the words of the write (R169). -/
theorem mendWord_keeps {c off n o : Nat} {m : Mem} (h : outsideWords (dramDpa c off) n x) (hlo : off ≤ o) (hhi : o ≤ off + n) :
    rdByte (mendWord s c o m) x = rdByte m x := by
  simp only [mendWord]
  split
  · rfl
  · next hpart =>
    have ho : dramDpa c o % 64 ≠ 0 := by rw [dramDpa_mod]; exact fun h0 => hpart (Or.inl h0)
    refine rdByte_wrLine_ne ?_
    rw [dramWord, Nat.mul_comm]
    exact h.word (by simp only [dramDpa]; omega) (by simp only [dramDpa]; omega) ho

/-- The codes of a page are no bytes of memory. -/
theorem dramWritePage_mem (s : State) (c a n : Nat) : (dramWritePage s c a n).mem = s.mem :=
  (dramWritePage_stays (.refl _ s) (.refl _)).frame .mem (by decide)

/-- A write of tier memory stores at the words that it touches, whether it stores or fails (R169). -/
theorem dramWrite_keeps {c off : Nat} {bs : List Byte} (h : outsideWords (dramDpa c off) bs.length x) :
    KeepsByte x s (dramWrite s c off bs).1 := by
  simp only [dramWrite]
  split
  · exact .refl s
  · show rdByte (wrBytes (mendWord s c (off + bs.length) (mendWord s c off s.mem)) (dramDpa c off) bs) x = rdByte s.mem x
    rw [rdByte_wrBytes_ne _ _ _ _ h.outside, mendWord_keeps h (by omega) (by omega), mendWord_keeps h (by omega) (by omega)]

end Sys2Proof.Machine
end

section
/-! PROOFS. Which bytes a write over a service path, a descriptor's transfer and a plan load leave (01_stack_organisation.md; 09_host_channels.md:
Opcodes; 05_mesh_and_partitions.md: The plan image). -/

namespace Sys2Proof.Machine

variable {s t u : State} {x ch : Nat}

-- Lists and entries of tables

/-- The numbers of a run, counted. -/
theorem natsFrom_length : ∀ n a : Nat, (natsFrom a n).length = n
  | 0, _ => rfl
  | n + 1, a => by rw [natsFrom, List.length_cons, natsFrom_length n]

/-- An entry that reads lies in its table. -/
theorem mem_of_mget? {α : Type} {m : SMap α} {k : Nat} {v : α} (h : mget? m k = some v) : (k, v) ∈ m := by
  induction m with
  | nil => exact absurd h (by simp [mget?])
  | cons e m ih =>
    obtain ⟨a, w⟩ := e
    simp only [mget?] at h
    split at h
    · next hk => obtain rfl := Option.some.inj h; subst hk; exact List.mem_cons_self
    · exact List.mem_cons_of_mem _ (ih h)

/-- An entry of a table that was written is the one written, or stood there. -/
theorem mem_mset {α : Type} [DecidableEq α] {m : SMap α} {k : Nat} {v d : α} {e : Nat × α} (h : e ∈ mset m k v d) :
    e = (k, v) ∨ e ∈ m := by
  simp only [mset] at h
  split at h
  · rw [mdel_eq_filter] at h; exact Or.inr ((List.mem_filter.mp h).1)
  · exact mem_mput _ _ _ _ h

-- No command of a channel waits at a window (R202)

/-- No command of a channel's descriptor waits at a region. -/
def NoWait (ch : Nat) (s : State) : Prop := ∀ c, waitsAt s c ch = false

/-- Told of the NBUs themselves. -/
theorem noWait_iff : NoWait ch s ↔ ∀ c, ∀ e ∈ (s.regionAt c).nbus, e.2.waitDesc ≠ some ch := by
  simp only [NoWait, waitsAt, List.any_eq_false, decide_eq_true_eq]

/-- What changes no region leaves the waits. -/
theorem NoWait.of_region (h : NoWait ch s) (hr : t.region = s.region) : NoWait ch t := fun c => by
  rw [waitsAt, State.regionAt, hr]; exact h c

/-- An operation that does not touch regions leaves the waits. -/
theorem NoWait.of_stays {L : List Field} (h : NoWait ch s) (hs : Stays L s t) (hr : Field.region ∉ L) : NoWait ch t :=
  h.of_region (hs.frame .region hr)

/-- An NBU at which no command of the channel waits. -/
theorem NoWait.nbuAt (h : NoWait ch s) (c n : Nat) : (s.nbuAt c n).waitDesc ≠ some ch := by
  simp only [State.nbuAt, mget]
  cases hn : mget? (s.regionAt c).nbus n with
  | none => exact nofun
  | some v => exact noWait_iff.mp h c _ (mem_of_mget? hn)

/-- A region changes, and its NBUs do not. -/
theorem NoWait.modRegion {c : Nat} {f : Region → Region} (h : NoWait ch s) (hf : (f (s.regionAt c)).nbus = (s.regionAt c).nbus) :
    NoWait ch (s.modRegion c f) := noWait_iff.mpr fun j e he => by
  by_cases hj : j = c
  · subst hj; rw [State.regionAt_modRegion, hf] at he; exact noWait_iff.mp h j e he
  · rw [State.regionAt_modRegion_ne _ _ _ _ hj] at he; exact noWait_iff.mp h j e he

/-- An NBU changes, and no command of the channel waits at it. -/
theorem NoWait.setNbu {c n : Nat} {v : Nbu} (h : NoWait ch s) (hv : v.waitDesc ≠ some ch) : NoWait ch (s.setNbu c n v) :=
  noWait_iff.mpr fun j e he => by
    by_cases hj : j = c
    · subst hj
      rw [State.setNbu, State.regionAt_modRegion] at he
      rcases mem_mset he with rfl | he
      · exact hv
      · exact noWait_iff.mp h j e he
    · rw [State.setNbu, State.regionAt_modRegion_ne _ _ _ _ hj] at he
      exact noWait_iff.mp h j e he

/-- A queued command leaves the waits. -/
theorem NoWait.enqueueCmd {c n : Nat} {l : Line} {via : Path} (h : NoWait ch s) (hw : enqueueCmd s c n l via = .done t) :
    NoWait ch t := by
  simp only [Machine.enqueueCmd] at hw
  split at hw
  · exact nomatch hw
  split at hw
  · exact nomatch hw
  · rw [← WinOut.done.inj hw]; exact h.setNbu (h.nbuAt c n)

/-- A written query slot leaves the waits. -/
theorem NoWait.writeQuery {c n slot line : Nat} {l : Line} (h : NoWait ch s) (hw : writeQuery s c n slot line l = .done t) :
    NoWait ch t := by
  simp only [Machine.writeQuery] at hw
  split at hw
  · exact nomatch hw
  · rw [← WinOut.done.inj hw]; exact h.setNbu (h.nbuAt c n)

/-- A query slot written in every NBU leaves the waits. -/
theorem NoWait.writeQueryAll {c slot line : Nat} {l : Line} (h : NoWait ch s) (hw : writeQueryAll s c slot line l = .done t) :
    NoWait ch t := by
  simp only [Machine.writeQueryAll] at hw
  split at hw
  · exact nomatch hw
  · rw [← WinOut.done.inj hw]
    exact keeps_foldl (P := NoWait ch) (fun u k hu => NoWait.setNbu (v := (u.nbuAt c k).writeSlot slot line l) hu (hu.nbuAt c k)) _ h

/-- A written CHK_BASE leaves the waits. -/
theorem NoWait.writeParam {c : Nat} {l : Line} (h : NoWait ch s) (hw : writeParam s c l = .done t) : NoWait ch t := by
  simp only [Machine.writeParam] at hw
  split at hw
  · exact nomatch hw
  split at hw
  · exact nomatch hw
  · rw [← WinOut.done.inj hw]; exact h.modRegion rfl

/-- A write of a window's line leaves the waits. -/
theorem NoWait.windowWrite {c n line : Nat} {l : Line} {via : Path} (h : NoWait ch s) (hw : windowWrite s c n line l via = .done t) :
    NoWait ch t := by
  simp only [Machine.windowWrite] at hw
  split at hw
  · exact nomatch hw
  split at hw
  · exact h.enqueueCmd hw
  split at hw
  · exact h.writeQuery hw
  split at hw
  · exact h.writeQueryAll hw
  split at hw
  · exact h.writeParam hw
  · exact nomatch hw

/-- What the queue for repair and every change outside the regions keep, a demand read of tier memory keeps. -/
theorem dramRead_preserves {P : State → Prop} {c off n : Nat} (hqueue : ∀ u page, P u → P (queueRepair u c page))
    (hother : ∀ {u v : State}, P u → v.region = u.region → P v) (h : P s) : P (dramRead s c off n).1 := by
  simp only [dramRead]
  split
  · exact hother h rfl
  refine keeps_foldl (P := fun acc : State × Option Nat => P acc.1) (fun acc e hacc => ?_) _ h
  have hcount : P (queueRepair (countCe acc.1 c) c (pageOf (e.1 * 64 - dramDpa c 0))) := hqueue _ _ (hother hacc rfl)
  split
  · exact hacc
  split
  · exact hacc
  · exact hacc
  · exact hcount
  · exact hcount
  · split
    · exact hother hcount ((report_stays (.refl _ _) (.refl _)).frame .region (by decide))
    · exact hother hacc rfl

/-- A demand read of tier memory leaves the waits. -/
theorem NoWait.dramRead {c off n : Nat} (h : NoWait ch s) : NoWait ch (dramRead s c off n).1 := by
  refine dramRead_preserves (fun u page hu => hu.modRegion ?_) (fun hu hr => hu.of_region hr) h
  split
  · rfl
  · split <;> rfl

/-- A read of a piece leaves the waits. -/
theorem NoWait.readPiece {a n : Nat} (h : NoWait ch s) : NoWait ch (readPiece s a n).1 := by
  have hdram : ∀ c off, NoWait ch (readDram s c off n).1 := fun c off => by
    simp only [readDram]; split <;> exact h.dramRead
  have hsram : ∀ c off, NoWait ch (readSram s c off n).1 := fun c off =>
    h.of_stays (readSram_stays (.refl _ s) (.refl _)).fst (by decide)
  simp only [Machine.readPiece]
  split
  · exact h
  · exact h
  · exact h
  · simp only [readWindow]; split <;> exact h
  · exact hdram _ _
  · split
    · exact h
    · exact hsram _ _

/-- A read of pieces leaves the waits. -/
theorem NoWait.readPieces : ∀ {l : List (Nat × Nat)} {s : State}, NoWait ch s → NoWait ch (readPieces s l).1
  | [], _, h => h
  | (a, n) :: l, s, h => by
    have hl := NoWait.readPieces (l := l) (h.readPiece (a := a) (n := n))
    simp only [Machine.readPieces]
    split
    · exact h.readPiece
    · split <;> exact hl

-- Writes of requests (R30, R31)

/-- What a place in tier memory says of its address. -/
theorem placeOf_dram {a c off : Nat} (h : placeOf a = .dram c off) : a = dramDpa c off := by
  simp only [placeOf] at h
  split at h
  · split at h
    · cases h; simp only [dramDpa]; omega
    · split at h <;> exact nomatch h
  · split at h
    · split at h <;> exact nomatch h
    · split at h <;> exact nomatch h

/-- What a place in core SRAM says of its address. -/
theorem placeOf_sram {a c off : Nat} (h : placeOf a = .sram c off) : a = sramDpa c off := by
  simp only [placeOf] at h
  split at h
  · split at h
    · exact nomatch h
    · split at h <;> exact nomatch h
  · split at h
    · split at h
      · cases h; simp only [sramDpa]; omega
      · exact nomatch h
    · split at h <;> exact nomatch h

/-- A written piece leaves the words that it does not touch. -/
theorem writePiece_keeps {a whole : Nat} {bs : List Byte} (h : outsideWords a bs.length x) (hw : writePiece s a whole bs = .done t) :
    KeepsByte x s t := by
  simp only [writePiece] at hw
  split at hw
  · exact nomatch hw
  · exact nomatch hw
  · exact nomatch hw
  · exact .of_stays (DStays.get_done hw (writeWindow_stays (.refl _ s) (.refl _))) (by decide)
  · next c off hp =>
    rw [placeOf_dram hp] at h
    simp only [writeDram] at hw
    split at hw
    · exact nomatch hw
    · split at hw
      · exact nomatch hw
      · rw [← DpaOut.done.inj hw]; exact dramWrite_keeps h
  · next c off hp =>
    rw [placeOf_sram hp] at h
    split at hw
    · exact nomatch hw
    · simp only [writeSram] at hw
      split at hw
      · exact nomatch hw
      · rw [← DpaOut.done.inj hw]; exact sramWrite_keeps h.outside

/-- A written piece leaves the waits. -/
theorem NoWait.writePiece {a whole : Nat} {bs : List Byte} (h : NoWait ch s) (hw : writePiece s a whole bs = .done t) :
    NoWait ch t := by
  simp only [Machine.writePiece] at hw
  split at hw
  · exact nomatch hw
  · exact nomatch hw
  · exact nomatch hw
  · simp only [writeWindow] at hw
    split at hw
    · exact nomatch hw
    split at hw
    · exact nomatch hw
    split at hw
    · next hd => rw [← DpaOut.done.inj hw]; exact h.windowWrite hd
    · exact nomatch hw
    · exact nomatch hw
  · exact h.of_stays (DStays.get_done hw (writeDram_stays (.refl _ s) (.refl _))) (by decide)
  · split at hw
    · exact nomatch hw
    · exact h.of_stays (DStays.get_done hw (writeSram_stays (.refl _ s) (.refl _))) (by decide)

/-- Pieces of a request that are written leave the words that the request does not touch, and the waits. -/
theorem writePieces_keeps {s0 : State} {whole : Nat} : ∀ {k a n : Nat} {s : State} {bs : List Byte}, outsideWords a n x →
    writePieces s0 whole s (dpaPieces k a n) bs = .done t → KeepsByte x s t ∧ (NoWait ch s → NoWait ch t)
  | 0, _, _, _, _, _, hw => by rw [← DpaOut.done.inj hw]; exact ⟨.refl _, id⟩
  | k + 1, a, n, s, bs, h, hw => by
    rw [dpaPieces] at hw
    split at hw
    · rw [← DpaOut.done.inj hw]; exact ⟨.refl _, id⟩
    rw [writePieces] at hw
    split at hw
    · next u hu =>
      have hlen : (bs.take (min n (pieceRoom a n))).length ≤ min n (pieceRoom a n) := List.length_take_le _ _
      obtain ⟨hkeep, hwait⟩ := writePieces_keeps (h.part (by omega) (by omega)) hw
      exact ⟨(writePiece_keeps (h.part (Nat.le_refl a) (by omega)) hu).trans hkeep, fun h0 => hwait (h0.writePiece hu)⟩
    · exact nomatch hw
    · exact nomatch hw

/-- A request that is written leaves the words that it does not touch, and the waits. -/
theorem dpaWrite_done {a : Nat} {bs : List Byte} (h : outsideWords a bs.length x) (hw : dpaWrite s a bs = .done t) :
    KeepsByte x s t ∧ (NoWait ch s → NoWait ch t) := writePieces_keeps h hw

/-- Pieces that fail leave their request unwritten (R30). -/
theorem writePieces_fail {s0 : State} {whole : Nat} {f : DpaFail} : ∀ {l : List (Nat × Nat)} {s : State} {bs : List Byte},
    writePieces s0 whole s l bs = .fail t f → t.mem = s0.mem ∧ t.region = s0.region
  | [], _, _, hw => nomatch hw
  | (a, n) :: l, s, bs, hw => by
    rw [writePieces] at hw
    split at hw
    · exact writePieces_fail hw
    · rw [← (DpaOut.fail.inj hw).1]; exact ⟨rfl, rfl⟩
    · exact nomatch hw

-- Transfers of descriptors (R277)

/-- A transfer's unit leaves a byte, whatever becomes of it; where it has moved, it leaves the waits. -/
def UnitOut.Leaves (x ch : Nat) (s : State) : UnitOut → Prop
  | .moved t => KeepsByte x s t ∧ NoWait ch t
  | .failed t _ => KeepsByte x s t
  | .waits t => KeepsByte x s t

/-- An effect leaves a byte. -/
def Eff.Leaves (x : Nat) (s : State) : Eff → Prop
  | .ok t _ => KeepsByte x s t
  | .fail t _ _ _ => KeepsByte x s t
  | .run t _ => KeepsByte x s t
  | .hold => True

/-- What follows an operation that keeps a byte. -/
theorem Eff.Leaves.after {e : Eff} (h : KeepsByte x s t) (he : e.Leaves x t) : e.Leaves x s := by
  cases e with
  | hold => trivial
  | _ => exact h.trans he

/-- A transfer that fails leaves what its last unit left. -/
theorem Eff.bad_leaves {d : Line} {f : DpaFail} {more : Nat} (h : KeepsByte x s t) : (Eff.bad t ch d f more).Leaves x s :=
  h.trans (.of_stays (report_stays (.refl _ t) (.refl _)) (by decide))

/-- Where no command of the channel waits, nothing behind it goes on. -/
theorem leaveWait_of_noWait {a : Nat} (h : NoWait ch s) : leaveWait s ch a = s := by
  simp only [leaveWait]
  split
  · next c _ => rw [h c]; rfl
  · rfl

/-- A unit written at an address leaves the words that it does not touch. -/
theorem putUnit_leaves {a : Nat} {bs : List Byte} (h : outsideWords a bs.length x) (h0 : NoWait ch s) :
    (putUnit s ch a bs).Leaves x ch s := by
  simp only [putUnit]
  split
  · exact KeepsByte.refl s
  split
  · next t ht =>
    obtain ⟨hkeep, hwait⟩ := dpaWrite_done (ch := ch) h ht
    rw [leaveWait_of_noWait (hwait h0)]
    exact ⟨hkeep, hwait h0⟩
  · next t f ht =>
    obtain ⟨hmem, hregion⟩ := writePieces_fail ht
    rw [leaveWait_of_noWait (h0.of_region hregion)]
    exact KeepsByte.of_mem hmem
  · exact KeepsByte.of_stays (waitAt_stays (.refl _ s) (.refl _)) (by decide)

/-- Units that each leave a byte leave it together. -/
theorem moveUnits_leaves {d : Line} {f : State → Nat → Nat → UnitOut}
    (hf : ∀ s pos n, NoWait ch s → pos + n ≤ copyLen d → (f s pos n).Leaves x ch s) :
    ∀ {k : Nat} {s : State} {pos : Nat}, NoWait ch s → (moveUnits ch d f k s pos).Leaves x s
  | 0, s, _, _ => KeepsByte.refl s
  | k + 1, s, pos, h0 => by
    simp only [moveUnits]
    split
    · exact KeepsByte.refl s
    · have hunit := hf s pos (min copyUnit (copyLen d - pos)) h0 (by omega)
      split
      · next t ht => rw [ht] at hunit; exact .after hunit.1 (moveUnits_leaves hf hunit.2)
      · next t e ht => rw [ht] at hunit; exact Eff.bad_leaves hunit
      · next t ht => rw [ht] at hunit; exact hunit

/-- A unit's fill is no longer than the unit. -/
theorem fillBytes_length_le (d : Line) (n : Nat) : (fillBytes d n).length ≤ n := by
  simp only [fillBytes, List.length_flatten, List.map_replicate, leBytes_length, List.sum_replicate_nat]
  omega

/-- A fill leaves every byte but its own: it stores whole words (R277). -/
theorem cpFillEff_leaves {d : Line} {g : Bool} (h0 : NoWait ch s) (h : outside (descAddr d) (copyLen d) x) :
    (cpFillEff s ⟨ch, g⟩ d).Leaves x s := by
  simp only [cpFillEff]
  split
  · exact KeepsByte.refl s
  · next haligned =>
    simp only [not_or, Decidable.not_not] at haligned
    obtain ⟨-, hlen, haddr⟩ := haligned
    refine moveUnits_leaves (fun t pos n ht hn => putUnit_leaves ?_ ht) h0
    have := fillBytes_length_le d n
    exact (h.words haddr hlen).part (by omega) (by omega)

/-- A piece that is read is no longer than it was asked for. -/
theorem readPiece_length {a n : Nat} {bs : List Byte} (h : (readPiece s a n).2 = .ok bs) : bs.length ≤ n := by
  have hdram : ∀ c off, (readDram s c off n).2 = .ok bs → bs.length ≤ n := fun c off h => by
    simp only [readDram] at h
    split at h
    · exact nomatch h
    · obtain rfl := Except.ok.inj h
      split
      · exact Nat.le_of_eq (rdBytes_length _ _ _)
      · exact Nat.le_of_eq (by rw [List.length_map, natsFrom_length])
  have hsram : ∀ c off, (readSram s c off n).2 = .ok bs → bs.length ≤ n := fun c off h => by
    simp only [readSram] at h
    split at h
    · exact nomatch h
    · obtain rfl := Except.ok.inj h
      exact Nat.le_of_eq (rdBytes_length _ _ _)
  simp only [readPiece] at h
  split at h
  · exact nomatch h
  · exact nomatch h
  · exact nomatch h
  · simp only [readWindow] at h
    split at h
    · exact nomatch h
    · obtain rfl := Except.ok.inj h
      exact List.length_take_le _ _
  · exact hdram _ _ h
  · split at h
    · exact nomatch h
    · exact hsram _ _ h

/-- A request that is read is no longer than it was asked for. -/
theorem readPieces_length : ∀ {k a n : Nat} {s : State} {bs : List Byte}, (readPieces s (dpaPieces k a n)).2 = .ok bs → bs.length ≤ n
  | 0, _, _, _, _, h => by obtain rfl := Except.ok.inj h; exact Nat.zero_le _
  | k + 1, a, n, s, bs, h => by
    rw [dpaPieces] at h
    split at h
    · obtain rfl := Except.ok.inj h; exact Nat.zero_le _
    rw [readPieces] at h
    dsimp only at h
    split at h
    · exact nomatch h
    · next hd =>
      split at h
      · exact nomatch h
      · next tl =>
        obtain rfl := Except.ok.inj h
        have h1 := readPiece_length hd
        have h2 := readPieces_length tl
        rw [List.length_append]
        omega

/-- One unit of a copy leaves the words outside its part of the destination. -/
theorem copyOne_leaves {d : Line} {pos n : Nat} (h0 : NoWait ch s)
    (h : bit d 65 = false ∨ outsideWords (descAddr2 d + pos) n x) : (copyOne ch d s pos n).Leaves x ch s := by
  have hread : NoWait ch (dpaRead s (descAddr d + pos) n).1 := h0.readPieces
  have hkeep : KeepsByte x s (dpaRead s (descAddr d + pos) n).1 := .of_stays (dpaRead_stays (.refl _ s) (.refl _)).fst (by decide)
  have hput : ∀ (u : State) (bs : List Byte), NoWait ch u → KeepsByte x s u → bs.length ≤ n →
      (if bit d 65 then putUnit u ch (descAddr2 d + pos) bs else .moved (hostWrite u (descAddr2 d + pos) bs)).Leaves x ch s :=
    fun u bs hu hk hlen => by
      split
      · next hdev =>
        have hout := (h.resolve_left (by rw [hdev]; exact nofun)).part (Nat.le_refl _) (Nat.add_le_add_left hlen _)
        have hleft := putUnit_leaves hout hu
        revert hleft
        cases putUnit u ch (descAddr2 d + pos) bs with
        | moved t => exact fun hl => ⟨hk.trans hl.1, hl.2⟩
        | failed t f => exact fun hl => hk.trans hl
        | waits t => exact fun hl => hk.trans hl
      · have hst := hostWrite_stays (n1 := descAddr2 d + pos) (n2 := bs) (.refl _ u) (.refl _)
        exact ⟨hk.trans (.of_stays hst (by decide)), hu.of_stays hst (by decide)⟩
  simp only [copyOne]
  split
  · exact KeepsByte.refl s
  by_cases hsrc : bit d 64 = true
  · simp only [hsrc, if_true]
    split
    · exact hkeep
    · next hd => exact hput _ _ hread hkeep (readPieces_length hd)
  · simp only [hsrc, Bool.false_eq_true, if_false]
    exact hput _ _ h0 (.refl s) (Nat.le_of_eq (rdBytes_length _ _ _))

/-- A copy leaves every byte outside the words of its destination, and in host memory every byte of device memory. -/
theorem cpCopyEff_leaves {d : Line} {g : Bool} (h0 : NoWait ch s) (h : bit d 65 = false ∨ outsideWords (descAddr2 d) (copyLen d) x) :
    (cpCopyEff s ⟨ch, g⟩ d).Leaves x s := by
  simp only [cpCopyEff]
  split
  · exact KeepsByte.refl s
  · exact moveUnits_leaves (fun t pos n ht hn => copyOne_leaves ht (h.imp_right fun h => h.part (by omega) (by omega))) h0

/-- Lines put into a mailbox leave every other byte (R277). -/
theorem cpPutEff_leaves {d : Line} {g : Bool} {m : Mailbox} (hm : mailboxOf s ch d false = .ok m)
    (h : outside (sramDpa m.core (64 * m.la)) (64 * boxLines d) x) : (cpPutEff s ⟨ch, g⟩ d).Leaves x s := by
  have hw : KeepsByte x s (sramWrite s m.core (64 * m.la) (rdBytes s.hostMem (descAddr d) (64 * boxLines d))).1 :=
    sramWrite_keeps (by rw [rdBytes_length]; exact h)
  simp only [cpPutEff, hm, writeSram]
  split
  · next hd =>
    split at hd
    · exact nomatch hd
    · rw [← DpaOut.done.inj hd]; exact hw
  · next hd =>
    split at hd
    · rw [← (DpaOut.fail.inj hd).1]; exact Eff.bad_leaves hw
    · exact nomatch hd
  · trivial

/-- A row whose effect leaves a byte leaves it. -/
theorem descRow_keeps {op i : Nat} {also : Line → Bool} {f : State → DescEnv → Line → Eff} {d : Line}
    (hn : nextEntry (s.chanAt ch) = some (i, d)) (h : (f s ⟨ch, false⟩ d).Leaves x s) : KeepsByte x s (descRow s ch op also f) := by
  simp only [descRow, runDesc, hn]
  split
  · exact .refl s
  · have heff : (if reservedElsewhere s ch d then Eff.no s .stateConflict
        else if readsHost d && !s.canMaster then .hold else f s ⟨ch, false⟩ d).Leaves x s := by
      split
      · exact KeepsByte.refl s
      · split
        · trivial
        · exact h
    revert heff
    cases (if reservedElsewhere s ch d then Eff.no s .stateConflict
        else if readsHost d && !s.canMaster then .hold else f s ⟨ch, false⟩ d) with
    | ok t det => exact id
    | fail t st unit more => exact id
    | run t pos => exact id
    | hold => exact fun _ => .refl s

/-- The entry that is next in a channel. -/
theorem nextEntry_of_nextDesc {i op : Nat} {d : Line} (h : nextDesc s ch i d op = true) : nextEntry (s.chanAt ch) = some (i, d) := by
  simp only [nextDesc, Bool.and_eq_true, decide_eq_true_eq] at h
  exact h.1.1.1

-- The plan load (R153, R155)

/-- A range of a core's memory at a place of an image. -/
theorem Img.bytes_length (im : Img) (a n : Nat) : (im.bytes a n).length = n := rdBytes_length _ _ _

/-- The SRAM extents of an image, written up to a limit, leave every other byte. -/
theorem writeSrams_keeps {im : Img} {limit : Nat → Nat} (h : ∀ e ∈ im.srams, outside (sramDpa e.core e.off) e.bytes x) :
    KeepsByte x s (writeSrams im limit s) := by
  refine KeepsByte.foldl _ (fun e he u => sramWrite_keeps ((h e he).part (Nat.le_refl _) ?_)) s
  rw [Img.bytes_length]
  omega

/-- The DRAM extents of an image leave the words that they do not touch. -/
theorem writeDrams_keeps {im : Img} : ∀ {l : List Extent} {s : State}, (∀ e ∈ l, outsideWords (dramDpa e.core e.off) e.bytes x) →
    KeepsByte x s (writeDrams im s l).1
  | [], s, _ => .refl s
  | e :: l, s, h => by
    have he : outsideWords (dramDpa e.core e.off) (im.bytes e.data e.bytes).length x := by
      rw [Img.bytes_length]; exact h e List.mem_cons_self
    have hw : KeepsByte x s (dramWrite s e.core e.off (im.bytes e.data e.bytes)).1 := dramWrite_keeps he
    simp only [writeDrams, writeDram]
    split
    · next hd =>
      split at hd
      · exact nomatch hd
      split at hd
      · exact nomatch hd
      · rw [← DpaOut.done.inj hd]
        exact hw.trans (writeDrams_keeps fun e' he' => h e' (List.mem_cons_of_mem _ he'))
    · next hd =>
      split at hd
      · rw [← (DpaOut.fail.inj hd).1]; exact .refl s
      split at hd
      · rw [← (DpaOut.fail.inj hd).1]; exact hw
      · exact nomatch hd
    · exact .refl s

/-- What a plan declares is no memory. -/
theorem declared_keeps (u : State) (p : Nat) (v : Partition) :
    KeepsByte x u (installDeclared (removeRoutes (u.setPart p v) p) p) :=
  .of_stays (installDeclared_stays (removeRoutes_stays (setPart_stays (Stays.refl [.part, .routes] u) ⟨by decide⟩) ⟨by decide⟩)
    ⟨by decide⟩) (by decide)

/-- An image without a restore leaves every byte outside its extents. -/
theorem applyImage_keeps {p : Nat} {v : Partition} {im : Img} {pl : Plan} (hr : im.restore = 0)
    (hs : ∀ e ∈ im.srams, outside (sramDpa e.core e.off) e.bytes x)
    (hd : ∀ e ∈ im.drams, outsideWords (dramDpa e.core e.off) e.bytes x) : KeepsByte x s (applyImage s p v im pl).1 := by
  have hstop : KeepsByte x s (stopCores (detachSnaps s p) p) :=
    (KeepsByte.of_mem (s := s) (t := detachSnaps s p) rfl).trans (.of_stays (stopCores_stays (.refl _ _) (.refl _)) (by decide))
  have hw : ∀ limit : Nat → Nat, KeepsByte x s (writeDrams im (writeSrams im limit (stopCores (detachSnaps s p) p)) im.drams).1 :=
    fun limit => hstop.trans ((writeSrams_keeps hs).trans (writeDrams_keeps hd))
  simp only [applyImage, hr, if_true]
  split
  · exact hw _
  · dsimp only
    exact (hw _).trans (declared_keeps _ p (v.withPlan pl))

/-- A PART_LOAD whose image passes its checks leaves every byte outside its extents, whether it is written at once or waits for its
regions. -/
theorem partLoadEff_leaves {d : Line} {v : Partition} {im : Img} {pl : Plan} (hp : s.part? (descPart d) = some v) (hf : v.state = .free)
    (hc : checkLoad ((applyBankQuar s).modPart (descPart d) fun v => { v with state := .free }) ch (descPart d) v d = (t, .ok (im, pl)))
    (hr : im.restore = 0) (hw : (applyImage t (descPart d) v im pl).2 = none)
    (hs : ∀ e ∈ im.srams, outside (sramDpa e.core e.off) e.bytes x)
    (hd : ∀ e ∈ im.drams, outsideWords (dramDpa e.core e.off) e.bytes x) : (partLoadEff s ⟨ch, false⟩ d).Leaves x s := by
  have hchecked : KeepsByte x s t := by
    have hquar : KeepsByte x s (applyBankQuar s) := .of_stays (applyBankQuar_stays (.refl _ s) (.refl _)) (by decide)
    have hfree : KeepsByte x (applyBankQuar s) ((applyBankQuar s).modPart (descPart d) fun v => { v with state := .free }) :=
      .of_stays (modPart_stays (.refl _ _) (.refl _)) (by decide)
    have hcheck := checkLoad_stays (n1 := ch) (n2 := descPart d) (n3 := v) (n4 := d)
      (.refl _ ((applyBankQuar s).modPart (descPart d) fun v => { v with state := .free })) (.refl _)
    rw [hc] at hcheck
    exact hquar.trans (hfree.trans (.of_stays hcheck.fst (by decide)))
  have hrequest : ∀ rs : List (Nat × Nat),
      KeepsByte x t ((rs.foldl requestRegion t).modPart (descPart d) fun v => { v with state := .loading }) := fun rs =>
    .of_stays (modPart_stays (Stays.foldl _ (fun _ _ h => requestRegion_stays h ⟨by decide⟩) (.refl [.pwr, .part] t)) ⟨by decide⟩)
      (by decide)
  simp only [partLoadEff, hp, hf, hc, ne_eq, not_true_eq_false, if_false, Bool.false_or]
  split
  · simp only [commitLoad, hw]
    exact hchecked.trans (applyImage_keeps hr hs hd)
  · exact hchecked.trans (hrequest _)

end Sys2Proof.Machine
end

section
/-! PROOFS. What happens to the ops that run and wait in a core when others fault, end or reset (04_tile_operations.md: Sequencer state,
Faults in ops). -/

namespace Sys2Proof.Machine

variable {s t u : State} {c j : Nat} {k k' k'' : Core}

-- The ops that run in a core

/-- The ops that run and wait in a core, and what its sequencer waits for, are the same. -/
structure SameOps (k k' : Core) : Prop where
  runs : k'.inflight = k.inflight
  queued : k'.queued = k.queued
  wait : k'.wait = k.wait

theorem SameOps.refl (k : Core) : SameOps k k := ⟨rfl, rfl, rfl⟩
theorem SameOps.trans (h : SameOps k k') (h' : SameOps k' k'') : SameOps k k'' :=
  ⟨h'.runs.trans h.runs, h'.queued.trans h.queued, h'.wait.trans h.wait⟩
theorem SameOps.foldl {β : Type} {f : Core → β → Core} (hf : ∀ k e, SameOps k (f k e)) : ∀ (l : List β) (k : Core),
    SameOps k (l.foldl f k)
  | [], k => .refl k
  | e :: l, k => (hf k e).trans (SameOps.foldl hf l _)

/-- No op has joined those that run or wait in a core, and no SNAP barrier is newly waited for. -/
structure NoneJoins (k k' : Core) : Prop where
  runs : ∀ r ∈ k'.inflight, ∃ y ∈ k.inflight, r.rcd = y.rcd
  queued : ∀ q ∈ k'.queued, q ∈ k.queued
  wait : k'.wait = k.wait ∨ ∀ id, k'.wait ≠ some (.bar id true)

theorem NoneJoins.of_same (h : SameOps k k') : NoneJoins k k' :=
  ⟨fun r hr => ⟨r, h.runs ▸ hr, rfl⟩, fun _ hq => h.queued ▸ hq, .inl h.wait⟩
theorem NoneJoins.refl (k : Core) : NoneJoins k k := .of_same (.refl k)
theorem NoneJoins.trans (h : NoneJoins k k') (h' : NoneJoins k' k'') : NoneJoins k k'' where
  runs r hr := by
    obtain ⟨y, hy, e⟩ := h'.runs r hr
    obtain ⟨z, hz, e'⟩ := h.runs y hy
    exact ⟨z, hz, e.trans e'⟩
  queued q hq := h.queued q (h'.queued q hq)
  wait := by
    rcases h'.wait with e | hn
    · rw [e]; exact h.wait
    · exact .inr hn

/-- A reset of the compute domain leaves no op. -/
theorem resetCompute_noneJoins (k : Core) : NoneJoins k k.resetCompute :=
  ⟨fun _ h => absurd h List.not_mem_nil, fun _ h => absurd h List.not_mem_nil, .inr fun _ => nofun⟩
/-- A fault drops what waits. -/
theorem toFaulted_noneJoins (k : Core) : NoneJoins k k.toFaulted :=
  ⟨fun r h => ⟨r, h, rfl⟩, fun _ h => absurd h List.not_mem_nil, .inr fun _ => nofun⟩
/-- An op that leaves its unit leaves the others. -/
theorem dropRun_noneJoins (k : Core) (w : OpUnit) : NoneJoins k (k.dropRun w) :=
  ⟨fun r h => ⟨r, List.mem_of_mem_eraseP h, rfl⟩, fun _ h => h, .inl rfl⟩

-- Along an operation of the machine

/-- No op joins those of a core between two states. -/
def NoneJoinsAt (c : Nat) (s t : State) : Prop := NoneJoins (s.coreAt c) (t.coreAt c)
/-- The ops of a core are the same in two states. -/
def SameOpsAt (c : Nat) (s t : State) : Prop := SameOps (s.coreAt c) (t.coreAt c)

theorem NoneJoinsAt.refl (s : State) : NoneJoinsAt c s s := NoneJoins.refl _
theorem NoneJoinsAt.trans (h : NoneJoinsAt c s t) (h' : NoneJoinsAt c t u) : NoneJoinsAt c s u := NoneJoins.trans h h'
theorem SameOpsAt.refl (s : State) : SameOpsAt c s s := SameOps.refl _
theorem SameOpsAt.trans (h : SameOpsAt c s t) (h' : SameOpsAt c t u) : SameOpsAt c s u := SameOps.trans h h'
theorem SameOpsAt.joins (h : SameOpsAt c s t) : NoneJoinsAt c s t := .of_same h

/-- What changes no core changes no op. -/
theorem SameOpsAt.of_stays {L : List Field} (h : Stays L s t) (hc : Field.core ∉ L) : SameOpsAt c s t := by
  rw [SameOpsAt, State.coreAt, State.coreAt, h.frame .core hc]; exact .refl _
theorem NoneJoinsAt.of_stays {L : List Field} (h : Stays L s t) (hc : Field.core ∉ L) : NoneJoinsAt c s t :=
  (SameOpsAt.of_stays h hc).joins

theorem SameOpsAt.modCore {f : Core → Core} (hf : ∀ k, SameOps k (f k)) (s : State) : SameOpsAt c s (s.modCore j f) := by
  by_cases h : c = j
  · subst h; rw [SameOpsAt, State.coreAt_modCore]; exact hf _
  · rw [SameOpsAt, State.coreAt_modCore_ne _ _ _ _ h]; exact .refl _
theorem NoneJoinsAt.modCore {f : Core → Core} (hf : ∀ k, NoneJoins k (f k)) (s : State) : NoneJoinsAt c s (s.modCore j f) := by
  by_cases h : c = j
  · subst h; rw [NoneJoinsAt, State.coreAt_modCore]; exact hf _
  · rw [NoneJoinsAt, State.coreAt_modCore_ne _ _ _ _ h]; exact .refl _

theorem SameOpsAt.foldl {β : Type} {f : State → β → State} (hf : ∀ s e, SameOpsAt c s (f s e)) : ∀ (l : List β) (s : State),
    SameOpsAt c s (l.foldl f s)
  | [], s => .refl s
  | e :: l, s => (hf s e).trans (SameOpsAt.foldl hf l _)
theorem NoneJoinsAt.foldl {β : Type} {f : State → β → State} (hf : ∀ s e, NoneJoinsAt c s (f s e)) : ∀ (l : List β) (s : State),
    NoneJoinsAt c s (l.foldl f s)
  | [], s => .refl s
  | e :: l, s => (hf s e).trans (NoneJoinsAt.foldl hf l _)

-- Faults, resets and counters (R98, R129, R156, R389)

/-- The end of every op of a partition lets none join. -/
theorem stopCores_joins (s : State) (p : Nat) : NoneJoinsAt c s (stopCores s p) := by
  simp only [stopCores]
  split
  · exact NoneJoinsAt.foldl (fun s e => (NoneJoinsAt.of_stays (abortOps_stays (.refl _ s) (.refl _)) (by decide)).trans
      (.modCore resetCompute_noneJoins _)) _ s
  · exact .refl s

/-- What FAILED takes from a partition lets no op join. -/
theorem failPartition_joins (s : State) (p : Nat) : NoneJoinsAt c s (failPartition s p) := by
  simp only [failPartition]
  split
  · exact .refl s
  split
  · exact .refl s
  · have hbegin : NoneJoinsAt c s (dropCopy (dropSnapReq (endQuiesce s p .stateConflict) p) p) :=
      .of_stays (dropCopy_stays (dropSnapReq_stays (endQuiesce_stays (.refl [.hst, .part, .snaps] s) ⟨by decide⟩) ⟨by decide⟩)
        ⟨by decide⟩) (by decide)
    refine hbegin.trans ((stopCores_joins _ p).trans (.of_stays (L := [.bars, .part, .ras, .lnk, .stream, .linkCorr, .routes])
      (settleRouters_stays (modPart_stays (clearArrivals_stays (removeRoutes_stays (resetStreams_stays (.refl _ _) ⟨by decide⟩)
        ⟨by decide⟩) ⟨by decide⟩) ⟨by decide⟩) ⟨by decide⟩) (by decide)))

/-- A record lets no op join. -/
theorem report_joins (s : State) (r : Report) (late : Bool) : NoneJoinsAt c s (report s r late) :=
  .of_stays (report_stays (.refl _ s) (.refl _)) (by decide)

/-- A changed partition lets no op join. -/
theorem modPart_joins (s : State) (p : Nat) (f : Partition → Partition) : NoneJoinsAt c s (s.modPart p f) :=
  .of_stays (modPart_stays (.refl _ s) (.refl _)) (by decide)

/-- A recovery that starts again lets no op join. -/
theorem restartRecovery_joins (s : State) (p : Nat) (r : Report) : NoneJoinsAt c s (restartRecovery s p r) := by
  simp only [restartRecovery]
  split
  · exact .refl s
  split
  · exact (modPart_joins _ _ _).trans ((failPartition_joins _ p).trans (report_joins _ _ _))
  · exact .of_stays (L := [.ras, .hostMem, .hst, .bars, .part]) (modPart_stays (clearArrivals_stays (report_stays
      (retestAction_stays (.refl _ s) ⟨by decide⟩).fst ⟨by decide⟩) ⟨by decide⟩) ⟨by decide⟩) (by decide)

/-- A fault in a partition lets no op join. -/
theorem partFault_joins (s : State) (p : Nat) (r : Report) : NoneJoinsAt c s (partFault s p r) := by
  simp only [partFault]
  split
  · exact report_joins _ _ _
  split
  · split
    · exact (modPart_joins _ _ _).trans ((failPartition_joins _ p).trans (report_joins _ _ _))
    · exact .of_stays (L := [.ras, .hostMem, .hst, .part]) (modPart_stays (report_stays
        (retestAction_stays (dropSnapReq_stays (.refl _ s) ⟨by decide⟩) ⟨by decide⟩).fst ⟨by decide⟩) ⟨by decide⟩) (by decide)
  · split
    · exact restartRecovery_joins _ _ _
    · exact report_joins _ _ _
  · exact report_joins _ _ _

/-- A fault of an op lets none join. -/
theorem opFault_joins (s : State) (i : Nat) (r : Report) : NoneJoinsAt c s (opFault s i r) := by
  have hfault : NoneJoinsAt c s (s.modCore i Core.toFaulted) := .modCore toFaulted_noneJoins s
  simp only [opFault]
  split
  · split
    · exact hfault.trans (report_joins _ _ _)
    · exact hfault.trans (partFault_joins _ _ _)
  · exact hfault.trans (report_joins _ _ _)

/-- A sync counter that is incremented lets no op join. -/
theorem bumpCnt_joins (s : State) (i ctr : Nat) (r : Report) : NoneJoinsAt c s (bumpCnt s i ctr r) := by
  simp only [bumpCnt]
  split
  · exact opFault_joins _ _ _
  · refine .modCore (fun k => ?_) s
    exact .of_same ⟨rfl, rfl, rfl⟩

/-- DONE of a record lets no op join. -/
theorem doneRec_joins (s : State) (i index : Nat) (r : Rec) : NoneJoinsAt c s (doneRec s i index r) := by
  simp only [doneRec]
  split
  · exact bumpCnt_joins _ _ _ _
  · exact .refl s

/-- An op that ends with a status lets none join. -/
theorem endOp_joins (s : State) (i : Nat) (r : OpRun) (st : Status) (code : Nat) : NoneJoinsAt c s (endOp s i r st code) :=
  (NoneJoinsAt.modCore (fun k => dropRun_noneJoins k r.unit) s).trans (opFault_joins _ _ _)

/-- A core's compute domain that is held in reset lets no op join. -/
theorem fenceCore_joins (s : State) (i : Nat) (router : Bool) : NoneJoinsAt c s (fenceCore s i router) := by
  have hreset : ∀ (u : State) (q : Ras) (raw : Option (BitVec 48)),
      NoneJoinsAt c u (State.modCore { u with ras := q } i fun k => { k.resetCompute with frozen := raw }) := fun u q raw => by
    refine NoneJoinsAt.modCore (fun k => ?_) { u with ras := q }
    exact (resetCompute_noneJoins k).trans (.of_same ⟨rfl, rfl, rfl⟩)
  have hended : NoneJoinsAt c s (keepStored (abortOps s i)) :=
    .of_stays (keepStored_stays (abortOps_stays (Stays.refl [.hostMem, .hst, .ras] s) ⟨by decide⟩) ⟨by decide⟩) (by decide)
  exact hended.trans (hreset _ _ _)

/-- A core that is quarantined lets no op join. -/
theorem quarantineCore_joins (s : State) (i : Nat) (router : Bool) (r : Report) : NoneJoinsAt c s (quarantineCore s i router r) := by
  have hend : ∀ (u : State) (r : Report), NoneJoinsAt c u (checkDegraded (report u r)) := fun u r =>
    (report_joins u r _).trans (.of_stays (checkDegraded_stays (.refl _ _) (.refl _)) (by decide))
  simp only [quarantineCore]
  split
  · exact (fenceCore_joins s i router).trans ((failPartition_joins _ _).trans (hend _ _))
  · exact (fenceCore_joins s i router).trans (hend _ _)

end Sys2Proof.Machine
end

section
/-! PROOFS. Lines that the ops of a core take from the mesh: where they are stored (04_tile_operations.md: Mesh ops). -/

namespace Sys2Proof.Machine

variable {s t u : State} {c x : Nat}

-- Accesses of core SRAM

/-- A corrected word of SRAM is counted, and the ops stay. -/
theorem sramCorrected_same (s : State) (i off : Nat) : SameOpsAt c s (sramCorrected s i off) := by
  have hcount : SameOpsAt c s (s.modCore i fun k => { k with ctr := mmod k.ctr 21 0 (· + 1) }) := by
    refine .modCore (fun k => ?_) s
    exact ⟨rfl, rfl, rfl⟩
  exact hcount.trans (.of_stays (report_stays (.refl _ _) (.refl _)) (by decide))

/-- A read of SRAM leaves the ops. -/
theorem sramRead_same (s : State) (i off n : Nat) : SameOpsAt c s (sramRead s i off n).1 := by
  refine keeps_foldl (P := fun acc : State × Option Nat => SameOpsAt c s acc.1) (fun acc e hacc => ?_) _ (.refl s)
  dsimp only
  split
  · exact hacc
  split
  · exact hacc.trans (sramCorrected_same _ _ _)
  · exact hacc

/-- A write of SRAM leaves the ops. -/
theorem sramWrite_same (s : State) (i off : Nat) (bs : List Byte) : SameOpsAt c s (sramWrite s i off bs).1 := by
  simp only [sramWrite]
  split
  · exact .refl s
  · exact SameOpsAt.foldl (f := fun st (e : Nat × WordErr) => sramCorrected st i (e.1 * 8 - sramDpa i 0))
      (fun _ _ => sramCorrected_same _ _ _) _ s

-- Ops that move on

/-- An op that takes lines of a link to SRAM or forms them: RED and RCV. -/
def takesLines (r : Rec) : Prop := opOf r = 0x05 ∨ opOf r = 0x0C

/-- A running op has moved on: its record is the same, no line comes twice, and while it still runs it has not taken its last. -/
structure Onward (r r' : OpRun) : Prop where
  rcd : r'.rcd = r.rcd
  pos : r.pos ≤ r'.pos
  short : r'.busy = true → takesLines r.rcd → (r.busy = true ∧ r'.pos = r.pos) ∨ r'.pos < lineCount r.rcd

theorem Onward.refl (r : OpRun) : Onward r r := ⟨rfl, Nat.le_refl _, fun h _ => .inl ⟨h, rfl⟩⟩
theorem Onward.trans {r r' r'' : OpRun} (h : Onward r r') (h' : Onward r' r'') : Onward r r'' where
  rcd := h'.rcd.trans h.rcd
  pos := Nat.le_trans h.pos h'.pos
  short hb ho := by
    rcases h'.short hb (by rw [h.rcd]; exact ho) with ⟨hb', hp⟩ | hlt
    · rw [hp]; exact h.short hb' ho
    · rw [h.rcd] at hlt; exact .inr hlt

/-- An op that stops takes no line more. -/
theorem Onward.stop {r r' : OpRun} (h : Onward r r') (st : Status) (sub : Nat) (det : BitVec 192) : Onward r (r'.stop st sub det) :=
  ⟨h.rcd, h.pos, nofun⟩

/-- The ops of a core have moved on, and what waits is the same. -/
structure MovedOn (k k' : Core) : Prop where
  runs : ∀ r' ∈ k'.inflight, ∃ r ∈ k.inflight, Onward r r'
  queued : k'.queued = k.queued
  wait : k'.wait = k.wait

theorem MovedOn.of_same {k k' : Core} (h : SameOps k k') : MovedOn k k' :=
  ⟨fun r hr => ⟨r, h.runs ▸ hr, .refl r⟩, h.queued, h.wait⟩
theorem MovedOn.trans {k k' k'' : Core} (h : MovedOn k k') (h' : MovedOn k' k'') : MovedOn k k'' where
  runs r hr := by
    obtain ⟨y, hy, e⟩ := h'.runs r hr
    obtain ⟨z, hz, e'⟩ := h.runs y hy
    exact ⟨z, hz, e'.trans e⟩
  queued := h'.queued.trans h.queued
  wait := h'.wait.trans h.wait

/-- Ops that move on let none join. -/
theorem MovedOn.joins {k k' : Core} (h : MovedOn k k') : NoneJoins k k' where
  runs r hr := let ⟨y, hy, e⟩ := h.runs r hr; ⟨y, hy, e.rcd⟩
  queued _ hq := h.queued ▸ hq
  wait := .inl h.wait

/-- The ops of a core have moved on between two states. -/
def MovedOnAt (c : Nat) (s t : State) : Prop := MovedOn (s.coreAt c) (t.coreAt c)

theorem MovedOnAt.trans (h : MovedOnAt c s t) (h' : MovedOnAt c t u) : MovedOnAt c s u := MovedOn.trans h h'
theorem SameOpsAt.moved (h : SameOpsAt c s t) : MovedOnAt c s t := .of_same h

/-- One of the ops of a core moves on. -/
theorem updRun_moved {r r' : OpRun} (hr : r ∈ (s.coreAt c).inflight) (h : Onward r r') : MovedOnAt c s (updRun s c r') := by
  rw [MovedOnAt, updRun, State.coreAt_modCore]
  refine ⟨fun y hy => ?_, rfl, rfl⟩
  obtain ⟨z, hz, rfl⟩ := List.mem_map.mp hy
  split
  · exact ⟨r, hr, h⟩
  · exact ⟨z, hz, .refl z⟩

-- The lines that are still due

/-- Byte x stands outside the lines that the ops of a core still store as they arrive, and no such op has run past its last. -/
structure OutsideDue (c x : Nat) (k : Core) : Prop where
  due : ∀ r ∈ k.inflight, ∀ o ∈ linesDue r, outside (sramDpa c o) 64 x
  short : ∀ r ∈ k.inflight, r.busy = true → takesLines r.rcd → r.pos < lineCount r.rcd

/-- An op that has moved on has no line due that was not due before. -/
theorem linesDue_onward {r r' : OpRun} (h : Onward r r') {o : Nat} (ho : o ∈ linesDue r') : o ∈ linesDue r := by
  have hpos := h.pos
  simp only [linesDue, h.rcd] at ho ⊢
  split at ho
  · next hop =>
    rw [if_pos hop]
    obtain ⟨i, hi, rfl⟩ := List.mem_map.mp ho
    rw [mem_natsFrom] at hi
    exact List.mem_map.mpr ⟨i, mem_natsFrom.mpr (by omega), rfl⟩
  · exact absurd ho List.not_mem_nil

/-- What is due stays so as ops move on. -/
theorem OutsideDue.moved {k k' : Core} (h : OutsideDue c x k) (hm : MovedOn k k') : OutsideDue c x k' where
  due r' hr' o ho := by
    obtain ⟨r, hr, hon⟩ := hm.runs r' hr'
    exact h.due r hr o (linesDue_onward hon ho)
  short r' hr' hb ho := by
    obtain ⟨r, hr, hon⟩ := hm.runs r' hr'
    rw [hon.rcd] at ho ⊢
    rcases hon.short hb ho with ⟨hb', hp⟩ | hlt
    · rw [hp]; exact h.short r hr hb' ho
    · exact hlt

/-- The next line of an RCV, or of a RED that keeps its results, is due. -/
theorem OutsideDue.next {r : OpRun} (h : OutsideDue c x (s.coreAt c)) (hr : r ∈ (s.coreAt c).inflight) (hb : r.busy = true)
    (hop : opOf r.rcd = 0x0C ∨ opOf r.rcd = 0x05 ∧ bit r.rcd 84 = true) : outside (sramDpa c (lineOffset r.rcd r.pos)) 64 x := by
  have hlt := h.short r hr hb (hop.elim .inr fun h => .inl h.1)
  refine h.due r hr _ ?_
  rw [linesDue, if_pos hop]
  exact List.mem_map.mpr ⟨r.pos, mem_natsFrom.mpr (by omega), rfl⟩

-- Lines that move (R108, R114)

/-- A line that an op stores: the op stays where it is, or stops. -/
theorem writeLine_onward {r r' : OpRun} {la : Nat} {bs : List Byte} (h : Onward r r') : Onward r (writeLine s c r' la bs).2 := by
  simp only [writeLine]
  split
  · exact h
  · exact h.stop _ _ _

/-- Storing it leaves the ops of the core. -/
theorem writeLine_same (s : State) (c : Nat) (r : OpRun) (la : Nat) (bs : List Byte) : SameOpsAt c s (writeLine s c r la bs).1 := by
  simp only [writeLine]
  split <;> exact sramWrite_same _ _ _ _

/-- It stores at its own bytes. -/
theorem writeLine_keeps {r : OpRun} {la : Nat} {bs : List Byte} (hl : bs.length ≤ 64) (h : outside (sramDpa c (64 * la)) 64 x) :
    KeepsByte x s (writeLine s c r la bs).1 := by
  have hout : outside (sramDpa c (64 * la)) bs.length x := h.part (Nat.le_refl _) (Nat.add_le_add_left hl _)
  simp only [writeLine]
  split <;> exact sramWrite_keeps hout

/-- A changed run is no memory. -/
theorem updRun_keeps (s : State) (c : Nat) (r : OpRun) : KeepsByte x s (updRun s c r) :=
  .of_stays (updRun_stays (.refl _ s) (.refl _)) (by decide)

/-- A line that a SND sends is stored nowhere. -/
theorem moveSnd_moves {r : OpRun} (hop : opOf r.rcd = 0x0B) (hr : r ∈ (s.coreAt c).inflight) (h : moveSnd s c r = some t) :
    MovedOnAt c s t ∧ KeepsByte x s t := by
  refine ⟨?_, .of_stays (OStays.get h (moveSnd_stays (.refl _ s) (.refl _))) (by decide)⟩
  have hread := sramRead_same (c := c) s c (64 * lineAddr r.rcd r.pos) 64
  have hr' : r ∈ ((sramRead s c (64 * lineAddr r.rcd r.pos) 64).1.coreAt c).inflight := by rw [hread.runs]; exact hr
  simp only [moveSnd] at h
  split at h
  · exact nomatch h
  split at h
  · rw [← Option.some.inj h]
    exact hread.moved.trans (updRun_moved hr' ((Onward.refl r).stop _ _ _))
  · rw [← Option.some.inj h]
    refine (hread.moved.trans (updRun_moved hr' ?_)).trans
      (SameOpsAt.of_stays (sendLine_stays (.refl _ _) (.refl _)) (by decide)).moved
    exact ⟨rfl, Nat.le_succ _, fun _ ho => absurd ho (by rw [takesLines, hop]; decide)⟩

/-- An RCV stores its next line where it is due (R114). -/
theorem moveRcv_moves {r : OpRun} (hop : opOf r.rcd = 0x0C) (hb : r.busy = true) (hr : r ∈ (s.coreAt c).inflight)
    (hd : OutsideDue c x (s.coreAt c)) (h : moveRcv s c r = some t) : MovedOnAt c s t ∧ KeepsByte x s t := by
  have hline : outside (sramDpa c (64 * lineAddr r.rcd r.pos)) 64 x := by
    have := hd.next hr hb (.inl hop)
    rwa [lineOffset, if_pos hop] at this
  simp only [moveRcv] at h
  split at h
  · exact nomatch h
  · next b u hu =>
    have htake := OQStays.get hu (takeHead_stays (.refl _ s) (.refl _))
    have hsame : SameOpsAt c s u := .of_stays htake (by decide)
    rw [← Option.some.inj h]
    have hon : Onward r { r with pos := r.pos + 1, busy := decide (r.pos + 1 < bits r.rcd 87 72) } :=
      ⟨rfl, Nat.le_succ _, fun hlt _ => .inr (by rw [lineCount, if_pos hop]; exact decide_eq_true_eq.mp hlt)⟩
    have hw := writeLine_same u c { r with pos := r.pos + 1, busy := decide (r.pos + 1 < bits r.rcd 87 72) } (lineAddr r.rcd r.pos)
      (bytesOf b.line 64)
    refine ⟨(hsame.trans hw).moved.trans (updRun_moved (r := r) ?_ ?_), ?_⟩
    · rw [(hsame.trans hw).runs]; exact hr
    · exact keeps_ite (P := Onward r) ((writeLine_onward hon).stop _ _ _) (writeLine_onward hon)
    · exact (KeepsByte.of_stays htake (by decide)).trans
        ((writeLine_keeps (Nat.le_of_eq (bytesOf_length _ _)) hline).trans (updRun_keeps _ _ _))

/-- A line of a RED is no longer than 64 bytes. -/
theorem redLine_length (rd : Nat → Byte) (r : Rec) (ls : List Line) (n : Nat) : (redLine rd r ls n).1.length ≤ 64 := by
  simp only [redLine, packResults, packElems, show ¬(32 : Nat) = 4 by decide, if_false, List.length_flatMap, leBytes_length,
    List.map_const', List.sum_replicate_nat, List.length_map, natsFrom_length]
  omega

/-- Lines that a RED sends leave the ops and the memory. -/
theorem sendLines_stays (outs : List Nat) (s : State) (c st : Nat) (l : Line) :
    Stays [.time, .lnk, .stream, .turn] s (outs.foldl (fun s p => sendLine s c p st l false) s) :=
  Stays.foldl _ (fun _ _ h => sendLine_stays h (.refl _)) (.refl _ s)

/-- A RED stores its next line, where it keeps its results, at the line that is due (R108). -/
theorem moveRed_moves {r : OpRun} (hop : opOf r.rcd = 0x05) (hb : r.busy = true) (hr : r ∈ (s.coreAt c).inflight)
    (hd : OutsideDue c x (s.coreAt c)) (h : moveRed s c r = some t) : MovedOnAt c s t ∧ KeepsByte x s t := by
  have hread := sramRead_same (c := c) s c (64 * bits r.rcd 143 128 + (redReads r.rcd r.pos).1) (redReads r.rcd r.pos).2
  have hkeep : KeepsByte x s (sramRead s c (64 * bits r.rcd 143 128 + (redReads r.rcd r.pos).1) (redReads r.rcd r.pos).2).1 :=
    .of_stays (sramRead_stays (.refl _ s) (.refl _)).fst (by decide)
  simp only [moveRed] at h
  split at h
  · exact nomatch h
  split at h
  · rw [← Option.some.inj h]
    exact ⟨hread.moved.trans (updRun_moved (by rw [hread.runs]; exact hr) ((Onward.refl r).stop _ _ _)),
      hkeep.trans (updRun_keeps _ _ _)⟩
  · exact nomatch h
  · next bs u _ hu =>
    have htake := OQStays.get hu (takeHeads_stays (.refl _ _) (.refl _))
    have hsend := sendLines_stays (redPorts (bits r.rcd 79 74)) u c (bits r.rcd 83 80)
      (lineOfBytes (redLine (sramRd u c) r.rcd (bs.map fun b => b.2.line) r.pos).1)
    have hsame := hread.trans ((SameOpsAt.of_stays htake (by decide)).trans (.of_stays hsend (by decide)))
    have hkept := hkeep.trans ((KeepsByte.of_stays htake (by decide)).trans (.of_stays hsend (by decide)))
    have hon : ∀ fl : Flags, Onward r { r with flags := fl, pos := r.pos + 1, busy := decide (r.pos + 1 < redLines r.rcd) } := fun fl =>
      ⟨rfl, Nat.le_succ _, fun hlt _ => .inr (by rw [lineCount, hop]; exact decide_eq_true_eq.mp hlt)⟩
    rw [← Option.some.inj h]
    by_cases hstore : bit r.rcd 84 = true
    · have hline : outside (sramDpa c (64 * (bits r.rcd 159 144 + (r.pos + 1) - 1))) 64 x := by
        have := hd.next hr hb (.inr ⟨hop, hstore⟩)
        rw [lineOffset, hop] at this
        exact this
      have hw := hsame.trans (writeLine_same _ c { r with
        flags := r.flags ||| (redLine (sramRd u c) r.rcd (bs.map fun b => b.2.line) r.pos).2, pos := r.pos + 1,
        busy := decide (r.pos + 1 < redLines r.rcd) } (bits r.rcd 159 144 + (r.pos + 1) - 1)
        (redLine (sramRd u c) r.rcd (bs.map fun b => b.2.line) r.pos).1)
      simp only [hstore, if_true]
      refine ⟨hw.moved.trans (updRun_moved (r := r) (by rw [hw.runs]; exact hr) ?_),
        hkept.trans ((writeLine_keeps (redLine_length _ _ _ _) hline).trans (updRun_keeps _ _ _))⟩
      split
      · exact (writeLine_onward (hon _)).stop _ _ _
      · exact writeLine_onward (hon _)
    · simp only [hstore, Bool.false_eq_true, if_false]
      refine ⟨hsame.moved.trans (updRun_moved (r := r) (by rw [hsame.runs]; exact hr) ?_), hkept.trans (updRun_keeps _ _ _)⟩
      split
      · exact (hon _).stop _ _ _
      · exact hon _

/-- A line of a running op moves, and stores at most where a line is due. -/
theorem moveLine_moves {r : OpRun} (hr : r ∈ (s.coreAt c).inflight) (hd : OutsideDue c x (s.coreAt c)) (h : moveLine s c r = some t) :
    MovedOnAt c s t ∧ KeepsByte x s t := by
  simp only [moveLine] at h
  split at h
  · exact nomatch h
  · next hrun =>
    simp only [Bool.or_eq_true, not_or, Bool.not_eq_true', Bool.not_eq_false] at hrun
    obtain ⟨hb, -⟩ := hrun
    split at h
    · next hop => exact moveSnd_moves hop hr h
    · next hop => exact moveRcv_moves hop hb hr hd h
    · next hop => exact moveRed_moves hop hb hr hd h
    · exact nomatch h

/-- Every line that can move does, and stores at most where a line is due. -/
theorem pumpCore_moves : ∀ {n : Nat} {s : State}, OutsideDue c x (s.coreAt c) →
    MovedOnAt c s (pumpCore n s c) ∧ KeepsByte x s (pumpCore n s c)
  | 0, s, _ => ⟨(SameOpsAt.refl s).moved, .refl s⟩
  | n + 1, s, hd => by
    rw [pumpCore]
    split
    · next t ht =>
      obtain ⟨r, hr, hmove⟩ := List.exists_of_findSome?_eq_some ht
      split at hmove
      · obtain ⟨hm, hk⟩ := moveLine_moves hr hd hmove
        obtain ⟨hm', hk'⟩ := pumpCore_moves (n := n) (hd.moved hm)
        exact ⟨hm.trans hm', hk.trans hk'⟩
      · exact nomatch hmove
    · exact ⟨(SameOpsAt.refl s).moved, .refl s⟩

/-- What a core's ops take and send when lines can move. -/
theorem pumpAll_moves (hd : OutsideDue c x (s.coreAt c)) : MovedOnAt c s (pumpAll s c) ∧ KeepsByte x s (pumpAll s c) :=
  pumpCore_moves hd

/-- Lines move on at a core whose ops and memory are as they were. -/
theorem pumpAll_keeps {L : List Field} (hd : OutsideDue c x (s.coreAt c)) (h : Stays L s t) (hm : Field.mem ∉ L)
    (hc : Field.core ∉ L) : KeepsByte x s (pumpAll t c) :=
  (KeepsByte.of_stays h hm).trans (pumpAll_moves (hd.moved (.of_same (SameOpsAt.of_stays h hc)))).2

-- The rows by which lines move

/-- A line that arrives is stored at most where a line is due (R114, R137). -/
theorem execLineArrival_keeps {i : CoreId} {port : Fin 6} {st : Fin 16} {err : LinkErr} (hd : OutsideDue i.val x (s.coreAt i.val))
    (h : execLineArrival i port st err s = .next t) : KeepsByte x s t := by
  simp only [execLineArrival] at h
  split at h
  · split at h
    · rw [← Host.Outcome.next.inj h]; exact .refl s
    · rw [← Host.Outcome.next.inj h]
      refine pumpAll_keeps (L := [.linkCorr, .stream, .lnk, .hostMem, .hst, .ras]) hd (dropOrphans_stays (freeFlits_stays
        (setStream_stays (Stays.ite (.refl _ s) ?_) ⟨by decide⟩) ⟨by decide⟩) ⟨by decide⟩) (by decide) (by decide)
      exact Stays.record (T := [.linkCorr]) (.refl _ s) ⟨by decide⟩
  · rw [← Host.Outcome.next.inj h]; exact .refl s

/-- So is what a returned credit lets move (R137). -/
theorem execCreditReturn_keeps {i : CoreId} {port : Fin 6} {st : Fin 16} (hd : OutsideDue i.val x (s.coreAt i.val))
    (h : execCreditReturn i port st s = .next t) : KeepsByte x s t := by
  simp only [execCreditReturn] at h
  split at h
  · rw [← Host.Outcome.next.inj h]; exact .refl s
  · rw [← Host.Outcome.next.inj h]
    exact pumpAll_keeps hd (setStream_stays (.refl _ s) (.refl _)) (by decide) (by decide)

/-- So is what a routed line lets move (R138, R142). -/
theorem execTransitForward_keeps {i : CoreId} {port : Fin 6} {st : Fin 16} (hd : OutsideDue i.val x (s.coreAt i.val))
    (h : execTransitForward i port st s = .next t) : KeepsByte x s t := by
  simp only [execTransitForward] at h
  split at h
  · rw [← Host.Outcome.next.inj h]; exact .refl s
  split at h
  · rw [← Host.Outcome.next.inj h]; exact .refl s
  split at h
  · rw [← Host.Outcome.next.inj h]; exact .refl s
  · next b u hu =>
    rw [← Host.Outcome.next.inj h]
    exact pumpAll_keeps (L := [.time, .lnk, .stream, .turn, .routes, .hostMem, .hst, .ras]) hd (dropOrphans_stays (countRoute_stays
      (forwardLine_stays (OQStays.get hu (takeHead_stays (.refl _ s) ⟨by decide⟩)) ⟨by decide⟩) ⟨by decide⟩) ⟨by decide⟩)
      (by decide) (by decide)

end Sys2Proof.Machine
end

section
/-! PROOFS. Where an op that ends stores its results, in a core whose other ops take no lines (04_tile_operations.md: Sequencer state,
Array ops, Chimney and near-bank ops). -/

namespace Sys2Proof.Machine

variable {s t u : State} {c x : Nat}

-- The start of an op

/-- Reads of an op's operands leave the ops. -/
theorem readRanges_same (i : Nat) : ∀ (l : List (Nat × Nat)) (s : State), SameOpsAt c s (readRanges s i l).1
  | [], s => .refl s
  | (la, n) :: l, s => by
    simp only [readRanges]
    split
    · exact sramRead_same _ _ _ _
    · exact (sramRead_same _ _ _ _).trans (readRanges_same i l _)

/-- A computation behind its reads leaves the ops. -/
theorem computeOp_same (s : State) (i sub : Nat) (reads : List (Nat × Nat)) (f : State → OpOut) :
    SameOpsAt c s (computeOp s i sub reads f).1 := by
  simp only [computeOp]
  split
  · exact readRanges_same _ _ _
  · exact keeps_ite (P := fun p : State × OpOut => SameOpsAt c s p.1) (readRanges_same _ _ _) (readRanges_same _ _ _)

/-- So does one that reads tier memory too. -/
theorem computeDram_same (s : State) (i sub : Nat) (dreads reads : List (Nat × Nat)) (f : State → OpOut) :
    SameOpsAt c s (computeDram s i sub dreads reads f).1 := by
  have hread : SameOpsAt c s (dramReads s i dreads).1 := .of_stays (dramReads_stays (.refl _ s) (.refl _)).fst (by decide)
  simp only [computeDram]
  split
  · exact hread
  · exact hread.trans (computeOp_same _ _ _ _ _)

/-- A mode request leaves the ops. -/
theorem requestMode_same (s : State) (i : Nat) (q : ModeReq) :
    (∀ t st, requestMode s i q = .now t st → SameOpsAt c s t) ∧ ∀ t, requestMode s i q = .admission t → SameOpsAt c s t := by
  have h := requestMode_stays (n1 := i) (n2 := q) (.refl _ s) (.refl _)
  exact ⟨fun t st e => .of_stays (MStays.get_now e h) (by decide), fun t e => .of_stays (MStays.get_admission e h) (by decide)⟩

/-- What a record does as its unit starts it leaves the ops. -/
theorem computeRec_same (s : State) (i : Nat) (r : Rec) : SameOpsAt c s (computeRec s i r).1 := by
  have hpure : ∀ o : OpOut, SameOpsAt c s (s, o).1 := fun _ => .refl s
  simp only [computeRec]
  split
  · exact computeOp_same _ _ _ _ _
  · exact computeOp_same _ _ _ _ _
  · exact computeOp_same _ _ _ _ _
  · exact computeOp_same _ _ _ _ _
  · exact hpure _
  · exact computeOp_same _ _ _ _ _
  · exact computeOp_same _ _ _ _ _
  · exact computeOp_same _ _ _ _ _
  · exact computeOp_same _ _ _ _ _
  · exact computeOp_same _ _ _ _ _
  · exact hpure _
  · exact hpure _
  · split
    · exact hpure _
    · exact computeDram_same _ _ _ _ _ _
  · split
    · exact hpure _
    · exact computeOp_same _ _ _ _ _
  · split
    · exact hpure _
    split
    · split
      · next e => exact (requestMode_same s i _).1 _ _ e
      · next e => exact (requestMode_same s i _).2 _ e
    · exact hpure _
  · exact computeOp_same _ _ _ _ _
  · exact computeDram_same _ _ _ _ _ _
  · exact hpure _

/-- A counter of a core is no op. -/
theorem bumpCtr_same (k : Core) (i n : Nat) : SameOps k (bumpCtr k i n) := ⟨rfl, rfl, rfl⟩

/-- Stalled cycles that are counted leave the ops. -/
theorem overlapStall_same (s : State) (i : Nat) (r : Rec) : SameOpsAt c s (overlapStall s i r) := by
  refine SameOpsAt.foldl (fun s e => ?_) _ s
  simp only [stallShared]
  split
  · exact .modCore (fun k => SameOps.foldl (fun k j => bumpCtr_same k _ _) _ k) s
  · exact .refl s

-- A core in which nothing takes lines

/-- Nothing in a core takes lines as they arrive, and its sequencer waits for no SNAP barrier. -/
structure Calm (k : Core) : Prop where
  runs : ∀ r ∈ k.inflight, movesLines r.rcd = false
  queued : ∀ q ∈ k.queued, movesLines q.rcd = false
  wait : ∀ id, k.wait ≠ some (.bar id true)

/-- A core in which nothing joins stays calm. -/
theorem Calm.joins {k k' : Core} (h : Calm k) (hj : NoneJoins k k') : Calm k' where
  runs r hr := by
    obtain ⟨y, hy, e⟩ := hj.runs r hr
    rw [e]; exact h.runs y hy
  queued q hq := h.queued q (hj.queued q hq)
  wait id := hj.wait.elim (fun e => by rw [e]; exact h.wait id) fun hn => hn id

/-- In a calm core no line is due. -/
theorem Calm.outsideDue {k : Core} (h : Calm k) : OutsideDue c x k := by
  have hops : ∀ r ∈ k.inflight, opOf r.rcd ≠ 0x05 ∧ opOf r.rcd ≠ 0x0C := fun r hr => by
    have := h.runs r hr
    simp only [movesLines, Bool.or_eq_false_iff, decide_eq_false_iff_not] at this
    exact this.1
  refine ⟨fun r hr o ho => ?_, fun r hr _ ho => ?_⟩
  · obtain ⟨h5, hC⟩ := hops r hr
    rw [linesDue, if_neg (fun h => h.elim hC fun h => h5 h.1)] at ho
    exact absurd ho List.not_mem_nil
  · obtain ⟨h5, hC⟩ := hops r hr
    exact absurd ho fun h => h.elim h5 hC

/-- In a calm core a step keeps a byte and the calm. -/
def CalmStep (c x : Nat) (s t : State) : Prop := Calm (s.coreAt c) → KeepsByte x s t ∧ Calm (t.coreAt c)

theorem CalmStep.refl (s : State) : CalmStep c x s s := fun h => ⟨.refl s, h⟩
theorem CalmStep.trans (h : CalmStep c x s t) (h' : CalmStep c x t u) : CalmStep c x s u := fun h0 =>
  let ⟨hk, h1⟩ := h h0
  let ⟨hk', h2⟩ := h' h1
  ⟨hk.trans hk', h2⟩
theorem CalmStep.of_joins (hk : KeepsByte x s t) (hj : NoneJoinsAt c s t) : CalmStep c x s t := fun h => ⟨hk, h.joins hj⟩
theorem CalmStep.of_stays {L : List Field} (h : Stays L s t) (hm : Field.mem ∉ L) (hc : Field.core ∉ L) : CalmStep c x s t :=
  .of_joins (.of_stays h hm) (.of_stays h hc)
/-- A change of a core that lets no op join. -/
theorem CalmStep.modCore {j : Nat} {f : Core → Core} (hf : ∀ k, NoneJoins k (f k)) (s : State) : CalmStep c x s (s.modCore j f) :=
  .of_joins (.of_stays (modCore_stays (.refl _ s) (.refl _)) (by decide)) (.modCore hf s)

/-- The first op that can start is one of those that wait. -/
theorem nextStart_mem {q : OpQueued} : ∀ {l ahead : List OpQueued}, nextStart s c ahead l = some q → q ∈ l
  | [], _, h => nomatch h
  | y :: l, ahead, h => by
    rw [nextStart] at h
    split at h
    · rw [← Option.some.inj h]; exact List.mem_cons_self
    · exact List.mem_cons_of_mem _ (nextStart_mem h)

/-- An op that starts takes no lines when it took none as it waited. -/
theorem startRec_calm {index : Nat} {r : Rec} {retried : Option (Nat × BitVec 192)} (hr : movesLines r = false) :
    CalmStep c x s (startRec s c index r retried) := by
  have hcompute : CalmStep c x s (computeRec s c r).1 :=
    .of_joins (.of_stays (computeRec_stays (.refl _ s) (.refl _)).fst (by decide)) (computeRec_same s c r).joins
  simp only [startRec]
  refine hcompute.trans fun h => ⟨.of_stays (modCore_stays (.refl _ _) (.refl _)) (by decide), ?_⟩
  obtain ⟨hruns, hqueued, hwait⟩ := h
  rw [State.coreAt_modCore]
  refine ⟨fun y hy => ?_, hqueued, hwait⟩
  rcases List.mem_append.mp hy with hy | hy
  · exact hruns y hy
  · rw [List.mem_singleton.mp hy]; exact hr

/-- What can start does. -/
theorem startQueued_calm : ∀ (n : Nat) (s : State), CalmStep c x s (startQueued n s c)
  | 0, s => .refl s
  | n + 1, s => by
    rw [startQueued]
    split
    · next q hq =>
      intro h
      have hrec := h.queued q (nextStart_mem hq)
      have hstall : CalmStep c x s (overlapStall s c q.rcd) :=
        .of_joins (.of_stays (overlapStall_stays (.refl _ s) (.refl _)) (by decide)) (overlapStall_same s c q.rcd).joins
      have hleave : ∀ s : State, CalmStep c x s (s.modCore c fun k => { k with queued := k.queued.erase q }) := fun s => by
        refine .modCore (fun k => ?_) s
        exact ⟨fun r hr => ⟨r, hr, rfl⟩, fun _ hy => List.mem_of_mem_erase hy, .inl rfl⟩
      exact (hstall.trans ((hleave _).trans ((startRec_calm hrec).trans (startQueued_calm n _)))) h
    · exact .refl s

/-- Nothing takes a line. -/
theorem pumpAll_calm (s : State) : CalmStep c x s (pumpAll s c) := fun h =>
  let ⟨hm, hk⟩ := pumpAll_moves h.outsideDue
  ⟨hk, h.joins hm.joins⟩

/-- Without an NBC in a core its chimney moves no line. -/
theorem pumpChimney_of_none (h : ∀ r ∈ (s.coreAt c).inflight, opOf r.rcd ≠ 0x10) : pumpChimney s c = s := by
  have hnone : nbcRun s c = none := List.find?_eq_none.mpr fun r hr => by
    simp only [h r hr, decide_false, Bool.and_false, Bool.false_and, Bool.false_eq_true, not_false_eq_true]
  simp only [pumpChimney, pumpNbc, nbcMove, hnone]

/-- Nothing moves over the chimney. -/
theorem pumpChimney_calm (s : State) : CalmStep c x s (pumpChimney s c) := fun h => by
  rw [pumpChimney_of_none fun r hr => ?_]
  · exact ⟨.refl s, h⟩
  · have := h.runs r hr
    simp only [movesLines, Bool.or_eq_false_iff, decide_eq_false_iff_not] at this
    exact this.2

/-- What can move does, and stores nothing. -/
theorem settle_calm (s : State) : CalmStep c x s (settle s c) :=
  (startQueued_calm 128 s).trans ((pumpAll_calm _).trans (pumpChimney_calm _))

/-- A core that waits for no SNAP barrier copies nothing as it drains. -/
theorem afterDrain_keeps (h : Calm (s.coreAt c)) : KeepsByte x s (afterDrain s c) := by
  simp only [afterDrain]
  split
  · exact .refl s
  split
  · next id hw => exact absurd hw (h.wait id)
  · exact .of_stays (modCore_stays (.refl _ s) (.refl _)) (by decide)
  · exact .refl s

-- The end of an op (R97, R117, R129, R130)

/-- Results in SRAM are stored at their own bytes. -/
theorem commitSram_keeps : ∀ {ws : List (Nat × List Byte)} {s : State}, (∀ w ∈ ws, outside (sramDpa c w.1) w.2.length x) →
    KeepsByte x s (commitSram s c ws).1
  | [], s, _ => .refl s
  | w :: ws, s, h => by
    have hw : KeepsByte x s (sramWrite s c w.1 w.2).1 := sramWrite_keeps (h w List.mem_cons_self)
    simp only [commitSram]
    split
    · exact hw
    · exact hw.trans (commitSram_keeps fun w' hw' => h w' (List.mem_cons_of_mem _ hw'))

/-- Storing them leaves the ops. -/
theorem commitSram_same (i : Nat) : ∀ (ws : List (Nat × List Byte)) (s : State), SameOpsAt c s (commitSram s i ws).1
  | [], s => .refl s
  | w :: ws, s => by
    simp only [commitSram]
    split
    · exact sramWrite_same _ _ _ _
    · exact (sramWrite_same _ _ _ _).trans (commitSram_same i ws _)

/-- A range of results in tier memory is stored at its own words, or a part of it is. -/
theorem commitRange_keeps {off : Nat} {bs : List Byte} (h : outsideWords (dramDpa c off) bs.length x) :
    KeepsByte x s (commitRange s c off bs).1 := by
  simp only [commitRange]
  split
  · exact dramWrite_keeps (h.part (Nat.le_refl _) (Nat.add_le_add_left (List.length_take_le' _ _) _))
  · split <;> exact dramWrite_keeps h

/-- Results in tier memory are stored at their own words. -/
theorem commitDram_keeps : ∀ {ws : List (Nat × List Byte)} {s : State}, (∀ w ∈ ws, outsideWords (dramDpa c w.1) w.2.length x) →
    KeepsByte x s (commitDram s c ws).1
  | [], s, _ => .refl s
  | w :: ws, s, h => by
    have hw : KeepsByte x s (commitRange s c w.1 w.2).1 := commitRange_keeps (h w List.mem_cons_self)
    simp only [commitDram]
    split
    · exact hw
    · exact hw.trans (commitDram_keeps fun w' hw' => h w' (List.mem_cons_of_mem _ hw'))

/-- A run that is counted leaves the ops. -/
theorem countRun_same (s : State) (i : Nat) (r : OpRun) : SameOpsAt c s (countRun s i r) := by
  refine .modCore (fun k => ?_) s
  refine .trans ?_ (SameOps.foldl (fun k g => ?_) _ _)
  · refine .trans ?_ (SameOps.foldl (fun k e => ?_) _ _)
    · refine SameOps.foldl (fun k a => ?_) _ _
      exact keeps_ite (P := SameOps k) (bumpCtr_same k _ _) (.refl k)
    · exact bumpCtr_same k _ _
  · exact ⟨rfl, rfl, rfl⟩

/-- A run that is counted. -/
theorem countRun_calm (s : State) (r : OpRun) : CalmStep c x s (countRun s c r) :=
  .of_joins (.of_stays (countRun_stays (.refl _ s) (.refl _)) (by decide)) (countRun_same s c r).joins

/-- An op that ends with a status stores nothing more. -/
theorem failRun_keeps {r : OpRun} {st : Status} (h : Calm (s.coreAt c)) : KeepsByte x s (failRun s c r st) := by
  have hend : ∀ u : State, CalmStep c x u (settle (endOp u c r st) c) := fun u =>
    (CalmStep.of_joins (.of_stays (endOp_stays (.refl _ u) (.refl _)) (by decide)) (endOp_joins u c r st 0)).trans (settle_calm _)
  have hall : CalmStep c x s (settle (endOp (if st = .uncorrectable ∧ 16 ≤ r.sub ∧ r.sub < 48 then
      noteBank (countRun s c r) c (r.sub - 16) else countRun s c r) c r st) c) := by
    refine (countRun_calm s r).trans (.trans ?_ (hend _))
    split
    · exact .of_stays (noteBank_stays (.refl _ _) (.refl _)) (by decide) (by decide)
    · exact .refl _
  obtain ⟨hk, hcalm⟩ := hall h
  exact hk.trans (afterDrain_keeps hcalm)

/-- A stall that is counted leaves the ops. -/
theorem readoutStall_same (s : State) (r : OpRun) : SameOpsAt c s (readoutStall s c r) := by
  simp only [readoutStall]
  split
  · split
    · simp only [stallShared]
      split
      · exact .modCore (fun k => SameOps.foldl (fun k j => bumpCtr_same k _ _) _ k) s
      · exact .refl s
    · exact .refl s
  · exact .refl s

/-- Cycles that the service path has cost leave the ops. -/
theorem chimneyDelay_same (s : State) (r : OpRun) : SameOpsAt c s (chimneyDelay s c r) := by
  have hdraw : SameOpsAt c s s.draw := .of_stays (draw_stays (.refl _ s) (.refl _)) (by decide)
  simp only [chimneyDelay]
  split
  · exact hdraw.trans (.modCore (fun k => bumpCtr_same k _ _) _)
  · exact .refl s

/-- An op that ends stores its results, and nothing else. -/
theorem finishRun_keeps {r : OpRun} (h : Calm (s.coreAt c)) (hw : ∀ w ∈ r.writes, outside (sramDpa c w.1) w.2.length x)
    (hd : ∀ w ∈ r.dwrites, outsideWords (dramDpa c w.1) w.2.length x) : KeepsByte x s (finishRun s c r) := by
  have hsram : CalmStep c x s (commitSram s c r.writes).1 := .of_joins (commitSram_keeps hw) (commitSram_same c _ s).joins
  have hdram : CalmStep c x (commitSram s c r.writes).1 (commitDram (commitSram s c r.writes).1 c r.dwrites).1 :=
    .of_joins (commitDram_keeps hd) (.of_stays (commitDram_stays (.refl _ _) (.refl _)).fst (by decide))
  have hcount : ∀ u : State, CalmStep c x u (readoutStall (countRun (chimneyDelay u c r) c r) c r) := fun u =>
    (CalmStep.of_joins (.of_stays (chimneyDelay_stays (.refl _ u) (.refl _)) (by decide)) (chimneyDelay_same u r).joins).trans
      ((countRun_calm _ r).trans
        (.of_joins (.of_stays (readoutStall_stays (.refl _ _) (.refl _)) (by decide)) (readoutStall_same _ r).joins))
  have hleave : ∀ (u : State) (fl : Flags) (accs : Core → SMap Acc),
      CalmStep c x u (u.modCore c fun k => { k.dropRun r.unit with flags := k.flags ||| fl, acc := accs k }) := fun u fl accs => by
    refine .modCore (fun k => ?_) u
    exact (dropRun_noneJoins k r.unit).trans (.of_same ⟨rfl, rfl, rfl⟩)
  have hretry : ∀ (u : State) (rep : Report) (time : Option W64),
      CalmStep c x u ((report u rep).modCore c fun k => { k with faultTime := time }) := fun u rep time => by
    refine (CalmStep.of_stays (report_stays (.refl _ u) (.refl _)) (by decide) (by decide)).trans (.modCore (fun k => ?_) _)
    exact .of_same ⟨rfl, rfl, rfl⟩
  have hend : ∀ u : State, CalmStep c x u (settle (doneRec u c r.index r.rcd) c) := fun u =>
    (CalmStep.of_joins (.of_stays (doneRec_stays (.refl _ u) (.refl _)) (by decide)) (doneRec_joins u c _ _)).trans (settle_calm _)
  obtain ⟨hk1, h1⟩ := hsram h
  obtain ⟨hk2, h2⟩ := hdram h1
  simp only [finishRun]
  split
  · exact hk1.trans (failRun_keeps h1)
  split
  · exact (hk1.trans hk2).trans (failRun_keeps h2)
  · refine (hk1.trans hk2).trans ?_
    split
    · obtain ⟨hk3, h3⟩ := ((hcount _).trans ((hleave _ _ _).trans ((hretry _ _ _).trans (hend _)))) h2
      exact hk3.trans (afterDrain_keeps h3)
    · obtain ⟨hk3, h3⟩ := ((hcount _).trans ((hleave _ _ _).trans (hend _))) h2
      exact hk3.trans (afterDrain_keeps h3)

/-- An op that starts again in its place. -/
theorem restartRun_joins (s : State) (r : OpRun) (fault : Nat × BitVec 192) : NoneJoinsAt c s (restartRun s c r fault) := by
  simp only [restartRun]
  refine (computeRec_same s c r.rcd).joins.trans ?_
  rw [NoneJoinsAt, State.coreAt_modCore]
  refine ⟨fun y hy => ?_, fun _ hq => hq, .inl rfl⟩
  obtain ⟨z, hz, rfl⟩ := List.mem_map.mp hy
  refine ⟨z, hz, ?_⟩
  split
  · next e => rw [e]; rfl
  · rfl

/-- A residue mismatch stores nothing. -/
theorem residueRun_keeps {r : OpRun} {sub problem expected observed : Nat} (h : Calm (s.coreAt c)) :
    KeepsByte x s (residueRun s c r sub problem expected observed) := by
  have htime : ∀ (u : State) (time : Option W64), CalmStep c x u (u.modCore c fun k => { k with faultTime := time }) := fun u time => by
    refine .modCore (fun k => ?_) u
    exact .of_same ⟨rfl, rfl, rfl⟩
  have hdrop : ∀ u : State, CalmStep c x u (u.modCore c fun k => k.dropRun r.unit) := fun u =>
    .modCore (fun k => dropRun_noneJoins k r.unit) u
  simp only [residueRun]
  split
  · obtain ⟨hk, -⟩ := ((htime _ _).trans ((countRun_calm _ r).trans (hdrop _))) h
    exact hk.trans (.of_stays (quarantineCore_stays (.refl _ _) (.refl _)) (by decide))
  split
  · have hagain : ∀ (u : State) (fault : Nat × BitVec 192), CalmStep c x u (restartRun u c r fault) := fun u fault =>
      .of_joins (.of_stays (restartRun_stays (.refl _ u) (.refl _)) (by decide)) (restartRun_joins u r fault)
    exact (((htime _ _).trans ((countRun_calm _ r).trans ((hagain _ _).trans (settle_calm _)))) h).1
  · have hfault : ∀ (u : State) (rep : Report), CalmStep c x u (opFault u c rep) := fun u rep =>
      .of_joins (.of_stays (opFault_stays (.refl _ u) (.refl _)) (by decide)) (opFault_joins u c rep)
    obtain ⟨hk, hcalm⟩ := ((htime _ _).trans ((hdrop _).trans ((countRun_calm _ r).trans ((hfault _ _).trans (settle_calm _))))) h
    exact hk.trans (afterDrain_keeps hcalm)

/-- An op that ends, with whatever status, stores at most its results. -/
theorem endRun_keeps {r : OpRun} (h : Calm (s.coreAt c)) (hw : ∀ w ∈ r.writes, outside (sramDpa c w.1) w.2.length x)
    (hd : ∀ w ∈ r.dwrites, outsideWords (dramDpa c w.1) w.2.length x) : KeepsByte x s (endRun s c r) := by
  have hroute : CalmStep c x s (xfwdOutcome s c r.rcd).1 :=
    .of_joins (.of_stays (xfwdOutcome_stays (.refl _ s) (.refl _)).fst (by decide))
      (.of_stays (xfwdOutcome_stays (.refl _ s) (.refl _)).fst (by decide))
  have hsram : CalmStep c x s (commitSram s c r.writes).1 := .of_joins (commitSram_keeps hw) (commitSram_same c _ s).joins
  obtain ⟨hkr, hr⟩ := hroute h
  obtain ⟨hks, hs⟩ := hsram h
  simp only [endRun]
  split
  · split
    · split
      · exact hkr.trans (finishRun_keeps hr hw hd)
      · exact hkr.trans (failRun_keeps hr)
    · exact finishRun_keeps h hw hd
  · exact residueRun_keeps h
  · split
    · split
      · exact hks.trans (failRun_keeps hs)
      · exact hks.trans (failRun_keeps hs)
    · exact failRun_keeps h

/-- OP_COMPLETE stores at most the results of its op, in a core whose ops take no lines and that waits for no SNAP barrier. -/
theorem execOpComplete_keeps {i : CoreId} {w : OpUnit} {r : OpRun}
    (hr : ((startAtReadout s i.val).coreAt i.val).inflight.find? (fun r => decide (r.unit = w)) = some r)
    (hcalm : Calm ((startAtReadout s i.val).coreAt i.val)) (hw : ∀ w ∈ r.writes, outside (sramDpa i.val w.1) w.2.length x)
    (hd : ∀ w ∈ r.dwrites, outsideWords (dramDpa i.val w.1) w.2.length x) (h : execOpComplete i w .clean s = .next t) :
    KeepsByte x s t := by
  have hstart : KeepsByte x s (startAtReadout s i.val) := .of_stays (startAtReadout_stays (.refl _ s) (.refl _)) (by decide)
  simp only [execOpComplete, opEnds, hr] at h
  split at h
  · rw [← Host.Outcome.next.inj h]; exact hstart
  · rw [← Host.Outcome.next.inj h]; exact hstart.trans (endRun_keeps hcalm hw hd)

end Sys2Proof.Machine
end

section
/-! PROOFS. Where an NBU command that completes stores its results, and which bytes each storing row leaves (07_near_bank_units.md: Block
checks, Results; 01_stack_organisation.md: The device physical address map). -/

namespace Sys2Proof.Machine

variable {s t u : State} {c x : Nat}

-- The results of a command

/-- The parts of a range page by page lie in it. -/
theorem pageParts_within {p : Nat × Nat} : ∀ {k off n : Nat}, p ∈ pageParts k off n → off ≤ p.1 ∧ p.1 + p.2 ≤ off + n
  | 0, _, _, h => absurd h List.not_mem_nil
  | k + 1, off, n, h => by
    rw [pageParts] at h
    split at h
    · exact absurd h List.not_mem_nil
    · rcases List.mem_cons.mp h with rfl | h
      · exact ⟨Nat.le_refl _, by omega⟩
      · have := pageParts_within h
        omega

/-- A write cut at page boundaries is a part of a write. -/
theorem cutPages_within {ws : List (Nat × List Byte)} {w : Nat × List Byte} (h : w ∈ cutPages ws) :
    ∃ v ∈ ws, v.1 ≤ w.1 ∧ w.1 + w.2.length ≤ v.1 + v.2.length := by
  simp only [cutPages, List.mem_flatMap, List.mem_map] at h
  obtain ⟨v, hv, p, hp, rfl⟩ := h
  have hin := pageParts_within hp
  have hlen := List.length_take_le p.2 (v.2.drop (p.1 - v.1))
  exact ⟨v, hv, hin.1, by dsimp only; omega⟩

/-- Bytes written at several places leave every other byte. -/
theorem rdByte_foldl_wrBytes {ws : List (Nat × List Byte)} (h : ∀ w ∈ ws, outside (dramDpa c w.1) w.2.length x) (m : Mem) :
    rdByte (ws.foldl (fun m w => wrBytes m (dramDpa c w.1) w.2) m) x = rdByte m x := by
  induction ws generalizing m with
  | nil => rfl
  | cons w ws ih =>
    rw [List.foldl_cons, ih fun v hv => h v (List.mem_cons_of_mem _ hv)]
    exact rdByte_wrBytes_ne _ _ _ _ (h w List.mem_cons_self)

/-- The results of a command are stored at their own bytes. -/
theorem commitNbu_keeps {ws : List (Nat × List Byte)} (h : ∀ w ∈ ws, outside (dramDpa c w.1) w.2.length x) :
    KeepsByte x s (commitNbu s c ws) := by
  have hcodes : KeepsByte x s ((pagesOf (cutPages ws)).foldl (commitPage (cutPages ws) c) s) :=
    .of_stays (Stays.foldl _ (fun _ _ h => commitPage_stays h (.refl _)) (.refl _ s)) (by decide)
  refine Eq.trans (rdByte_foldl_wrBytes (fun w hw => ?_) _) hcodes
  obtain ⟨v, hv, hlo, hhi⟩ := cutPages_within hw
  exact (h v hv).part (Nat.add_le_add_left hlo _) (by simp only [dramDpa]; omega)

/-- The check word of a block is stored at its own words (R211). -/
theorem recompBlock_keeps {base b : Nat} {acc : State × Option Nat} (h : outsideWords (dramDpa c (base + 4 * b)) 4 x) :
    KeepsByte x acc.1 (recompBlock c base acc b).1 := by
  have hread : KeepsByte x acc.1 (freshPages (dramRead acc.1 c (4096 * b) 4096).1 c
      (pageIn (4096 * b) 4096 (dramRead acc.1 c (4096 * b) 4096).2)) :=
    .of_stays (freshPages_stays (dramRead_stays (Stays.refl [.hostMem, .err, .hst, .ras, .memc, .region] acc.1) ⟨by decide⟩).fst
      ⟨by decide⟩) (by decide)
  simp only [recompBlock]
  split
  · exact .refl _
  split
  · exact .refl _
  split
  · exact hread
  · exact hread.trans (dramWrite_keeps (by rw [leBytes_length]; exact h))

/-- So are those of all the blocks. -/
theorem commitRun_keeps {run : NbuRun}
    (h : ∀ b ∈ run.recomp, outsideWords (dramDpa c ((s.regionAt c).chkBase.toNat + 4 * b)) 4 x) :
    KeepsByte x s (commitRun s c run).1 := by
  have hblocks : ∀ (base : Nat) (l : List Nat) (acc : State × Option Nat), (∀ b ∈ l, outsideWords (dramDpa c (base + 4 * b)) 4 x) →
      KeepsByte x acc.1 (l.foldl (recompBlock c base) acc).1 := fun base l => by
    induction l with
    | nil => exact fun acc _ => .refl _
    | cons b l ih =>
      exact fun acc hl => (recompBlock_keeps (hl b List.mem_cons_self)).trans (ih _ fun b hb => hl b (List.mem_cons_of_mem _ hb))
  simp only [commitRun]
  split <;> exact hblocks _ _ _ h

-- The service path and the mirror of a region

/-- A region's waiting accesses and its mirror are as before. -/
structure SamePath (r r' : Region) : Prop where
  behind : r'.behind = r.behind
  mirror : r'.mirror = r.mirror

/-- Of the region of core c. -/
def SamePathAt (c : Nat) (s t : State) : Prop := SamePath (s.regionAt c) (t.regionAt c)

theorem SamePathAt.refl (s : State) : SamePathAt c s s := ⟨rfl, rfl⟩
theorem SamePathAt.trans (h : SamePathAt c s t) (h' : SamePathAt c t u) : SamePathAt c s u :=
  ⟨h'.behind.trans h.behind, h'.mirror.trans h.mirror⟩
theorem SamePathAt.of_region (h : t.region = s.region) : SamePathAt c s t := by
  rw [SamePathAt, State.regionAt, State.regionAt, h]; exact ⟨rfl, rfl⟩
theorem SamePathAt.of_stays {L : List Field} (h : Stays L s t) (hr : Field.region ∉ L) : SamePathAt c s t :=
  .of_region (h.frame .region hr)
theorem SamePathAt.modRegion {f : Region → Region} (hf : SamePath (s.regionAt c) (f (s.regionAt c))) :
    SamePathAt c s (s.modRegion c f) := by
  rw [SamePathAt, State.regionAt_modRegion]; exact hf

/-- A changed NBU leaves them. -/
theorem setNbu_path (s : State) (n : Nat) (v : Nbu) : SamePathAt c s (s.setNbu c n v) := .modRegion ⟨rfl, rfl⟩

/-- A demand read of tier memory leaves them. -/
theorem dramRead_path (s : State) (off n : Nat) : SamePathAt c s (dramRead s c off n).1 := by
  refine dramRead_preserves (P := SamePathAt c s) (fun u page hu => hu.trans (.modRegion ?_)) (fun hu hr => hu.trans (.of_region hr))
    (.refl s)
  split
  · exact ⟨rfl, rfl⟩
  · split <;> exact ⟨rfl, rfl⟩

/-- A rewritten check word leaves them. -/
theorem recompBlock_path (base : Nat) (acc : State × Option Nat) (b : Nat) : SamePathAt c acc.1 (recompBlock c base acc b).1 := by
  have hread : SamePathAt c acc.1 (freshPages (dramRead acc.1 c (4096 * b) 4096).1 c
      (pageIn (4096 * b) 4096 (dramRead acc.1 c (4096 * b) 4096).2)) :=
    (dramRead_path _ _ _).trans (.of_stays (freshPages_stays (.refl _ _) (.refl _)) (by decide))
  simp only [recompBlock]
  split
  · exact .refl _
  split
  · exact .refl _
  split
  · exact hread
  · exact hread.trans (.of_stays (dramWrite_stays (.refl _ _) (.refl _)).fst (by decide))

/-- The row tasks of RECOMP leave them. -/
theorem commitRun_path (s : State) (run : NbuRun) : SamePathAt c s (commitRun s c run).1 := by
  have hblocks : ∀ base : Nat, SamePathAt c s (run.recomp.foldl (recompBlock c base) (s, none)).1 := fun base =>
    keeps_foldl (P := fun acc : State × Option Nat => SamePathAt c s acc.1) (fun acc b h => h.trans (recompBlock_path base acc b)) _
      (.refl s)
  simp only [commitRun]
  split <;> exact hblocks _

-- What follows a command

/-- A line that the region controller writes of its own region is stored at its own bytes. -/
theorem writeOwn_keeps {off : Nat} {bs : List Byte} (h : x < dramDpa c off) : KeepsByte x s (writeOwn s c off bs) :=
  rdByte_wrBytes_ne _ _ _ _ (.inl h)

/-- The mirror is written at and above its base (R230). -/
theorem writeMirror_keeps {changed : List Nat} (h : ∀ m, (s.regionAt c).mirror = some m → x < dramDpa c m) :
    KeepsByte x s (writeMirror s c changed) := by
  simp only [writeMirror]
  split
  · exact .refl s
  · next m hm =>
    have hx := h m hm
    refine .trans (KeepsByte.foldl _ (fun k _ u => writeOwn_keeps ?_) s) (writeOwn_keeps hx)
    simp only [dramDpa] at hx ⊢
    omega

/-- A change of a region's table stores in its mirror alone. -/
theorem editTable_keeps {es : List (Nat × BitVec 128)} (h : ∀ m, (s.regionAt c).mirror = some m → x < dramDpa c m) :
    KeepsByte x s (editTable s c es) := by
  simp only [editTable]
  split
  · exact .refl s
  · refine .trans (KeepsByte.of_mem rfl) (writeMirror_keeps fun m hm => h m ?_)
    rw [State.regionAt_modRegion] at hm
    exact hm

/-- A change of a region's table leaves its path and mirror's base. -/
theorem editTable_path (s : State) (es : List (Nat × BitVec 128)) : SamePathAt c s (editTable s c es) := by
  simp only [editTable]
  split
  · exact .refl s
  · exact (SamePathAt.modRegion ⟨rfl, rfl⟩).trans (.of_stays (writeMirror_stays (.refl _ _) (.refl _)) (by decide))

/-- A token that is appended is stored in the mirror alone (R232), and leaves the region's path. -/
theorem appendToken_keeps {n : Nat} {l : Line} (h : ∀ m, (s.regionAt c).mirror = some m → x < dramDpa c m) :
    KeepsByte x s (appendToken s c n l) ∧ SamePathAt c s (appendToken s c n l) := by
  have hmiss : ∀ rep : Report, KeepsByte x s (report s rep) ∧ SamePathAt c s (report s rep) := fun rep =>
    have hst := report_stays (n1 := rep) (.refl _ s) (.refl _)
    ⟨.of_stays hst (by decide), .of_stays hst (by decide)⟩
  simp only [appendToken]
  split
  · exact hmiss _
  split
  · exact ⟨editTable_keeps h, editTable_path _ _⟩
  split
  · exact ⟨(editTable_keeps h).trans (.of_mem rfl), (editTable_path _ _).trans (.of_region rfl)⟩
  · exact hmiss _

/-- What follows a command's end stores in the region's mirror alone, and there only behind a KVAPP. -/
theorem afterCommand_keeps {n : Nat} {run : NbuRun}
    (h : ∀ m, (s.regionAt c).mirror = some m → cmdOp run.cmd.cmd = 0x04 → x < dramDpa c m) :
    KeepsByte x s (afterCommand s c n run) ∧ SamePathAt c s (afterCommand s c n run) := by
  simp only [afterCommand]
  split
  · have happend : KeepsByte x s (if cmdOp run.cmd.cmd = 4 then appendToken s c n run.cmd.cmd else s) ∧
        SamePathAt c s (if cmdOp run.cmd.cmd = 4 then appendToken s c n run.cmd.cmd else s) := by
      split
      · next hop => exact appendToken_keeps fun m hm => h m hm hop
      · exact ⟨.refl s, .refl s⟩
    obtain ⟨hk, hp⟩ := happend
    split
    · have hst := fun u : State => bumpCnt_stays (n1 := c) (n2 := bits run.cmd.cmd 11 8) (n3 := nbuReport u c n run.cmd.cmd .ok 0 none)
        (.refl _ u) (.refl _)
      exact ⟨hk.trans (.of_stays (hst _) (by decide)), hp.trans (.of_stays (hst _) (by decide))⟩
    · exact ⟨hk, hp⟩
  · have hfail : KeepsByte x s (if cmdMerge run.cmd.cmd then countFailed s c run.cmd.cmd else s) ∧
        SamePathAt c s (if cmdMerge run.cmd.cmd then countFailed s c run.cmd.cmd else s) := by
      split
      · exact ⟨.of_mem rfl, .modRegion ⟨rfl, rfl⟩⟩
      · exact ⟨.refl s, .refl s⟩
    obtain ⟨hk, hp⟩ := hfail
    split
    · exact ⟨hk.trans (.of_stays (opFault_stays (.refl _ _) (.refl _)) (by decide)),
        hp.trans (.of_stays (opFault_stays (.refl _ _) (.refl _)) (by decide))⟩
    · exact ⟨hk.trans (.of_stays (report_stays (.refl _ _) (.refl _)) (by decide)),
        hp.trans (.of_stays (report_stays (.refl _ _) (.refl _)) (by decide))⟩

/-- What follows a command's end lets no op join. -/
theorem afterCommand_joins (s : State) (n : Nat) (run : NbuRun) : NoneJoinsAt c s (afterCommand s c n run) := by
  simp only [afterCommand]
  split
  · have happend : NoneJoinsAt c s (if cmdOp run.cmd.cmd = 4 then appendToken s c n run.cmd.cmd else s) :=
      keeps_ite (P := NoneJoinsAt c s) (.of_stays (appendToken_stays (.refl _ s) (.refl _)) (by decide)) (.refl s)
    exact keeps_ite (P := NoneJoinsAt c s) (happend.trans (bumpCnt_joins _ _ _ _)) happend
  · have hfail : NoneJoinsAt c s (if cmdMerge run.cmd.cmd then countFailed s c run.cmd.cmd else s) :=
      keeps_ite (P := NoneJoinsAt c s) (.of_stays (countFailed_stays (.refl _ s) (.refl _)) (by decide)) (.refl s)
    split
    · exact hfail.trans (opFault_joins _ _ _)
    · exact hfail.trans (report_joins _ _ _)

/-- A waiting window write that takes a free entry leaves the path and the mirror. -/
theorem admitWaiting_path (s : State) (n : Nat) : SamePathAt c s (admitWaiting s c n) := by
  simp only [admitWaiting]
  split
  · split
    · exact setNbu_path _ _ _
    · exact .refl s
  · exact .refl s

/-- A region behind whose path nothing waits serves nothing. -/
theorem settlePath_of_empty (h : (s.regionAt c).behind = []) : settlePath s c = s := by
  rw [settlePath, h]; rfl

/-- The end of a command, in a core without an NBC and behind whose path nothing waits, stores the check words of its blocks and, for
KVAPP, in the mirror. -/
theorem endCommand_keeps {n : Nat} {run : NbuRun} (hb : (s.regionAt c).behind = []) (hn : ∀ r ∈ (s.coreAt c).inflight, opOf r.rcd ≠ 0x10)
    (hw : ∀ b ∈ run.recomp, outsideWords (dramDpa c ((s.regionAt c).chkBase.toNat + 4 * b)) 4 x)
    (hm : ∀ m, (s.regionAt c).mirror = some m → cmdOp run.cmd.cmd = 0x04 → x < dramDpa c m) :
    KeepsByte x s (endCommand s c n run) := by
  have hcmd : (commitRun s c run).2.cmd = run.cmd := by simp only [commitRun]; split <;> rfl
  have hrun : NoneJoinsAt c s (commitRun s c run).1 := .of_stays (commitRun_stays (.refl _ s) (.refl _)).fst (by decide)
  have hpost : ∀ v : Nbu, SamePathAt c s ((commitRun s c run).1.setNbu c n v) := fun v =>
    (commitRun_path s run).trans (setNbu_path _ _ _)
  have hafter : ∀ (v : Nbu) (fl : Flags),
      let e := afterCommand ((commitRun s c run).1.setNbu c n v) c n { (commitRun s c run).2 with flags := fl }
      KeepsByte x s e ∧ SamePathAt c s e ∧ NoneJoinsAt c s e := fun v fl => by
    obtain ⟨hk, hp⟩ := afterCommand_keeps (n := n) (s := (commitRun s c run).1.setNbu c n v) (x := x)
      (run := { (commitRun s c run).2 with flags := fl })
      (fun m hs hop => hm m (by rw [← hs, (hpost v).mirror]) (by rw [← hop, hcmd]))
    have hset : NoneJoinsAt c (commitRun s c run).1 ((commitRun s c run).1.setNbu c n v) :=
      .of_stays (setNbu_stays (.refl _ _) (.refl _)) (by decide)
    exact ⟨(commitRun_keeps hw).trans ((KeepsByte.of_mem rfl).trans hk), (hpost v).trans hp,
      hrun.trans (hset.trans (afterCommand_joins _ _ _))⟩
  have hfinish : ∀ e : State, KeepsByte x s e ∧ SamePathAt c s e ∧ NoneJoinsAt c s e →
      KeepsByte x s (settlePath (pumpChimney (admitWaiting e c n) c) c) := fun e ⟨hk, hp, hj⟩ => by
    have hst := admitWaiting_stays (n1 := c) (n2 := n) (.refl _ e) (.refl _)
    have hnone : NoneJoinsAt c s (admitWaiting e c n) := hj.trans (.of_stays hst (by decide))
    have hpath : SamePathAt c s (admitWaiting e c n) := hp.trans (admitWaiting_path _ _)
    rw [pumpChimney_of_none fun r hr => ?_, settlePath_of_empty (hpath.behind.trans hb)]
    · exact hk.trans (.of_stays hst (by decide))
    · obtain ⟨y, hy, e⟩ := hnone.runs r hr
      rw [e]
      exact hn y hy
  exact hfinish _ (hafter _ _)

/-- NBU_COMMAND_COMPLETE stores the command's results, the check words of the blocks that they touch and, for KVAPP, in the mirror. -/
theorem execNbuCommandComplete_keeps {i : CoreId} {n : NbuId} {run : NbuRun} (hr : (s.nbuAt i.val n.val).running = some run)
    (hb : (s.regionAt i.val).behind = []) (hn : ∀ r ∈ (s.coreAt i.val).inflight, opOf r.rcd ≠ 0x10)
    (hw : ∀ w ∈ run.writes, outside (dramDpa i.val w.1) w.2.length x)
    (hc : ∀ b ∈ run.recomp ++ touchedBlocks run.writes,
      outsideWords (dramDpa i.val ((s.regionAt i.val).chkBase.toNat + 4 * b)) 4 x)
    (hm : ∀ m, (s.regionAt i.val).mirror = some m → cmdOp run.cmd.cmd = 0x04 → x < dramDpa i.val m)
    (h : execNbuCommandComplete i n s = .next t) : KeepsByte x s t := by
  have hcommit := commitNbu_stays (n1 := i.val) (n2 := run.writes) (.refl _ s) (.refl _)
  have hregion : (commitNbu s i.val run.writes).regionAt i.val = s.regionAt i.val := by
    rw [State.regionAt, State.regionAt, hcommit.frame .region (by decide)]
  have hcore : (commitNbu s i.val run.writes).coreAt i.val = s.coreAt i.val := by
    rw [State.coreAt, State.coreAt, hcommit.frame .core (by decide)]
  have hblocks : ∀ b ∈ (standWrites s i.val run).2.recomp, b ∈ run.recomp ++ touchedBlocks run.writes := fun b hb => by
    simp only [standWrites] at hb
    split at hb
    · exact hb
    · exact absurd hb List.not_mem_nil
  simp only [execNbuCommandComplete, hr] at h
  split at h
  · rw [← Host.Outcome.next.inj h]; exact .refl s
  split at h
  · rw [← Host.Outcome.next.inj h]
    exact (commitNbu_keeps hw).trans (.of_stays (modNbu_stays (.refl _ _) (.refl _)) (by decide))
  · rw [← Host.Outcome.next.inj h]
    refine (commitNbu_keeps hw).trans (endCommand_keeps ?_ ?_ ?_ ?_)
    · rw [hregion]; exact hb
    · rw [hcore]; exact hn
    · rw [hregion]; exact fun b hb => hc b (hblocks b hb)
    · rw [hregion]; exact hm

-- The statement

/-- A row that moves lines on the mesh stores the lines still due to its core's ops. -/
theorem movesMesh_keeps {i : CoreId} {row : Instr} (hrow : movesMesh i row = true) (hd : OutsideDue i.val x (s.coreAt i.val))
    (h : exec row s = .next t) : KeepsByte x s t := by
  unfold movesMesh at hrow
  split at hrow
  · obtain rfl := of_decide_eq_true hrow
    exact execLineArrival_keeps hd h
  · obtain rfl := of_decide_eq_true hrow
    exact execCreditReturn_keeps hd h
  · obtain rfl := of_decide_eq_true hrow
    exact execTransitForward_keeps hd h
  · exact nomatch hrow

/-- Settles O8: each storing row is followed to the writes that it makes, and whatever else it runs keeps every byte. -/
theorem memoryReadAfterWrite : Obligations.MemoryReadAfterWrite := by
  unfold Obligations.MemoryReadAfterWrite
  refine ⟨fun m a bs => ⟨rdBytes_wrBytes_same _ _ _, fun x hx => rdByte_wrBytes_ne _ _ _ _ hx⟩,
    fun ch i d s t hwait => ⟨fun hn h x hx => ?_, fun hn h x hx => ?_, fun m hn hm h x hx => ?_⟩,
    fun ch i d s t u v im pl hn hp hf hc hr hw h x hs hd => ?_,
    ⟨fun c u s t r hr hruns hqueued hbar h x hw hd => execOpComplete_keeps hr ⟨hruns, hqueued, hbar⟩ hw hd h,
      fun c row s t hrow hshort h x hx => movesMesh_keeps hrow ⟨hx, hshort⟩ h⟩,
    fun c n s t run hr hb hn h x hw hc hm => execNbuCommandComplete_keeps hr hb hn hw hc hm h⟩
  · rw [← Host.Outcome.next.inj h]; exact descRow_keeps (nextEntry_of_nextDesc hn) (cpFillEff_leaves hwait hx)
  · rw [← Host.Outcome.next.inj h]; exact descRow_keeps (nextEntry_of_nextDesc hn) (cpCopyEff_leaves hwait hx)
  · rw [← Host.Outcome.next.inj h]; exact descRow_keeps (nextEntry_of_nextDesc hn) (cpPutEff_leaves hm hx)
  · rw [← Host.Outcome.next.inj h]; exact descRow_keeps (nextEntry_of_nextDesc hn) (partLoadEff_leaves hp hf hc hr hw hs hd)

end Sys2Proof.Machine
end
